-- ==== Sys2Proof/Word.lean ====
section
/-! DEFINITION. The byte and the twelve-channel tuple, with their plainest operations. Quantities of the SL-1240 are
integers in the units of spec/00_scope.md section 4.2 and are `Nat` (or `Int` where the spec signs them); bit vectors
stand only for frame bytes, CRC registers and the channel mask. -/

namespace Sys2Proof

/-- One byte of a frame (spec/11_request_port_notices_and_frame_layouts.md, section 11.7). -/
abbrev Byte := BitVec 8

/-- A channel number 0..11 (R28). -/
abbrev Chan := Fin 12

/-- Twelve figures, one per channel: estimates, reservations, gains, densities. -/
abbrev Vec12 := Vector Nat 12

/-- The same figure on every channel. -/
def Vec12.all (n : Nat) : Vec12 := Vector.replicate 12 n

/-- The channels in ascending order. -/
def Chan.list : List Chan := List.finRange 12

/-- A Lab value, each coordinate in 0.01 (spec/00_scope.md section 4.2). -/
structure Lab where
  L : Int
  a : Int
  b : Int
deriving DecidableEq, Repr, Inhabited

end Sys2Proof
end

