-- ==== Sys2Proof/Syntax.lean ====
section
/-! DEFINITION. The commands the SL-1240 takes, one constructor of `Instr` for each row of spec/opcode_table.json, with
the operands of the frame or event (spec/11_request_port_notices_and_frame_layouts.md, section 11.7). An operand that
the frame carries as a code byte stays the raw code, because the rules themselves refuse the codes that name nothing. -/

namespace Sys2Proof

/-- Body of SUBMIT JOB (section 11.7). -/
structure SubmitReq where
  kind : Nat
  editionSupplied : Bool
  tag : Nat
  edition : Nat
  roll : Nat
  lead : Nat
  image : Nat
  tail : Nat
  swaths : Nat
  estimates : Vec12
deriving DecidableEq, Repr

/-- Body of SET CHANNEL (section 11.7). -/
structure ChannelReq where
  channel : Nat
  product : Nat
  vS : Nat
  vM : Nat
  vL : Nat
  weight : Nat
  gain : Nat
  margin : Nat
  allowance : Nat
  reserve : Nat
deriving DecidableEq, Repr

/-- Body of INSTALL LOT (section 11.7). -/
structure InstallReq where
  channel : Nat
  slot : Nat
  code : Nat
  product : Nat
  fill : Nat
  expiry : Nat
deriving DecidableEq, Repr

/-- Body of LOAD ROLL (section 11.7). -/
structure LoadRollReq where
  slot : Nat
  product : Nat
  width : Nat
  id : Nat
  length : Nat
deriving DecidableEq, Repr

/-- The media geometry (R104): the body of SET MEDIA GEOMETRY and the values in force. -/
structure Geometry where
  sensorOffset : Nat
  cutterOffset : Nat
  stripGap : Nat
  stripLength : Nat
  leadTrim : Nat
  cutTimeout : Nat
deriving DecidableEq, Repr

/-- Body of SET CHECK PLAN (section 11.7). -/
structure PlanReq where
  interval : Nat
  cadence : Nat
  stripSwaths : Nat
  tolerance : Nat
  densities : Vec12
  labs : List Lab
deriving DecidableEq, Repr

/-- A colour reference (R155): twelve gains, twelve densities and a Lab set. -/
structure Reference where
  gains : Vec12
  densities : Vec12
  labs : List Lab
deriving DecidableEq, Repr

/-- Body of CREATE EDITION (section 11.7); a tolerance or band of 0xFFFF stands for DEFAULT. -/
structure EditionReq where
  id : Nat
  limit : Nat
  mask : Nat
  tolerance : Nat
  band : Nat
  reference : Option Reference
deriving DecidableEq, Repr

/-- Body of WRITE PRICE: the price entry image (section 11.7). -/
structure PriceReq where
  cls : Nat
  protect : Bool
  code : Nat
  price : Nat
deriving DecidableEq, Repr

/-- The drop counts of one channel in a SWATH or PURGE (R51). -/
structure Drops where
  nS : Nat
  nM : Nat
  nL : Nat
deriving DecidableEq, Repr, Inhabited

/-- The drop counts of a frame, one triple per channel. -/
abbrev DropCounts := Vector Drops 12

/-- Fields of a READING message (R136). -/
structure ReadingMsg where
  seq : Nat
  status : Nat
  densities : Vec12
  labs : List Lab
deriving DecidableEq, Repr

/-- The name of a record in the store (R191). -/
inductive RecKey where
  | channel (c : Chan)
  | plan
  | geometry
  | stripMode
  | lot (code : Nat)
  | slots (c : Chan)
  | roll (id : Nat)
  | edition (id : Nat)
  | prices
  | job (tag : Nat)
  | counters
deriving DecidableEq, Repr

/-- What a STORE_WRITE_FAILURE event names (R197, R198): images of one commit group, a close entry, a dirty mark, or the
clean marker. -/
inductive FailedWrite where
  | images (group : Nat) (keys : List RecKey)
  | close (group : Nat)
  | mark (key : RecKey)
  | marker
deriving DecidableEq, Repr

/-- What failed in the commit group of a restore that ends: the images of these records, and its close entry (R197,
R207). -/
structure FailedRestore where
  images : List RecKey
  close : Bool
deriving DecidableEq, Repr

/-- The commands of spec/opcode_table.json, in the table's order. A host request carries the sequence number of its
frame. -/
inductive Instr where
  | submitJob (seq : Nat) (r : SubmitReq)
  | admitJob (seq tag : Nat)
  | beginJob (seq tag : Nat)
  | cancelJob (seq tag reason : Nat)
  | readJob (seq tag : Nat)
  | retireJob (seq tag : Nat)
  | setChannel (seq : Nat) (r : ChannelReq)
  | readChannel (seq channel : Nat)
  | installLot (seq : Nat) (r : InstallReq)
  | removeLot (seq channel slot : Nat)
  | amendLot (seq code remaining : Nat)
  | retireLot (seq code : Nat)
  | readLot (seq code : Nat)
  | setDay (seq day : Nat)
  | setRowMask (seq channel segment : Nat) (missing weeping : Bool)
  | substituteRow (seq channel segment kind : Nat)
  | loadRoll (seq : Nat) (r : LoadRollReq)
  | selectRoll (seq id : Nat)
  | unloadRoll (seq id : Nat)
  | retireRoll (seq id : Nat)
  | readRoll (seq id : Nat)
  | readMedia (seq : Nat)
  | setMediaGeometry (seq : Nat) (g : Geometry)
  | clearJamRetry (seq : Nat)
  | clearJamSkip (seq : Nat)
  | setCheckPlan (seq : Nat) (r : PlanReq)
  | forceCheck (seq : Nat)
  | readCheckState (seq : Nat)
  | createEdition (seq : Nat) (r : EditionReq)
  | adoptReference (seq id : Nat)
  | rejectReference (seq id : Nat)
  | closeEdition (seq id : Nat)
  | retireEdition (seq id : Nat)
  | readEdition (seq id : Nat)
  | writePrice (seq : Nat) (r : PriceReq)
  | removePrice (seq cls code : Nat)
  | lockPrices (seq : Nat)
  | unlockPrices (seq : Nat)
  | readPrices (seq : Nat)
  | setStripAccounting (seq mode : Nat)
  | readOverhead (seq : Nat)
  | clearOverhead (seq : Nat)
  | readNotices (seq : Nat)
  | identify (seq : Nat)
  | readStatus (seq : Nat)
  | requestFrameRefused (frame : List Byte)
  | requestFrameDropped (frame : List Byte)
  | swath (tag kind : Nat) (toggle : Bool) (counts : DropCounts)
  | purge (toggle : Bool) (counts : DropCounts)
  | rowStatus (channel segment fault : Nat)
  | rowMapQuery
  | headFrameCrcBad (frame : List Byte)
  | feed (delta : Int)
  | cutDone
  | cutFault (code : Nat)
  | cutTimeout
  | rollPresent (slot presence : Nat)
  | rollEnd (slot : Nat)
  | reading (m : ReadingMsg)
  | pfailAssert
  | pfailDeassert
  | powerOn
  | reset
  | restoreEnd (failed : FailedRestore)
  | commitGroupComplete (group : Nat)
  | storeWriteFailure (w : FailedWrite)
  | powerLoss
deriving DecidableEq, Repr

end Sys2Proof
end

