-- ==== Sys2Proof/Config.lean ====
section
/-! DEFINITION. The fixed figures of the part and the values its manual leaves open. Each `opaque` constant has no body:
a claim about the model holds whatever it is. -/

namespace Sys2Proof.Config

/-- The largest unsigned 32-bit figure. -/
def max32 : Nat := 4294967295
/-- The largest unsigned 48-bit figure: edition totals saturate at it (R167). -/
def max48 : Nat := 281474976710655
/-- The largest unsigned 64-bit figure: the overhead accumulators saturate at it (R187). -/
def max64 : Nat := 18446744073709551615

/-- Job Table capacity (R1). -/
def jobCapacity : Nat := 32
/-- Lot Table capacity (R34). -/
def lotCapacity : Nat := 48
/-- Roll Table capacity (R101). -/
def rollCapacity : Nat := 16
/-- Edition Table capacity (R154). -/
def editionCapacity : Nat := 64
/-- Price Table capacity (R173). -/
def priceCapacity : Nat := 24
/-- Cut Queue capacity (R114). -/
def cutCapacity : Nat := 12
/-- Notice queue capacity (R215). -/
def noticeCapacity : Nat := 32

/-- The draw divisor: units of 1/40,960,000 nL in one nL (R51). -/
def drawDivisor : Nat := 40960000
/-- The reservation divisor, 1024 times 100 (R64). -/
def reservationDivisor : Nat := 102400

/-- FREE VALUE, DESIGN CHOICE (log 5). The elapsed milliseconds of a cut in flight, one figure for each reading. -/
opaque elapsedMs : Nat → Nat
/-- FREE VALUE, DESIGN CHOICE (log 6). What a 32-bit media figure holds when its exact value does not fit 32 bits. -/
opaque wide32 : Nat → Nat
/-- FREE VALUE, DESIGN CHOICE (log 7). The subject code, 0..7 after reduction, of the notice for a failed close-entry
write. -/
opaque closeFaultSubject : Nat → Nat
/-- FREE VALUE, DESIGN CHOICE (log 7). The unsaved count carried by a notice for a write that belongs to no region. -/
opaque faultCount : Nat → Nat
/-- FREE VALUE, DESIGN CHOICE (log 8). How the part reads a toggle byte that is neither 0 nor 1. -/
opaque toggleOf : Nat → Bool

/-- FREE VALUE, DESIGN CHOICE (log 43). The length of the piece behind a cut whose media point lies below the roll's last
cut point, reduced to 32 bits, from the two points. -/
opaque backPiece : Nat → Nat → Nat
/-- FREE VALUE, DESIGN CHOICE (log 51). The four target bytes of a STOP_AT that names NONE. -/
opaque stopNone : Nat

end Sys2Proof.Config
end

