-- ==== Sys2Proof/Machine/State.lean ====
section
/-! DEFINITION. The state of the SL-1240: every record, queue, counter and line the chapters name, as plain data, the
reasons a step could stop, and the state right after reset. Tables are lists in ascending key order. Outputs that the
chapters define from other state (BUSY, ATTN, FEED_HOLD, link state, remaining length, usable free) are computed, in
Machine/Flags.lean, and not stored twice. -/

namespace Sys2Proof.Machine

/-! ### Print jobs (spec/01_print_jobs.md) -/

/-- Job kind (R2). -/
inductive JobKind where
  | edition | proof | check
deriving DecidableEq, Repr, Inhabited

/-- Job state (section 1.3). -/
inductive JobState where
  | admitted | deferred | printing | finishing | settled | voided
deriving DecidableEq, Repr, Inhabited

/-- Swath kind (section 4.1). -/
inductive SwathKind where
  | image | strip
deriving DecidableEq, Repr, Inhabited

/-- Strip state of a job (R20). -/
inductive StripState where
  | none | planned | printed | resolved
deriving DecidableEq, Repr, Inhabited

/-- Cut state of a job (R20). -/
inductive CutState where
  | none | pending | done | uncut
deriving DecidableEq, Repr, Inhabited

/-- Void cause of a job (R4). -/
inductive VoidCause where
  | cancelled | aborted | fail | mediaEnd | interrupted
deriving DecidableEq, Repr, Inhabited

/-- Verdict of a check (R143). -/
inductive Verdict where
  | pass | drift | fail
deriving DecidableEq, Repr, Inhabited

/-- The check result a valid reading writes (R147). -/
structure CheckResult where
  verdict : Verdict
  worst : Nat
  densities : Vec12
deriving DecidableEq, Repr

/-- A draw list entry (R61). -/
structure DrawEntry where
  channel : Chan
  lot : Nat
  image : Nat
  strip : Nat
deriving DecidableEq, Repr

/-- A cost record, in cost units (R185). -/
structure CostRecord where
  ink : Nat
  media : Nat
  handling : Nat
  total : Nat
deriving DecidableEq, Repr

/-- The twelve job flags (R3). -/
structure JobFlags where
  overrunInk : Bool := false
  overrunMedia : Bool := false
  inkAtRisk : Bool := false
  lotChanged : Bool := false
  rowFaultDuring : Bool := false
  uncut : Bool := false
  unchecked : Bool := false
  unpriced : Bool := false
  priceMerged : Bool := false
  uncertain : Bool := false
  abortPending : Bool := false
  voidOnSettle : Bool := false
deriving DecidableEq, Repr

/-- What a job is: the fields SUBMIT JOB writes (section 1.2). -/
structure JobSpec where
  kind : JobKind
  edition : Option Nat
  roll : Nat
  lead : Nat
  image : Nat
  tail : Nat
  swaths : Nat
  estimates : Vec12
deriving DecidableEq, Repr

/-- A job record (section 1.2). Optional fields are absent until the event the section names. -/
structure Job where
  tag : Nat
  spec : JobSpec
  state : JobState
  swathsLeft : Nat
  stripLeft : Nat
  toggle : Bool
  lastKind : Option SwathKind
  lastStrip : Option Bool
  ink : Vec12
  rollRes : Nat
  seqNo : Option Nat
  gains : Option Vec12
  handling : Option Nat
  pLead : Option Nat
  plannedEnd : Option Nat
  generation : Option Nat
  strip : StripState
  check : Option CheckResult
  draws : List DrawEntry
  printPiece : Nat
  stripPiece : Nat
  separated : Bool
  cut : CutState
  cost : Option CostRecord
  number : Option Nat
  cause : Option VoidCause
  flags : JobFlags
deriving DecidableEq, Repr

/-! ### Channels, lots and segments (spec/02, spec/05) -/

/-- Tank slot (R33). -/
inductive TankSlot where
  | A | B
deriving DecidableEq, Repr, Inhabited

/-- Channel state (R29). -/
inductive ChannelState where
  | ready | low | out
deriving DecidableEq, Repr, Inhabited

/-- Fault state of a segment (R89). -/
inductive RowFault where
  | ok | missing | weeping
deriving DecidableEq, Repr, Inhabited

/-- Spare state of a segment (R89). -/
inductive SpareState where
  | unused | soft | hard
deriving DecidableEq, Repr, Inhabited

/-- A segment record (R89). -/
structure Segment where
  fault : RowFault := .ok
  maskMissing : Bool := false
  maskWeeping : Bool := false
  spare : SpareState := .unused
deriving DecidableEq, Repr, Inhabited

/-- The fixed fields and the gain of a channel (R28), with the defaults of R28's table. -/
structure ChannelConfig where
  product : Nat := 0
  vS : Nat := 20
  vM : Nat := 45
  vL : Nat := 80
  weight : Nat := 4096
  gain : Nat := 1024
  margin : Nat := 110
  allowance : Nat := 40000
  reserve : Nat := 15000000
deriving DecidableEq, Repr, Inhabited

/-- The slot fields of a channel (R28, R33). -/
structure SlotRecord where
  slotA : Option Nat := Option.none
  slotB : Option Nat := Option.none
  active : Option TankSlot := Option.none
deriving DecidableEq, Repr, Inhabited

/-- A channel record (R28) with its four segment records (R89). -/
structure Channel where
  cfg : ChannelConfig := {}
  slots : SlotRecord := {}
  residue : Nat := 0
  reserved : Nat := 0
  state : ChannelState := .out
  expired : Bool := false
  segments : Vector Segment 4 := Vector.replicate 4 {}
deriving DecidableEq, Repr

/-- Lot state (R35). -/
inductive LotState where
  | loaded | shelved | exhausted
deriving DecidableEq, Repr, Inhabited

/-- A lot record (R34). -/
structure Lot where
  code : Nat
  channel : Chan
  product : Nat
  fill : Nat
  remaining : Nat
  imageDrawn : Nat
  stripDrawn : Nat
  maintDrawn : Int
  price : Nat
  expiry : Nat
  location : Option TankSlot
  state : LotState
  unpriced : Bool
  uncertain : Bool
  expired : Bool
deriving DecidableEq, Repr

/-! ### Rolls and media (spec/06) -/

/-- Roll slot (R101). -/
inductive RollSlot where
  | upper | lower
deriving DecidableEq, Repr, Inhabited

/-- Roll state (R102). -/
inductive RollState where
  | shelved | loaded | active | ended
deriving DecidableEq, Repr, Inhabited

/-- A roll record (R101); the remaining length is derived from it. -/
structure Roll where
  id : Nat
  product : Nat
  width : Nat
  length : Nat
  fed : Nat
  reserved : Nat
  boundary : Nat
  lastCut : Nat
  lastTarget : Nat
  price : Nat
  unpriced : Bool
  state : RollState
  slot : Option RollSlot
  uncertain : Bool
deriving DecidableEq, Repr

/-- Presence of media in a roll slot (R113). -/
inductive Presence where
  | unknown | present | absent
deriving DecidableEq, Repr, Inhabited

/-- Cut kind (R114). -/
inductive CutKind where
  | leadTrim | separate | stripEnd
deriving DecidableEq, Repr, Inhabited

/-- A Cut Queue entry (R114). -/
structure CutEntry where
  kind : CutKind
  point : Nat
  target : Nat
  owner : Option Nat
  stripStart : Option Nat
  armed : Bool
deriving DecidableEq, Repr

/-- Cutter state (R116). -/
inductive CutterState where
  | idle | cutting | jammed
deriving DecidableEq, Repr, Inhabited

/-- The defaults of R104. -/
def defaultGeometry : Geometry :=
  { sensorOffset := 31000, cutterOffset := 48000, stripGap := 500, stripLength := 4000, leadTrim := 2000,
    cutTimeout := 3000 }

/-- A Media Link message held until the link's commit groups are done (R194). -/
inductive MediaMsg where
  | feed (delta : Int)
  | cutDone
  | cutFault (code : Nat)
  | rollPresent (slot presence : Nat)
  | rollEnd (slot : Nat)
deriving DecidableEq, Repr

/-- The Media Unit's state outside the Roll Table: geometry, slot presence, Cut Queue, cutter and cut timer. -/
structure Media where
  geometry : Geometry := defaultGeometry
  upper : Presence := .unknown
  lower : Presence := .unknown
  queue : List CutEntry := []
  cutter : CutterState := .idle
  timer : Option Nat := Option.none
  waiting : List Nat := []
  held : List MediaMsg := []
deriving DecidableEq, Repr

/-! ### Colour checks (spec/07) -/

/-- Cadence mode (R129). -/
inductive Cadence where
  | normal | double | quad
deriving DecidableEq, Repr, Inhabited

/-- The check plan (R129), with its defaults. -/
structure CheckPlan where
  interval : Nat := 8
  cadence : Cadence := .normal
  stripSwaths : Nat := 2
  tolerance : Nat := 150
  densities : Vec12 := Vec12.all 1400
  labs : List Lab := [⟨5000, 0, 0⟩]
deriving DecidableEq, Repr

/-- The arm record (R137). -/
structure Arm where
  seq : Nat
  tag : Nat
deriving DecidableEq, Repr

/-- The Check Unit's state with its start-up values (R153), and the Sensor Link's wait (R194). -/
structure CheckUnit where
  plan : CheckPlan := {}
  forced : Bool := true
  counter : Nat := 0
  armSeq : Nat := 0
  arm : Option Arm := Option.none
  waiting : List Nat := []
  held : List ReadingMsg := []
deriving DecidableEq, Repr

/-! ### Editions (spec/08) -/

/-- Edition state (R156). -/
inductive EditionState where
  | proving | opened | locked | closed
deriving DecidableEq, Repr, Inhabited

/-- A lock cause (R163). -/
inductive LockCause where
  | lotChange | substitution | fail
deriving DecidableEq, Repr, Inhabited

/-- The lock causes held: a set, no cause twice (R155). -/
structure LockCauses where
  lotChange : Bool := false
  substitution : Bool := false
  fail : Bool := false
deriving DecidableEq, Repr, Inhabited

/-- A provisional reference with its source job tag (R155). -/
structure Provisional where
  reference : Reference
  source : Nat
deriving DecidableEq, Repr

/-- An edition record (R155). -/
structure Edition where
  id : Nat
  limit : Nat
  issued : Nat
  voided : Nat
  state : EditionState
  mask : BitVec 12
  tolerance : Nat
  band : Nat
  reference : Option Reference
  provisional : Option Provisional
  stale : Bool
  causes : LockCauses
  generation : Nat
  printTotal : Nat
  wasteTotal : Nat
deriving DecidableEq, Repr

/-! ### Prices and overhead (spec/09) -/

/-- Price class (R173). -/
inductive PriceClass where
  | ink | media | handling
deriving DecidableEq, Repr, Inhabited

/-- A Price Table entry (R173). -/
structure PriceEntry where
  cls : PriceClass
  code : Nat
  price : Nat
  protect : Bool
deriving DecidableEq, Repr

/-- The Price Table with its master flag and checksum (R173, R177): what is committed to the PRICES region. -/
structure PriceTable where
  entries : List PriceEntry := []
  lock : Bool := false
  checksum : Nat := 0
deriving DecidableEq, Repr

/-- Strip accounting mode (R181). -/
inductive StripMode where
  | job | overhead
deriving DecidableEq, Repr, Inhabited

/-- The Overhead Account (R187). -/
structure Overhead where
  maintenance : Nat := 0
  trims : Nat := 0
  houseChecks : Nat := 0
  strips : Nat := 0
deriving DecidableEq, Repr, Inhabited

/-! ### Record Store (spec/10) -/

/-- A region of the store (R191). -/
inductive Region where
  | config | lots | rolls | editions | prices | jobs | counters
deriving DecidableEq, Repr, Inhabited

/-- The committed part of a segment record (R89). -/
structure SegmentImage where
  maskMissing : Bool
  maskWeeping : Bool
  hard : Bool
deriving DecidableEq, Repr

/-- The image of a record (R191, R192). A roll's image carries a reserved total of 0: the reserved total is held in
working memory only. -/
inductive Image where
  | removed
  | channel (cfg : ChannelConfig) (segments : Vector SegmentImage 4)
  | plan (p : CheckPlan)
  | geometry (g : Geometry)
  | stripMode (m : StripMode)
  | lot (l : Lot)
  | slots (r : SlotRecord)
  | roll (r : Roll)
  | edition (e : Edition)
  | prices (t : PriceTable)
  | job (j : Job)
  | counters (seqNo day : Nat) (o : Overhead)
deriving DecidableEq, Repr

/-- One of the two copies of a stored record (R192); `sound` says whether its check is correct. -/
structure Copy where
  group : Nat
  image : Image
  sound : Bool
deriving DecidableEq, Repr

/-- A stored record with its two copies (R192). -/
structure StoredRecord where
  key : RecKey
  copyA : Option Copy
  copyB : Option Copy
deriving DecidableEq, Repr

/-- How far one image write has come (R193): waiting, being written, written. -/
inductive WriteStage where
  | waiting | writing | written
deriving DecidableEq, Repr, Inhabited

/-- An image of a commit group (R193), with the number of the group that wrote it, 0 before the group is handed; `retry`
says that the group has taken the record off the unsaved list, which it leaves when the group completes (R199). -/
structure Write where
  key : RecKey
  image : Image
  group : Nat
  stage : WriteStage
  retry : Bool := false
deriving DecidableEq, Repr

/-- A commit group, or several joined ones, whose close entry is not written yet (R193): the commit points it was called
for at, its group numbers and its images. -/
structure OpenGroup where
  ids : List Nat
  nums : List Nat
  writes : List Write
deriving DecidableEq, Repr

/-- A commit point whose block waits for the groups `after` of the same handling before it hands its group (R194). -/
structure CommitPoint where
  id : Nat
  writes : List Write
  after : List Nat
deriving DecidableEq, Repr

/-- The phase of the part: the three store states of R200, and no power (R204). -/
inductive Phase where
  | off | restore | run | flush
deriving DecidableEq, Repr, Inhabited

/-- The power-fail flush in hand (R201): the commit point of its open group, whether the records of a failed group are being
handed once more, the records left unsaved after that second failure, and whether the clean marker was written behind
the last group. -/
structure Flush where
  group : Option Nat := Option.none
  retried : Bool := false
  givenUp : List RecKey := []
  marked : Bool := false
deriving DecidableEq, Repr

/-- What a restore found, kept between its stage 6 and its end (R207); `closeFault` is the index of the free values that
the notice of a failed close entry carries (log 7). -/
structure RestoreReport where
  markerFound : Bool
  voided : Nat
  lost : List Region
  lotsFlagged : Nat
  rollsFlagged : Nat
  pricesBad : Option (Nat × Nat)
  failed : List RecKey
  closeFault : Option Nat
deriving DecidableEq, Repr

/-- The Record Store. `records`, `closed`, `dirty` and `marker` are the non-volatile part (R191); the rest is working
state. `dirty` holds the keys whose dirty mark is written, which is the mark state MARKED (R195). `called` counts the
commit points made since start-up (the model's own, log 39), `count` the group numbers given (R192). `groups` holds the
groups handed and not complete, `behind` the commit points that wait for one of them (R193, R194). `changed` holds the
records changed since their last commit (R201). -/
@[ext] structure Store where
  records : List StoredRecord := []
  closed : List Nat := []
  dirty : List RecKey := []
  marker : Bool := false
  count : Nat := 0
  lastDone : Nat := 0
  called : Nat := 0
  groups : List OpenGroup := []
  behind : List CommitPoint := []
  changed : List RecKey := []
  unsaved : List RecKey := []
  flush : Flush := {}
  restored : Option RestoreReport := Option.none
deriving DecidableEq, Repr

/-! ### Notices (spec/11, section 11.3) -/

/-- A resource whose law failed (R10). -/
inductive Resource where
  | channel (c : Chan)
  | roll (id : Nat)
deriving DecidableEq, Repr

/-- Reason of a missed check (R141). -/
inductive MissedReason where
  | fault | count | superseded | cut | skipped | discarded
deriving DecidableEq, Repr, Inhabited

/-- Cause of a jam (R120). -/
inductive JamCause where
  | fault (code : Nat)
  | timeout
deriving DecidableEq, Repr

/-- Start cause of a restore (R207). -/
inductive StartCause where
  | powerOn | reset
deriving DecidableEq, Repr, Inhabited

/-- The seventeen notice kinds (R219). -/
inductive NoticeKind where
  | jobState | withdrawn | channelLow | channelOut | lotChange | lotExpired | rowFault | cutJam | rollEnd | checkResult
  | editionLocked | editionUnlocked | pricesBad | uncertainRecords | storeFault | restarted | overflow
deriving DecidableEq, Repr, Inhabited

/-- The subject of a notice (R219, section 11.7). -/
inductive Subject where
  | num (n : Nat)
  | segment (c : Chan) (s : Fin 4)
  | region (r : Region)
  | store
deriving DecidableEq, Repr

/-- The detail of a notice; the constructor gives its kind (R219). -/
inductive Detail where
  | jobState (state : JobState) (cause : Option VoidCause) (flags : JobFlags)
  | withdrawn (r : Resource)
  | channelLow (remaining reserve : Nat)
  | channelOut (remaining reserve : Nat)
  | lotChange (left taken : Nat)
  | lotExpired (channel : Chan) (day : Nat)
  | rowFault (fault : RowFault) (spare : SpareState)
  | cutJam (kind : CutKind) (owner : Option Nat) (target : Nat) (cause : JamCause)
  | rollEnd (fed discarded : Nat) (absent : Bool)
  | checkVerdict (v : Verdict) (worst patch changed : Nat) (unlocked : Option Bool)
  | checkMissed (reason : MissedReason)
  | editionLocked (cause : LockCause) (channel : Option Chan) (causes : LockCauses) (generation : Nat)
  | editionUnlocked (generation job : Nat)
  | pricesBad (committed recomputed : Nat)
  | uncertainRecords (lots rolls : Nat)
  | writeFault (key : Option RecKey) (unsaved : Nat)
  | recordsLost (n : Nat)
  | restarted (cause : StartCause) (marker : Bool) (voided lost : Nat)
  | overflow (dropped : Nat)
deriving DecidableEq, Repr

/-- A notice queue entry (R215). -/
structure Notice where
  subject : Subject
  detail : Detail
  raiseNo : Nat
deriving DecidableEq, Repr

/-- A notice held: one past a commit point of its handling, which is raised when the groups `after` have ended (R194). Its
place in the queue is behind `place` entries, the tail as it stood within its handling (R215; DESIGN CHOICE, log 23). -/
structure LateNotice where
  after : List Nat
  place : Nat
  subject : Subject
  detail : Detail
deriving DecidableEq, Repr

/-- The notice queue with its state and its two counters (R215, R216), and the notices still to be raised (R194). -/
structure NoticeQueue where
  entries : List Notice := []
  dropping : Bool := false
  raised : Nat := 0
  episode : Nat := 0
  later : List LateNotice := []
deriving DecidableEq, Repr

/-! ### Request Port (spec/11) -/

/-- The status codes (section 11.7). -/
inductive Status where
  | ok | okClamped | inkShort | mediaShort | badFrame | unknownRequest | notReady | badKey | badParam | tagExists
  | tableFull | unknownTag | unknownRoll | unknownEdition | unknownPrice | unknownLot | wrongState | busy | notLoaded
  | editionClosed | provingBusy | editionFull | mediaNotReady | cutBacklog | locked | rowFault | expired | mismatch
  | slotOccupied | slotEmpty | lotInUse | lotReferenced | noMedia | rollInUse | rollReferenced | noSpare | editionExists
  | noReference | editionReferenced | priceProtected
deriving DecidableEq, Repr, Inhabited

/-- The channel record with its segments as READ CHANNEL returns it (R45). -/
structure ChannelView where
  channel : Channel
  remaining : Nat
  usable : Nat
  lotA : Option Lot
  lotB : Option Lot
deriving DecidableEq, Repr

/-- The media state as READ MEDIA returns it (R109). -/
structure MediaView where
  active : Option Nat
  feed : Nat
  cutter : CutterState
  elapsed : Option Nat
  feedHold : Bool
  upper : Presence
  lower : Presence
  queue : List CutEntry
  geometry : Geometry
  runOut : Nat
deriving DecidableEq, Repr

/-- The identity figures (R220). -/
structure Identity where
  vendor : Nat
  part : Nat
  revision : Nat
  layout : Nat
  capacities : List Nat
deriving DecidableEq, Repr

/-- The part's state as READ STATUS returns it (R221). -/
structure StatusView where
  phase : Phase
  pfail : Bool
  marker : Bool
  unsaved : List Nat
  lastGroup : Nat
  notices : Nat
  dropping : Bool
  raised : Nat
  episode : Nat
  dropCount : Nat
  day : Nat
  activeRoll : Nat
  printing : Nat
  cutter : CutterState
  feedHold : Bool
  forced : Bool
  priceLock : Bool
  pricesBad : Bool
  counts : List Nat
deriving DecidableEq, Repr

/-- The body of a response, as the owning chapter gives it. -/
inductive Body where
  | empty
  | admitted (seqNo : Nat) (ink : Vec12) (roll : Nat)
  | inkShort (channel : Chan) (shortfall : Nat)
  | mediaShort (shortfall : Nat)
  | rowFault (channel : Chan) (segment : Fin 4) (fault : RowFault)
  | gains (g : Vec12)
  | job (j : Job)
  | jobList (l : List (Nat × JobKind × JobState))
  | channel (v : ChannelView)
  | channelSet (cfg : ChannelConfig) (slots : SlotRecord) (residue reserved : Nat) (expired : Bool) (remaining usable : Nat)
      (state : ChannelState)
  | lot (l : Lot)
  | lotList (l : List (Nat × Chan × LotState × Option TankSlot))
  | installed (l : Lot) (remaining : Nat) (state : ChannelState) (lotChange : Bool)
  | lotAt (l : Lot) (channel : Option (Nat × ChannelState))
  | lotsFlagged (n : Nat)
  | segment (s : Segment)
  | substituted (s : Segment) (locked discarded : Nat)
  | roll (r : Roll)
  | rollList (l : List (Nat × RollState × Option RollSlot × Nat))
  | selected (feed point : Nat)
  | unloaded (withdrawn : Nat)
  | media (v : MediaView)
  | geometry (g : Geometry) (runOut : Nat)
  | cutter (c : CutterState)
  | plan (p : CheckPlan)
  | forced (flag : Bool) (counter interval : Nat)
  | checkState (p : CheckPlan) (interval : Nat) (flag : Bool) (counter armSeq : Nat) (arm : Option Arm)
  | edition (e : Edition)
  | editionView (e : Edition) (free live : Nat)
  | editionList (l : List (Nat × EditionState × Nat × Nat))
  | reference (r : Reference)
  | price (e : PriceEntry) (checksum : Nat)
  | checksum (n : Nat)
  | lock (b : Bool)
  | prices (t : PriceTable) (bad : Bool) (n : Nat)
  | stripMode (m : StripMode)
  | overhead (exact rounded : Overhead)
  | notices (l : List Notice) (left : Nat) (dropping : Bool)
  | identity (i : Identity)
  | status (v : StatusView)
deriving DecidableEq, Repr

/-- A formed response: the header fields of section 11.7 and the body. -/
structure Response where
  code : Nat
  seq : Nat
  status : Status
  phase : Phase
  queued : Nat
  dropped : Nat
  dropping : Bool
  body : Body
deriving DecidableEq, Repr

/-- The response buffer (R211). PENDING keeps the reply that awaits its commit groups. -/
inductive Buffer where
  | none
  | pending (code seq : Nat) (status : Status) (body : Body) (groups : List Nat)
  | done (r : Response)
deriving DecidableEq, Repr

/-- The Request Port: response buffer and drop counter (R211, R212). -/
structure Port where
  buffer : Buffer := .none
  dropped : Nat := 0
deriving DecidableEq, Repr

/-! ### Head Link (spec/04) -/

/-- Strip indication of an ACCEPT (R81). -/
inductive StripInd where
  | none | no | yes
deriving DecidableEq, Repr, Inhabited

/-- HOLD causes (R76). -/
inductive HoldCause where
  | notBegun | power | jammed
  | inkOut (c : Chan)
deriving DecidableEq, Repr

/-- BLOCK causes (R75). -/
inductive BlockCause where
  | unknownTag | notLive | aborted | mediaEnd | sequence | noImage | noStrip
deriving DecidableEq, Repr

/-- ACK results (section 4.1). -/
inductive AckResult where
  | taken | badField | notReady
deriving DecidableEq, Repr

/-- The answers of the Head Link (section 4.1). The row map has 48 entries, true for SPARE (R86). -/
inductive HeadAnswer where
  | accept (i : StripInd)
  | hold (c : HoldCause)
  | block (c : BlockCause)
  | crcBad
  | rowMap (m : List Bool)
  | ack (r : AckResult)
deriving DecidableEq, Repr

/-- An answer formed but not sent, with the commit groups it waits for (R71, R194). -/
structure HeldAnswer where
  answer : HeadAnswer
  groups : List Nat
deriving DecidableEq, Repr

/-- The Head Link Unit: the expected purge toggle, absent for FREE (R82), and the answer being formed. -/
structure HeadLink where
  purgeToggle : Option Bool := Option.none
  forming : Option HeldAnswer := Option.none
deriving DecidableEq, Repr

/-! ### The part -/

/-- What a handling gathers for a later step of it: commit points (R80, R147), and the notices behind them. -/
structure Gathered where
  points : List (List RecKey) := []
  notices : List (Subject × Detail) := []
deriving DecidableEq, Repr

/-- The handling in hand: the number of commit points made when it began (R194), absent between two handlings, and what it
gathers, if it does. -/
structure Handling where
  since : Option Nat := Option.none
  gathered : Option Gathered := Option.none
deriving DecidableEq, Repr

/-- What the part sends on its links (section 11.7). -/
inductive Output where
  | head (a : HeadAnswer)
  | stopAt (target : Option Nat)
  | cut (kind : CutKind) (target : Nat)
  | arm (seq count : Nat)
deriving DecidableEq, Repr

/-- The state of the SL-1240. The model's own fields are `pending`, the queue of commands not yet taken; `out`, the
messages sent on the device links by the latest step; `fresh`, the index of the next free value; `handling`, which is at
its start value between steps; and, inside `store` and `notices`, what waits for a commit group: `called`, `behind` and
`later` (DESIGN CHOICE, logs 1, 3, 5, 23, 39). `merged` names, with the
tag of the job, each lot that a job drew from and that has no entry in its draw list (R58, R62). `pfail` is the level of
the PFAIL input. -/
@[ext]
structure State where
  pending : List Instr := []
  phase : Phase := .restore
  cause : StartCause := .powerOn
  pfail : Bool := false
  port : Port := {}
  notices : NoticeQueue := {}
  head : HeadLink := {}
  channels : Vector Channel 12 := Vector.replicate 12 {}
  lots : List Lot := []
  jobs : List Job := []
  seqCounter : Nat := 0
  day : Nat := 0
  rolls : List Roll := []
  media : Media := {}
  check : CheckUnit := {}
  editions : List Edition := []
  prices : PriceTable := {}
  pricesBad : Bool := false
  stripMode : StripMode := .job
  overhead : Overhead := {}
  merged : List (Nat × Nat) := []
  store : Store := {}
  handling : Handling := {}
  out : List Output := []
  fresh : Nat := 0
deriving DecidableEq, Repr

/-- The reasons a step could stop with a fault. There is none: the spec gives every command of the table an effect, or
says that it changes nothing, in every state (safe: nothing is cut short). -/
inductive Fault
deriving DecidableEq, Repr

/-- The reasons a step could be refused. -/
inductive Refusal where
  /-- Raised by `exec` alone, for a command without a meaning yet; no arm raises it in this model (safe). -/
  | notModelled (mnemonic : String)
deriving DecidableEq, Repr

/-- The part right after power-on with a store that was never written: RESTORE in hand, working records not rebuilt yet
(R200, R204). The fields hold the start-up values of R49, R128, R153, R190, R213 (DESIGN CHOICE, log 2: the empty
store). -/
def State.reset : State := {}

end Sys2Proof.Machine
end

