-- ==== Sys2Proof/Machine/Operands.lean ====
section
/-! DEFINITION. Reading a command's operands: which name a code byte stands for, how a configuration value outside its
range is brought to the nearest limit (R214), and the saturating and rounding arithmetic of spec/00_scope.md section
4.1. -/

namespace Sys2Proof.Machine

/-! ### Arithmetic (spec/00_scope.md section 4.1) -/

/-- The nearest limit to `n` in lo..hi. -/
def clamp (lo hi n : Nat) : Nat := if n < lo then lo else if hi < n then hi else n

/-- The nearest limit to `n` in lo..hi, for a signed figure. -/
def clampInt (lo hi n : Int) : Int := if n < lo then lo else if hi < n then hi else n

/-- A sum that saturates at `m`. -/
def satAdd (m a b : Nat) : Nat := min (a + b) m

/-- Division rounded up. -/
def ceilDiv (a b : Nat) : Nat := (a + (b - 1)) / b

/-- Division rounded to the nearest, half up: floor(a/b + 1/2) for an even `b`. -/
def roundDiv (a b : Nat) : Nat := (a + b / 2) / b

/-- A media figure of 32 bits. Where the exact figure does not fit, the spec states no result: a free value (DESIGN
CHOICE, log 6). -/
def fit32 (n : Nat) : Nat := if n ≤ Config.max32 then n else Config.wide32 n % 4294967296

/-! ### Codes -/

/-- A channel number is 0..11 (R28). -/
def chanOf (n : Nat) : Option Chan := if h : n < 12 then some ⟨n, h⟩ else none

/-- A segment number is 0..3 (R89). -/
def segmentOf (n : Nat) : Option (Fin 4) := if h : n < 4 then some ⟨n, h⟩ else none

/-- Job kind codes of SUBMIT JOB (section 11.7). -/
def jobKindOf : Nat → Option JobKind
  | 0 => some .edition
  | 1 => some .proof
  | 2 => some .check
  | _ => none

/-- Tank slot codes of INSTALL LOT and REMOVE LOT (section 11.7). -/
def tankOf : Nat → Option TankSlot
  | 0 => some .A
  | 1 => some .B
  | _ => none

/-- Roll slot codes (section 11.7). -/
def rollSlotOf : Nat → Option RollSlot
  | 0 => some .upper
  | 1 => some .lower
  | _ => none

/-- Presence codes of ROLL_PRESENT (section 11.7). -/
def presenceOf : Nat → Option Presence
  | 0 => some .absent
  | 1 => some .present
  | _ => none

/-- Swath kind codes of SWATH (section 11.7). -/
def swathKindOf : Nat → Option SwathKind
  | 0 => some .image
  | 1 => some .strip
  | _ => none

/-- Fault state codes of ROW_STATUS (section 11.7). -/
def rowFaultOf : Nat → Option RowFault
  | 0 => some .ok
  | 1 => some .missing
  | 2 => some .weeping
  | _ => none

/-- Substitution kinds of SUBSTITUTE ROW, as the spare state each gives (section 11.7). -/
def spareOf : Nat → Option SpareState
  | 0 => some .soft
  | 1 => some .hard
  | _ => none

/-- Cadence mode codes of SET CHECK PLAN (section 11.7). -/
def cadenceOf : Nat → Option Cadence
  | 0 => some .normal
  | 1 => some .double
  | 2 => some .quad
  | _ => none

/-- Price class codes (section 11.7). -/
def classOf : Nat → Option PriceClass
  | 1 => some .ink
  | 2 => some .media
  | 3 => some .handling
  | _ => none

/-- The code of a price class, which is also its place in the order of R177. -/
def PriceClass.code : PriceClass → Nat
  | .ink => 1
  | .media => 2
  | .handling => 3

/-- Strip accounting mode codes (section 11.7). -/
def stripModeOf : Nat → Option StripMode
  | 0 => some .job
  | 1 => some .overhead
  | _ => none

/-- The HANDLING code of a job kind (R173). -/
def JobKind.handlingCode : JobKind → Nat
  | .edition => 1
  | .proof => 2
  | .check => 3

/-- The class and code of a price request are in range (R174, first condition). -/
def priceKeyOk (c : PriceClass) (code : Nat) : Bool :=
  match c with
  | .handling => decide (1 ≤ code ∧ code ≤ 3)
  | _ => decide (code ≠ 0)

/-- The maximum price of a class (R173). -/
def PriceClass.maxPrice : PriceClass → Nat
  | .ink => 65535
  | .media => 1048575
  | .handling => 1000000

/-! ### Configuration values brought into range -/

/-- The fields of SET CHANNEL within the ranges of R28 (R31). -/
def clampChannel (r : ChannelReq) : ChannelConfig :=
  { product := r.product
    vS := clamp 5 200 r.vS
    vM := clamp 5 200 r.vM
    vL := clamp 5 200 r.vL
    weight := clamp 3072 5120 r.weight
    gain := clamp 768 1280 r.gain
    margin := clamp 100 150 r.margin
    allowance := min r.allowance 1000000
    reserve := min r.reserve 100000000 }

/-- The fields of SET CHANNEL as given, for the comparison that decides OK_CLAMPED. -/
def givenChannel (r : ChannelReq) : ChannelConfig :=
  { product := r.product, vS := r.vS, vM := r.vM, vL := r.vL, weight := r.weight, gain := r.gain, margin := r.margin,
    allowance := r.allowance, reserve := r.reserve }

/-- The geometry within the ranges of R104; a sensor offset above the cutter offset becomes the cutter offset. -/
def clampGeometry (g : Geometry) : Geometry :=
  let cutter := clamp 20000 100000 g.cutterOffset
  { sensorOffset := min (clamp 10000 60000 g.sensorOffset) cutter
    cutterOffset := cutter
    stripGap := min g.stripGap 5000
    stripLength := clamp 2000 8000 g.stripLength
    leadTrim := clamp 500 20000 g.leadTrim
    cutTimeout := clamp 500 10000 g.cutTimeout }

/-- A Lab value within the ranges of section 4.2. -/
def clampLab (v : Lab) : Lab :=
  { L := clampInt 0 10000 v.L, a := clampInt (-12800) 12799 v.a, b := clampInt (-12800) 12799 v.b }

/-- Twelve figures, each brought into lo..hi. -/
def clampVec (lo hi : Nat) (v : Vec12) : Vec12 := Vector.ofFn fun c => clamp lo hi (v.get c)

/-- The settings of SET CHECK PLAN within the ranges of R129. -/
def clampPlan (m : Cadence) (r : PlanReq) : CheckPlan :=
  { interval := clamp 1 64 r.interval
    cadence := m
    stripSwaths := clamp 1 4 r.stripSwaths
    tolerance := clamp 10 1000 r.tolerance
    densities := clampVec 0 4000 r.densities
    labs := r.labs.map clampLab }

/-- The settings of SET CHECK PLAN as given, for the comparison that decides OK_CLAMPED. -/
def givenPlan (m : Cadence) (r : PlanReq) : CheckPlan :=
  { interval := r.interval, cadence := m, stripSwaths := r.stripSwaths, tolerance := r.tolerance,
    densities := r.densities, labs := r.labs }

/-- A supplied reference within the ranges of R155. -/
def clampReference (r : Reference) : Reference :=
  { gains := clampVec 768 1280 r.gains
    densities := clampVec 1 4000 r.densities
    labs := r.labs.map clampLab }

/-- The tolerance of CREATE EDITION: 0xFFFF is DEFAULT, else the nearest limit (R157). -/
def editionTolerance (n : Nat) : Nat := if n = 65535 then 150 else clamp 10 1000 n

/-- The gain band of CREATE EDITION: 0xFFFF is DEFAULT, else the nearest limit (R157). -/
def editionBand (n : Nat) : Nat := if n = 65535 then 48 else min n 128

end Sys2Proof.Machine
end

