-- ==== Sys2Proof/Machine/Flags.lean ====
section
/-! DEFINITION. What the chapters define from other state: lookups by key, the lines BUSY, ATTN and FEED_HOLD, the link
state, the derived volumes and lengths, and the conditions the rules test. -/

namespace Sys2Proof.Machine

/-! ### Lookups (spec/00_scope.md section 4.3) -/

/-- The job record with a tag, if present. -/
def State.job? (s : State) (tag : Nat) : Option Job := s.jobs.find? (fun j => j.tag == tag)
/-- The lot record with a lot code, if present. -/
def State.lot? (s : State) (code : Nat) : Option Lot := s.lots.find? (fun l => l.code == code)
/-- The roll record with a roll id, if present. -/
def State.roll? (s : State) (id : Nat) : Option Roll := s.rolls.find? (fun r => r.id == id)
/-- The edition record with an edition id, if present. -/
def State.edition? (s : State) (id : Nat) : Option Edition := s.editions.find? (fun e => e.id == id)
/-- The Price Table entry of a class and code, if present (R173). -/
def PriceTable.entry? (t : PriceTable) (c : PriceClass) (code : Nat) : Option PriceEntry :=
  t.entries.find? (fun e => e.cls == c && e.code == code)
/-- The channel record (R28). -/
def State.chan (s : State) (c : Chan) : Channel := s.channels.get c

/-! ### Jobs -/

/-- ADMITTED, PRINTING or FINISHING (section 1.3). -/
def Job.live (j : Job) : Bool := j.state == .admitted || j.state == .printing || j.state == .finishing

/-- The job that is PRINTING, if one is. -/
def State.printing? (s : State) : Option Job := s.jobs.find? (fun j => j.state == .printing)

/-- A job is PRINTING or FINISHING. -/
def State.underWay (s : State) : Bool := s.jobs.any fun j => j.state == .printing || j.state == .finishing

/-- The job names the edition. -/
def Job.names (j : Job) (e : Nat) : Bool := j.spec.edition == some e

/-- The number of live jobs naming an edition (R158). -/
def State.liveJobs (s : State) (e : Nat) : Nat := (s.jobs.filter fun j => j.live && j.names e).length

/-- The free slots of an edition (R158). -/
def State.freeSlots (s : State) (e : Edition) : Nat :=
  if e.state = .closed then 0 else e.limit - e.issued - s.liveJobs e.id

/-- A job uses a channel: a nonzero estimate for it, or a draw list entry (R39, R85). -/
def Job.uses (j : Job) (c : Chan) : Bool := j.spec.estimates.get c != 0 || j.draws.any fun d => d.channel == c

/-- A job is younger than another: a higher admission sequence number, then a higher tag (R8). -/
def Job.younger (j k : Job) : Bool :=
  let a := j.seqNo.getD 0
  let b := k.seqNo.getD 0
  decide (b < a) || (a == b && decide (k.tag < j.tag))

/-- Both settlement conditions hold (R21). -/
def Job.settles (j : Job) : Bool :=
  j.state == .finishing && (j.cut == .done || j.cut == .uncut) && (j.strip == .resolved || j.strip == .none)

/-- The strip is on the media path unread (R130, R141). -/
def Job.stripUnread (j : Job) : Bool := j.strip == .planned || j.strip == .printed

/-! ### Ink -/

/-- The lot code in a slot (R33). -/
def SlotRecord.at (r : SlotRecord) : TankSlot → Option Nat
  | .A => r.slotA
  | .B => r.slotB

/-- The slot record with one slot changed. -/
def SlotRecord.put (r : SlotRecord) (t : TankSlot) (l : Option Nat) : SlotRecord :=
  match t with
  | .A => { r with slotA := l }
  | .B => { r with slotB := l }

/-- The other slot. -/
def TankSlot.other : TankSlot → TankSlot
  | .A => .B
  | .B => .A

/-- The lot in a slot of a channel. -/
def State.lotIn (s : State) (c : Chan) (t : TankSlot) : Option Lot := ((s.chan c).slots.at t).bind s.lot?

/-- The active lot of a channel (R33). -/
def State.activeLot (s : State) (c : Chan) : Option Lot := (s.chan c).slots.active.bind fun t => s.lotIn c t

/-- The remaining volume in a slot, 0 for an empty slot. -/
def State.slotVolume (s : State) (c : Chan) (t : TankSlot) : Nat := ((s.lotIn c t).map Lot.remaining).getD 0

/-- The remaining total of a channel (R29). -/
def State.remainingTotal (s : State) (c : Chan) : Nat := s.slotVolume c .A + s.slotVolume c .B

/-- The usable free volume of a channel, floored at 0 (R29). -/
def State.usableFree (s : State) (c : Chan) : Nat :=
  s.remainingTotal c - (s.chan c).cfg.reserve - (s.chan c).reserved

/-- The channel state a remaining total gives (R29). -/
def channelStateOf (remaining reserve : Nat) : ChannelState :=
  if remaining = 0 then .out else if remaining ≤ reserve then .low else .ready

/-- The lot state a remaining volume and a location give (R35). -/
def lotStateOf (remaining : Nat) (location : Option TankSlot) : LotState :=
  if remaining = 0 then .exhausted else if location.isSome then .loaded else .shelved

/-- The mask bit for the segment's fault kind (R85, R92). -/
def Segment.masked (g : Segment) : Bool :=
  match g.fault with
  | .ok => false
  | .missing => g.maskMissing
  | .weeping => g.maskWeeping

/-- An unmasked fault on a segment that is not substituted (R92). -/
def Segment.blocks (g : Segment) : Bool := g.fault != .ok && !g.masked && g.spare == .unused

/-! ### Media -/

/-- The ACTIVE roll, if one is (R102). -/
def State.activeRoll (s : State) : Option Roll := s.rolls.find? (fun r => r.state == .active)

/-- The feed position F; 0 while no roll is ACTIVE, as READ MEDIA returns it (R102, R109). -/
def State.feedPos (s : State) : Nat := (s.activeRoll.map Roll.fed).getD 0

/-- The remaining length of a roll (R101). -/
def Roll.remaining (r : Roll) : Nat := r.length - r.fed

/-- The run-out length (R104). -/
def runOut (g : Geometry) : Nat := g.cutterOffset + g.leadTrim

/-- The roll in a slot. -/
def State.rollIn (s : State) (p : RollSlot) : Option Roll := s.rolls.find? (fun r => r.slot == some p)

/-- The recorded presence of a slot (R113). -/
def Media.presence (m : Media) : RollSlot → Presence
  | .upper => m.upper
  | .lower => m.lower

/-- The roll length of R6: what a job claims of its roll at admission. -/
def rollNeed (g : Geometry) (sp : JobSpec) : Nat :=
  match sp.kind with
  | .check => g.stripGap + g.stripLength
  | _ => sp.lead + sp.image + sp.tail + g.stripGap + g.stripLength

/-! ### Lines and link state -/

/-- BUSY is asserted while the buffer is PENDING (R211). -/
def State.busy (s : State) : Bool :=
  match s.port.buffer with
  | .pending .. => true
  | _ => false

/-- ATTN is asserted while the notice queue holds an entry (R218). -/
def State.attn (s : State) : Bool := !s.notices.entries.isEmpty

/-- FEED_HOLD is asserted while the cutter is CUTTING or JAMMED or no roll is ACTIVE (R116). -/
def State.feedHold (s : State) : Bool := s.media.cutter != .idle || s.activeRoll.isNone

/-- The link state of the Head Link Unit (R73, R200). -/
inductive LinkState where
  | normal | power | restore
deriving DecidableEq, Repr

/-- The link state follows the store state (R73); with no power there is none. -/
def State.link (s : State) : Option LinkState :=
  match s.phase with
  | .off => none
  | .restore => some .restore
  | .run => some .normal
  | .flush => some .power

/-! ### Checks and editions -/

/-- The effective interval of a plan (R134). -/
def CheckPlan.effective (p : CheckPlan) : Nat :=
  match p.cadence with
  | .normal => ceilDiv p.interval 1
  | .double => ceilDiv p.interval 2
  | .quad => ceilDiv p.interval 4

/-- The edition's channel mask includes the channel (R155). -/
def Edition.covers (e : Edition) (c : Chan) : Bool := e.mask.getLsbD c.val

/-- The cause is among those held, added when absent (R163). -/
def LockCauses.add (k : LockCauses) : LockCause → LockCauses
  | .lotChange => { k with lotChange := true }
  | .substitution => { k with substitution := true }
  | .fail => { k with fail := true }

/-- The notice kind of a detail (R219). -/
def Detail.kind : Detail → NoticeKind
  | .jobState .. => .jobState
  | .withdrawn .. => .withdrawn
  | .channelLow .. => .channelLow
  | .channelOut .. => .channelOut
  | .lotChange .. => .lotChange
  | .lotExpired .. => .lotExpired
  | .rowFault .. => .rowFault
  | .cutJam .. => .cutJam
  | .rollEnd .. => .rollEnd
  | .checkVerdict .. => .checkResult
  | .checkMissed .. => .checkResult
  | .editionLocked .. => .editionLocked
  | .editionUnlocked .. => .editionUnlocked
  | .pricesBad .. => .pricesBad
  | .uncertainRecords .. => .uncertainRecords
  | .writeFault .. => .storeFault
  | .recordsLost .. => .storeFault
  | .restarted .. => .restarted
  | .overflow .. => .overflow

/-- A notice with this kind and subject (R215). -/
def Notice.is (n : Notice) (k : NoticeKind) (u : Subject) : Bool := n.detail.kind == k && n.subject == u

/-- A held notice has this kind and subject. -/
def LateNotice.is (n : LateNotice) (k : NoticeKind) (u : Subject) : Bool := n.detail.kind == k && n.subject == u

end Sys2Proof.Machine
end

