-- ==== Sys2Proof/Machine/Ops.lean ====
section
/-! DEFINITION. The named operations every command is made of: writing a record of a table, raising a notice, sending a
message, and handing commit groups to the Record Store (R191 to R199). -/

namespace Sys2Proof.Machine

/-! ### Tables -/

/-- Write a record into a table kept in ascending key order, replacing the record with its key. -/
def insertBy {α : Type} (key : α → Nat) (x : α) : List α → List α
  | [] => [x]
  | y :: ys => if key x < key y then x :: y :: ys else if key x = key y then x :: ys else y :: insertBy key x ys

/-- Remove the record with a key. -/
def removeBy {α : Type} (key : α → Nat) (k : Nat) (l : List α) : List α := l.filter fun x => key x != k

/-! ### Images and changes (R191, R196, R201) -/

/-- The region of a record (R191). -/
def regionOf : RecKey → Region
  | .channel _ | .plan | .geometry | .stripMode => .config
  | .lot _ | .slots _ => .lots
  | .roll _ => .rolls
  | .edition _ => .editions
  | .prices => .prices
  | .job _ => .jobs
  | .counters => .counters

/-- The regions in the order of R191. -/
def Region.list : List Region := [.config, .lots, .rolls, .editions, .prices, .jobs, .counters]

/-- The committed part of a segment record: the mask bits and a HARD spare state (R89). -/
def Segment.image (g : Segment) : SegmentImage := ⟨g.maskMissing, g.maskWeeping, g.spare == .hard⟩

/-- The CONFIG image of a channel record (R28, R89). -/
def Channel.image (ch : Channel) : Image := .channel ch.cfg (Vector.ofFn fun i => (ch.segments.get i).image)

/-- The ROLLS image of a roll record: the reserved total is not in the store (R191). -/
def Roll.image (r : Roll) : Image := .roll { r with reserved := 0 }

/-- The image of a record as it stands in working memory (R193); an absent record gives the removal image (R192). -/
def State.image (s : State) : RecKey → Image
  | .channel c => (s.chan c).image
  | .plan => .plan s.check.plan
  | .geometry => .geometry s.media.geometry
  | .stripMode => .stripMode s.stripMode
  | .lot code => ((s.lot? code).map Image.lot).getD .removed
  | .slots c => .slots (s.chan c).slots
  | .roll id => ((s.roll? id).map Roll.image).getD .removed
  | .edition id => ((s.edition? id).map Image.edition).getD .removed
  | .prices => .prices s.prices
  | .job tag => ((s.job? tag).map Image.job).getD .removed
  | .counters => .counters s.seqCounter s.day s.overhead

/-- A committed record has changed: it counts as changed since its last commit (R201), and the clean marker is erased
(R196). -/
def Store.touch (k : RecKey) (st : Store) : Store :=
  { st with changed := if st.changed.contains k then st.changed else st.changed ++ [k], marker := false }

/-- Note the change of record `k` when its image in `s'` differs from its image in `s`. -/
def State.noting (s : State) (k : RecKey) (s' : State) : State :=
  if s'.image k = s.image k then s' else { s' with store := s'.store.touch k }

/-- Write a job record (R1). -/
def State.setJob (s : State) (j : Job) : State := s.noting (.job j.tag) { s with jobs := insertBy Job.tag j s.jobs }
/-- Remove a job record (R1). -/
def State.removeJob (s : State) (tag : Nat) : State := s.noting (.job tag) { s with jobs := removeBy Job.tag tag s.jobs }
/-- Change the job record with a tag, if present. -/
def State.modJob (s : State) (tag : Nat) (f : Job → Job) : State :=
  match s.job? tag with
  | some j => s.setJob (f j)
  | none => s

/-- Write a lot record (R34). -/
def State.setLot (s : State) (l : Lot) : State := s.noting (.lot l.code) { s with lots := insertBy Lot.code l s.lots }
/-- Remove a lot record (R44). -/
def State.removeLot (s : State) (code : Nat) : State :=
  s.noting (.lot code) { s with lots := removeBy Lot.code code s.lots }

/-- Write a roll record (R101). -/
def State.setRoll (s : State) (r : Roll) : State := s.noting (.roll r.id) { s with rolls := insertBy Roll.id r s.rolls }
/-- Remove a roll record (R108). -/
def State.removeRoll (s : State) (id : Nat) : State :=
  s.noting (.roll id) { s with rolls := removeBy Roll.id id s.rolls }
/-- Change the roll record with an id, if present. -/
def State.modRoll (s : State) (id : Nat) (f : Roll → Roll) : State :=
  match s.roll? id with
  | some r => s.setRoll (f r)
  | none => s

/-- Write an edition record (R154). -/
def State.setEdition (s : State) (e : Edition) : State :=
  s.noting (.edition e.id) { s with editions := insertBy Edition.id e s.editions }
/-- Remove an edition record (R169). -/
def State.removeEdition (s : State) (id : Nat) : State :=
  s.noting (.edition id) { s with editions := removeBy Edition.id id s.editions }

/-- Write a channel record; a changed CONFIG part and changed slot fields are noted apart (R28). -/
def State.setChan (s : State) (c : Chan) (ch : Channel) : State :=
  let s' := { s with channels := s.channels.set c ch }
  s.noting (.slots c) (s.noting (.channel c) s')
/-- Change a channel record. -/
def State.modChan (s : State) (c : Chan) (f : Channel → Channel) : State := s.setChan c (f (s.chan c))

/-- Write the COUNTERS record (R191). -/
def State.setCounters (s : State) (seqNo day : Nat) (o : Overhead) : State :=
  s.noting .counters { s with seqCounter := seqNo, day := day, overhead := o }
/-- Write the Overhead Account (R187). -/
def State.setOverhead (s : State) (o : Overhead) : State := s.setCounters s.seqCounter s.day o

/-- Write the Price Table (R173). -/
def State.setPrices (s : State) (t : PriceTable) : State := s.noting .prices { s with prices := t }
/-- Write the check plan (R129). -/
def State.setPlan (s : State) (p : CheckPlan) : State := s.noting .plan { s with check := { s.check with plan := p } }
/-- Write the media geometry (R104). -/
def State.setGeometry (s : State) (g : Geometry) : State :=
  s.noting .geometry { s with media := { s.media with geometry := g } }
/-- Write the strip accounting mode (R181). -/
def State.setStripMode (s : State) (m : StripMode) : State := s.noting .stripMode { s with stripMode := m }

/-! ### Messages and notices -/

/-- Send a message on a device link. -/
def State.send (s : State) (o : Output) : State := { s with out := s.out ++ [o] }

/-- Replace the detail of the entries with this kind and subject in place (R215). -/
def replaceDetail (k : NoticeKind) (u : Subject) (d : Detail) (n : Nat) (l : List Notice) : List Notice :=
  l.map fun e => if e.is k u then { e with detail := d, raiseNo := n } else e

/-- Raise the dropped count of the latest OVERFLOW entry, which carries subject `episode` (R216). -/
def countDropped (episode : Nat) (l : List Notice) : List Notice :=
  l.map fun e =>
    match e.detail with
    | .overflow n => if e.subject == .num episode then { e with detail := .overflow (satAdd 65535 n 1) } else e
    | _ => e

/-- Take a notice into the queue: replace in place, append, or overflow (R215, R216). The raise number is the counter's
value after its increment (DEDUCED, log 12). -/
def NoticeQueue.raise (q : NoticeQueue) (u : Subject) (d : Detail) : NoticeQueue :=
  let n := (q.raised + 1) % 65536
  if q.entries.any (fun e => e.is d.kind u) then
    { q with entries := replaceDetail d.kind u d n q.entries, raised := n }
  else if q.dropping then { q with entries := countDropped q.episode q.entries }
  else if q.entries.length < 31 then { q with entries := q.entries ++ [⟨u, d, n⟩], raised := n }
  else
    let ep := (q.episode + 1) % 256
    { q with entries := q.entries ++ [⟨.num ep, .overflow 1, n⟩], dropping := true, raised := n, episode := ep }

/-- Raising the notice adds an entry of its own (R215, R216). -/
def NoticeQueue.adds (q : NoticeQueue) (u : Subject) (d : Detail) : Bool :=
  !q.entries.any (fun e => e.is d.kind u) && !q.dropping && decide (q.entries.length < 31)

/-- Raise a notice whose place is behind the first `p` entries: an entry of its own stands there (R215). -/
def NoticeQueue.raiseAt (q : NoticeQueue) (p : Nat) (u : Subject) (d : Detail) : NoticeQueue :=
  if q.adds u d then
    let n := (q.raised + 1) % 65536
    { q with entries := q.entries.take p ++ ⟨u, d, n⟩ :: q.entries.drop p, raised := n }
  else q.raise u d

/-- Raise a notice whose place is behind the first `p` entries and between the held notices `before` and `behind`. One of
`before` with its kind and subject, of an earlier event, has its detail replaced by this newer one, which takes its place
(R215); the places behind an entry added move on by one (DESIGN CHOICE, log 23). -/
def NoticeQueue.settle (q : NoticeQueue) (p : Nat) (before behind : List LateNotice) (u : Subject) (d : Detail) :
    NoticeQueue :=
  let other : LateNotice → Bool := fun n => !n.is d.kind u
  if q.adds u d then
    let old := before.dropWhile other
    { q.raiseAt ((old.head?.map LateNotice.place).getD p) u d with
      later := before.takeWhile other ++ (old.filter other ++ behind).map fun n => { n with place := n.place + 1 } }
  else
    let replaces := q.entries.any fun e => e.is d.kind u
    { q.raise u d with later := (if replaces then before.filter other else before) ++ behind }

/-- A notice is taken within its handling: it is raised, or held until the groups `after` have ended (R194, R215). -/
def NoticeQueue.take (q : NoticeQueue) (after : List Nat) (u : Subject) (d : Detail) : NoticeQueue :=
  if after.isEmpty then q.settle q.entries.length q.later [] u d
  else { q with later := q.later ++ [⟨after, q.entries.length, u, d⟩] }

/-- The first held notice that waits for no group is raised. -/
def NoticeQueue.releaseFirst (q : NoticeQueue) : NoticeQueue :=
  match q.later.dropWhile fun n => !n.after.isEmpty with
  | n :: behind => q.settle n.place (q.later.takeWhile fun n => !n.after.isEmpty) behind n.subject n.detail
  | [] => q

/-- The groups `done` have ended: the notices that wait for no other group are raised, in the order in which they were
held (R194), each in its place, so that the entries stand in the order of their events (R215; DESIGN CHOICE, log 23). -/
def NoticeQueue.release (q : NoticeQueue) (done : List Nat) : NoticeQueue :=
  let l := q.later.map fun (n : LateNotice) => { n with after := n.after.filter fun k => !done.contains k }
  l.foldl (fun q _ => q.releaseFirst) { q with later := l }

/-! ### Stored copies (R192) -/

/-- A copy is valid when its check is correct and its commit group is closed (R192). -/
def Copy.valid (closed : List Nat) (c : Copy) : Bool := c.sound && closed.contains c.group

/-- The valid copy in one place, if any. -/
def validCopy (closed : List Nat) (c : Option Copy) : Option Copy := c.filter (Copy.valid closed)

/-- The copy that stands for the record (R192). -/
def StoredRecord.standing (closed : List Nat) (r : StoredRecord) : Option Copy :=
  match validCopy closed r.copyA, validCopy closed r.copyB with
  | some a, some b => if a.group < b.group then some b else some a
  | some a, none => some a
  | none, b => b

/-- A commit writes into copy B: B is the older, counting the copy that stands as the younger (R192, DEDUCED, log 9). -/
def StoredRecord.writesB (closed : List Nat) (r : StoredRecord) : Bool :=
  match validCopy closed r.copyA, validCopy closed r.copyB with
  | some a, some b => !decide (a.group < b.group)
  | some _, none => true
  | none, some _ => false
  | none, none =>
    match r.copyA, r.copyB with
    | none, _ => false
    | some _, none => true
    | some a, some b => decide (b.group < a.group)

/-- A record with a new copy written into it (R192). -/
def StoredRecord.write (closed : List Nat) (r : StoredRecord) (c : Copy) : StoredRecord :=
  if r.writesB closed then { r with copyB := some c } else { r with copyA := some c }

/-- Write a copy of a record into the store (R192). -/
def writeCopy (closed : List Nat) (k : RecKey) (c : Copy) : List StoredRecord → List StoredRecord
  | [] => [⟨k, some c, none⟩]
  | r :: rs => if r.key = k then r.write closed c :: rs else r :: writeCopy closed k c rs

/-- The image of a record as it stands in the store, if a copy stands (R192). -/
def Store.standing (st : Store) (k : RecKey) : Option Image :=
  ((st.records.find? (fun r => r.key == k)).bind (StoredRecord.standing st.closed)).map Copy.image

/-! ### Writing images (R193, R194) -/

/-- Every image of the group is written: it awaits its close entry. -/
def OpenGroup.allWritten (g : OpenGroup) : Bool := g.writes.all fun w => w.stage == .written

/-- An image of the group is being written. -/
def OpenGroup.writing (g : OpenGroup) : Bool := g.writes.any fun w => w.stage == .writing

/-- A group's image of a record is held back: another open group holds an image of the record that is written or being
written, and no close entry stands behind it yet. Writing the newer image over it would leave that group without a whole
effect (R193; DEDUCED, log 41). -/
def heldBack (gs : List OpenGroup) (g : OpenGroup) (k : RecKey) : Bool :=
  gs.any fun x => x != g && x.writes.any fun w => w.key == k && w.stage != .waiting

/-- The first waiting image of a list that is not held back starts to be written. -/
def startFirst (held : RecKey → Bool) : List Write → List Write
  | [] => []
  | w :: ws =>
    if w.stage = .waiting ∧ held w.key = false then { w with stage := .writing } :: ws else w :: startFirst held ws

/-- The first group, in the order of the queue, that has an image that may be written has that image started. -/
def startGroup (all : List OpenGroup) : List OpenGroup → List OpenGroup
  | [] => []
  | g :: gs =>
    if g.writes.any (fun w => w.stage == .waiting && !heldBack all g w.key) then
      { g with writes := startFirst (heldBack all g) g.writes } :: gs
    else g :: startGroup all gs

/-- The store makes one write at a time: while an image is being written, or a group awaits its close entry, no image is
started (R193). -/
def startWrite (gs : List OpenGroup) : List OpenGroup :=
  if gs.any fun g => g.writing || g.allWritten then gs else startGroup gs gs

/-- The image being written is written, and its group takes its next turn behind the other open groups, so that groups
handed while another is being written have their images written in turn (R193, R194; DEDUCED, log 41). -/
def takeTurns (gs : List OpenGroup) : List OpenGroup :=
  gs.filter (fun g => !g.writing) ++
    (gs.filter OpenGroup.writing).map fun g =>
      { g with writes := g.writes.map fun w => if w.stage = .writing then { w with stage := .written } else w }

/-! ### Commit groups (R193) -/

/-- The group holds a waiting image of one of the records (R193). -/
def OpenGroup.awaits (g : OpenGroup) (new : List Write) : Bool :=
  g.writes.any fun w => w.stage == .waiting && new.any fun n => n.key == w.key

/-- A waiting image is replaced in place by the newer one, which carries the newer group's number (R193). -/
def replaceWaiting (new : List Write) (w : Write) : Write :=
  if w.stage = .waiting then (new.find? fun n => n.key == w.key).getD w else w

/-- The images of groups that become one: of two of one record, a waiting older one is not written (R193). -/
def newestWrites (ws : List Write) : List Write :=
  (ws.filter fun w => !(w.stage == .waiting && ws.any fun v => v.key == w.key && decide (w.group < v.group))).dedup

/-- Put the joined group in the place of the first group it takes in; a group that takes in none goes behind the others
(R193). -/
def placeJoined (joins : OpenGroup → Bool) (g : OpenGroup) : List OpenGroup → List OpenGroup
  | [] => [g]
  | x :: xs => if joins x then g :: xs.filter (fun y => !joins y) else x :: placeJoined joins g xs

/-- Put a group's images into the store's queue; groups whose waiting images it replaces are joined to it, its other
images behind theirs (R193). -/
def handGroup (id num : Nat) (new : List Write) (gs : List OpenGroup) : List OpenGroup :=
  let joined := gs.filter fun g => g.awaits new
  let kept := newestWrites ((joined.flatMap OpenGroup.writes).map (replaceWaiting new))
  let added := new.filter fun n => !joined.any fun g => g.writes.any fun w => w.stage == .waiting && w.key == n.key
  let group : OpenGroup :=
    { ids := joined.flatMap OpenGroup.ids ++ [id], nums := joined.flatMap OpenGroup.nums ++ [num], writes := kept ++ added }
  startWrite (placeJoined (fun g => g.awaits new) group gs)

/-- A commit point that waits holds an image of one of the records. -/
def CommitPoint.holds (p : CommitPoint) (keys : List RecKey) : Bool := p.writes.any fun w => keys.contains w.key

/-- A commit point that waits has its images of the records replaced by the newer ones that a group hands before it, as
R193 replaces a waiting image (DEDUCED, log 41). -/
def CommitPoint.renew (p : CommitPoint) (keys : List RecKey) (image : RecKey → Image) : CommitPoint :=
  { p with writes := p.writes.map fun (w : Write) => if keys.contains w.key then { w with image := image w.key } else w }

/-- The unsaved records that a group of these regions takes in: those that it does not hold (R193, R199). -/
def Store.takesUp (st : Store) (regions : List Region) (ws : List Write) : List RecKey :=
  st.unsaved.filter fun k => regions.contains (regionOf k) && !(ws.map Write.key).contains k

/-- The group of a commit point is handed (R193): it takes the next group number, and the unsaved records of its regions
with their images as they stand (R199). A group that holds no image closes at once. -/
def State.place (s : State) (id : Nat) (regions : List Region) (ws : List Write) : State :=
  let st := s.store
  let num := st.count + 1
  let more := st.takesUp regions ws
  let new := ws.map (fun w => { w with group := num, retry := st.unsaved.contains w.key }) ++
    more.map fun k => ⟨k, s.image k, num, .waiting, true⟩
  if new.isEmpty then { s with store := { st with count := num, closed := st.closed ++ [num], lastDone := num } }
  else
    { s with store :=
        { st with
          count := num
          changed := st.changed.filter fun k => !more.contains k
          behind := st.behind.map fun (p : CommitPoint) => p.renew more s.image
          groups := handGroup id num new st.groups } }

/-- The first commit point waiting that meets `f` hands its group. -/
def State.placeFirst (f : CommitPoint → Bool) (s : State) : State :=
  match s.store.behind.find? f with
  | some p =>
    { s with store := { s.store with behind := s.store.behind.eraseP f } }.place p.id
      (p.writes.map fun (w : Write) => regionOf w.key) p.writes
  | none => s

/-- Every commit point waiting that meets `f` hands its group, in their order. -/
def State.placeThose (f : CommitPoint → Bool) (s : State) : State :=
  s.store.behind.foldl (fun s _ => s.placeFirst f) s

/-- The commit points waiting in other handlings that hold one of the records, with those before them in their
handling. -/
def Store.overtaken (st : Store) (since : Option Nat) (keys : List RecKey) : List Nat :=
  let others := st.behind.filter fun p => (since.map fun n => decide (p.id ≤ n)).getD true
  let hit := others.filter fun p => p.holds keys
  (others.map CommitPoint.id).filter fun n => hit.any fun p => p.id == n || p.after.contains n

/-- A newer commit point of one of their records makes the waiting commit points of other handlings hand their groups
before it, so that a record's images are handed in the order in which they were taken (R193; DEDUCED, log 41). -/
def State.overtake (s : State) (keys : List RecKey) : State :=
  let l := s.store.overtaken s.handling.since keys
  s.placeThose fun p => l.contains p.id

/-- The images a commit point calls for: of every record it names, or of none where none of them has changed since its
last commit (R193). -/
def Store.groupKeys (st : Store) (names : List RecKey) : List RecKey :=
  if names.any fun k => st.changed.contains k then names.dedup else []

/-- The commit points after the `n`-th whose groups are not complete: those a handling must wait for (R194). -/
def Store.openAbove (st : Store) (n : Nat) : List Nat :=
  (st.groups.flatMap OpenGroup.ids ++ st.behind.map CommitPoint.id).filter fun k => decide (n < k)

/-- The commit points of the handling in hand whose groups are not complete (R194). -/
def State.awaited (s : State) : List Nat := (s.handling.since.map s.store.openAbove).getD []

/-- Make a commit point with the named records' images as they stand (R193). Its group is handed at once, or, behind
groups of the same handling that are not complete, when those have ended (R194). From here on the records count as
unchanged since their last commit (R201; DEDUCED, log 44). -/
def State.hand (s : State) (names : List RecKey) : State :=
  let keys := s.store.groupKeys names
  let id := s.store.called + 1
  let ws := keys.map fun k => (⟨k, s.image k, 0, .waiting, false⟩ : Write)
  let s1 := s.overtake keys
  let s2 : State :=
    { s1 with store := { s1.store with called := id, changed := s1.store.changed.filter fun k => !keys.contains k } }
  if s.awaited.isEmpty || keys.isEmpty then s2.place id (names.map regionOf) ws
  else { s2 with store := { s2.store with behind := s2.store.behind ++ [⟨id, ws, s.awaited⟩] } }

/-! ### Commit points and notices of a handling (R193, R194; DESIGN CHOICE, log 39) -/

/-- Raise a notice (R215); past a commit point of the handling it is raised when the groups handed there have ended
(R194). -/
def State.raise (s : State) (u : Subject) (d : Detail) : State := { s with notices := s.notices.take s.awaited u d }

/-- A commit point of the handling; where commit points are gathered for a later step, it is called for (R80, R147). -/
def State.commit (s : State) (names : List RecKey) : State :=
  match s.handling.gathered with
  | some g => { s with handling := { s.handling with gathered := some { g with points := g.points ++ [names] } } }
  | none => s.hand names

/-- Raise a notice that the rules place behind a commit (R15, R23): with gathered commit points, behind them. -/
def State.raiseBehind (s : State) (u : Subject) (d : Detail) : State :=
  match s.handling.gathered with
  | some g => { s with handling := { s.handling with gathered := some { g with notices := g.notices ++ [(u, d)] } } }
  | none => s.raise u d

/-- The handling has made a commit point. -/
def State.committed (s : State) : Bool := (s.handling.since.map fun n => decide (n < s.store.called)).getD false

/-- A last commit point, of records that earlier ones of the handling may have committed: it hands none where they have
committed every change (DESIGN CHOICE, log 17). -/
def State.commitRest (s : State) (names : List RecKey) : State :=
  if s.committed ∧ ∀ k ∈ names, k ∉ s.store.changed then s else s.commit names

/-- Those of the records that have changed since their last commit (R201). -/
def State.changedOf (s : State) (keys : List RecKey) : List RecKey := keys.filter fun k => s.store.changed.contains k

/-- From here on commit points, and the notices behind them, are gathered (R80, R147). -/
def State.gather (s : State) : State := { s with handling := { s.handling with gathered := some {} } }

/-- Gathered commit points are made at one moment: those that name a common record make one group, so that no record is
in two of them. -/
def joinPoints : List (List RecKey) → List (List RecKey)
  | [] => []
  | a :: rest =>
    let meets (b : List RecKey) : Bool := b.any fun k => a.contains k
    let gs := joinPoints rest
    (a ++ (gs.filter meets).flatten).dedup :: gs.filter fun b => !meets b

/-- The gathered commit points are made, their groups handed one behind the other, and then the gathered notices are
raised (R80, R147). -/
def State.handGathered (s : State) : State :=
  let g := s.handling.gathered.getD {}
  let s' := (joinPoints g.points).foldl State.commit { s with handling := { s.handling with gathered := none } }
  g.notices.foldl (fun s n => s.raise n.1 n.2) s'

/-- A handling begins. -/
def State.beginHandling (s : State) : State := { s with handling := { since := some s.store.called } }

/-- A handling ends; `outer` is what stood before it. -/
def State.endHandling (s : State) (outer : Handling) : State := { s with handling := outer }

/-- The first change of a lot or roll after its last commit writes its dirty mark (R195). -/
def State.markDirty (s : State) (k : RecKey) : State :=
  if s.store.dirty.contains k then s
  else { s with store := { s.store with dirty := s.store.dirty ++ [k], marker := false } }

/-! ### Free values -/

/-- Advance to the next free value (DESIGN CHOICE, log 5). -/
def State.freshen (s : State) : State := { s with fresh := s.fresh + 1 }

end Sys2Proof.Machine
end

