-- ==== Sys2Proof/Machine/Handling.lean ====
section
/-! DEFINITION. How an event is taken whole: a request at the Request Port (R209 to R213), a frame on the Head Link
(R71), a message on the Media Link or the Sensor Link (R194), each with the commit groups it hands and waits for, and
the power-fail flush that follows every change in FLUSH (R201 to R203). -/

namespace Sys2Proof.Machine

/-! ### The flush (R201 to R203) -/

/-- Hand a flush group holding the named records; a group without images closes at once (R193, R201). -/
def State.handFlush (s : State) (names : List RecKey) : State :=
  let n := s.store.called
  let s' := s.hand names
  let g := if (s'.store.openAbove n).isEmpty then none else some (n + 1)
  { s' with store := { s'.store with flush := { s'.store.flush with group := g, marked := false } } }

/-- The records the next flush group holds: those changed, and the unsaved ones but those that the flush has left unsaved
(R201). -/
def Store.flushNames (st : Store) : List RecKey :=
  st.changed ++ st.unsaved.filter fun k => !st.flush.givenUp.contains k

/-- End of the flush with PFAIL deasserted: the clean marker is erased and the store enters RUN (R203). -/
def State.resume (s : State) : State :=
  { s with phase := .run, store := { s.store with marker := false, flush := {} } }

/-- The marker is written once behind the last group of the flush (R201). -/
def State.writeMarker (s : State) : State :=
  if s.store.unsaved.isEmpty && !s.store.flush.marked then
    { s with store := { s.store with marker := true, flush := { s.store.flush with marked := true } } }
  else s

/-- A group is still open: a marker written before it does not stand for it (R201, R202). -/
def State.awaitGroups (s : State) : State :=
  { s with store := { s.store with flush := { s.store.flush with marked := false } } }

/-- Carry the flush on (R201, R202, R203): hand a further group while a record has changed behind the last one, write
the clean marker when every committed record stands committed, and enter RUN when PFAIL is deasserted. Where a commit
point still waits behind groups of its handling, RUN waits until it has handed its group, also with records left unsaved
and no marker to write (DESIGN CHOICE, log 62). -/
def State.advanceFlush (s : State) : State :=
  if s.phase ≠ .flush ∨ s.store.flush.group.isSome then s
  else if !s.store.flushNames.isEmpty then s.handFlush s.store.flushNames
  else if (s.store.unsaved.isEmpty && !s.store.groups.isEmpty) || !s.store.behind.isEmpty then s.awaitGroups
  else if s.pfail then s.writeMarker
  else s.writeMarker.resume

/-- PFAIL taken in RUN, or found at the end of a restore: the store enters FLUSH and starts the flush (R201, R208). -/
def State.startFlush (s : State) : State :=
  let s' := { s with phase := .flush, store := { s.store with flush := {} } }
  (s'.handFlush s'.store.flushNames).advanceFlush

/-! ### Requests -/

/-- What a block answers to a request: the state it leaves, the status and the body (R214). -/
structure Reply where
  state : State
  status : Status
  body : Body

/-- A refusal: no record changes (R214). -/
def State.refuse (s : State) (st : Status) : Reply := ⟨s, st, .empty⟩

/-- Form the response of the request in hand: the header carries the state of the part as it stands once the request's
effects are made, so that READ NOTICES counts the notices left (DESIGN CHOICE, log 45); the drop counter is written into
it and cleared, and BUSY is deasserted (R211, R212, R213). -/
def State.respond (s : State) (code seq : Nat) (st : Status) (b : Body) : State :=
  { s with port :=
      { buffer := .done
          { code := code, seq := seq, status := st, phase := s.phase, queued := s.notices.entries.length,
            dropped := s.port.dropped, dropping := s.notices.dropping, body := b }
        dropped := 0 } }

/-- A complete frame received while BUSY is asserted is discarded and counted, up to 255 (R212). -/
def State.dropFrame (s : State) : State := { s with port := { s.port with dropped := satAdd 255 s.port.dropped 1 } }

/-- No messages sent yet in this step (DESIGN CHOICE, log 3). -/
def State.quiet (s : State) : State := { s with out := [] }

/-- Hand a request on to its block; the response is formed when every commit group it called for is complete (R194,
R211). -/
def State.serve (s : State) (code seq : Nat) (h : State → Reply) : State :=
  let r := h s.beginHandling
  let t := r.state.endHandling s.handling
  let waiting := t.store.openAbove s.store.called
  if waiting.isEmpty then t.respond code seq r.status r.body
  else { t with port := { t.port with buffer := .pending code seq r.status r.body waiting } }

/-- Take a request frame that passes tests 1, 3 and 4 of R210: dropped while BUSY, answered NOT_READY in RESTORE and
FLUSH, and handed on in RUN. READ CHECK STATE too is answered NOT_READY in FLUSH, by R200 and R210 against the words of
R152 (DESIGN CHOICE, log 46). With no power nothing is received (DEDUCED, log 10). -/
def State.request (s : State) (code seq : Nat) (h : State → Reply) : State :=
  match s.phase with
  | .off => s.quiet
  | .run => if s.busy then s.quiet.dropFrame else s.quiet.serve code seq h
  | _ => if s.busy then s.quiet.dropFrame else s.quiet.respond code seq .notReady .empty

/-! ### Link frames and messages -/

/-- Take a Head Link frame: discarded while the answer to the last frame is being formed, else handled to one answer,
which is sent after the frame's commit groups are complete (R71, R194). -/
def State.headFrame (s : State) (h : State → State × HeadAnswer) : State :=
  let s := s.quiet
  if s.phase = .off ∨ s.head.forming.isSome then s
  else
    let r := h s.beginHandling
    let t := r.1.endHandling s.handling
    let waiting := t.store.openAbove s.store.called
    let t' := if waiting.isEmpty then t.send (.head r.2) else { t with head := { t.head with forming := some ⟨r.2, waiting⟩ } }
    t'.advanceFlush

/-- The part takes Media Link and Sensor Link messages in RUN and in FLUSH (R200). -/
def State.takesMessages (s : State) : Bool := s.phase == .run || s.phase == .flush

/-- Handle a Media Link message; the next one waits for the commit groups it hands (R194). -/
def State.takeMedia (s : State) (h : State → State) : State :=
  let s' := (h s.beginHandling).endHandling s.handling
  { s' with media := { s'.media with waiting := s'.store.openAbove s.store.called } }.advanceFlush

/-- Handle a Sensor Link message; the next one waits for the commit groups it hands (R194). -/
def State.takeSensor (s : State) (h : State → State) : State :=
  let s' := (h s.beginHandling).endHandling s.handling
  { s' with check := { s'.check with waiting := s'.store.openAbove s.store.called } }.advanceFlush

end Sys2Proof.Machine
end

