-- ==== Sys2Proof/Machine/Holdings.lean ====
section
/-! DEFINITION. Reservations: their arithmetic (R64, R65), the admission test (R6), and the withdrawal and trimming that
keep the ink law of R30 and the roll law of R103 (R10, R11). -/

namespace Sys2Proof.Machine

/-! ### Reservation arithmetic -/

/-- The base reservation of an estimate at a gain and a margin, rounded up (R64). -/
def baseReservation (estimate gain margin : Nat) : Nat := ceilDiv (estimate * gain * margin) Config.reservationDivisor

/-- A job's reservation on a channel as the channel stands: EDITION and PROOF jobs add the strip allowance (R65). -/
def State.inkNeed (s : State) (sp : JobSpec) (c : Chan) : Nat :=
  let cfg := (s.chan c).cfg
  baseReservation (sp.estimates.get c) cfg.gain cfg.margin + (if sp.kind = .check then 0 else cfg.allowance)

/-- A job's reservation vector as the channels stand (R64, R65, R67). -/
def State.inkNeeds (s : State) (sp : JobSpec) : Vec12 := Vector.ofFn fun c => s.inkNeed sp c

/-! ### Reserved totals -/

/-- Move every channel's reserved total by the difference of two reservation vectors (R66). -/
def State.moveInk (s : State) (old new : Vec12) : State :=
  { s with channels := Vector.ofFn fun c =>
      { s.chan c with reserved := (s.chan c).reserved + new.get c - old.get c } }

/-- Move one channel's reserved total (R66). -/
def State.moveChanInk (s : State) (c : Chan) (old new : Nat) : State :=
  s.modChan c fun ch => { ch with reserved := ch.reserved + new - old }

/-- Move a roll's reserved total by the difference of two roll reservations (R103). -/
def State.moveRoll (s : State) (id old new : Nat) : State :=
  s.modRoll id fun r => { r with reserved := r.reserved + new - old }

/-- Release a job's holdings: every ink reservation leaves its channel's reserved total and the roll reservation its
roll's (R10, R15). The job record given is the one to write. -/
def State.release (s : State) (j : Job) : State :=
  (s.moveInk j.ink (Vec12.all 0)).moveRoll j.spec.roll j.rollRes 0

/-- A job record without holdings. -/
def Job.unheld (j : Job) : Job := { j with ink := Vec12.all 0, rollRes := 0 }

/-! ### Admission test (R6) -/

/-- The outcome of the admission test. -/
inductive Admission where
  | pass (ink : Vec12) (roll : Nat)
  | inkShort (c : Chan) (shortfall : Nat)
  | mediaShort (shortfall : Nat)
deriving DecidableEq, Repr

/-- A length is at most what a roll can still promise: remaining length less run-out length less reserved total (R6). -/
def State.rollFits (s : State) (r : Roll) (len : Nat) : Bool :=
  decide (len + runOut s.media.geometry + r.reserved ≤ r.remaining)

/-- The admission test (R6): the ink part on every channel with a nonzero reservation, then the media part. The media
shortfall is the exact figure (DEDUCED, log 14). -/
def State.admission (s : State) (sp : JobSpec) (r : Roll) : Admission :=
  let need := s.inkNeeds sp
  let len := rollNeed s.media.geometry sp
  match Chan.list.find? fun c => need.get c != 0 && decide (s.usableFree c < need.get c) with
  | some c => .inkShort c (need.get c - s.usableFree c)
  | none =>
    if s.rollFits r len then .pass need len
    else .mediaShort (len + runOut s.media.geometry + r.reserved - r.remaining)

/-! ### Withdrawal (R10) -/

/-- The youngest ADMITTED job with a property (R8, R10). -/
def State.youngest (s : State) (p : Job → Bool) : Option Job :=
  s.jobs.foldl
    (fun best j =>
      if j.state == .admitted && p j then
        match best with
        | none => some j
        | some b => if j.younger b then some j else some b
      else best)
    none

/-- Withdraw an ADMITTED job: release its holdings, clear its sequence number, return it to DEFERRED, raise WITHDRAWN
and commit it (R10). -/
def State.withdraw (s : State) (j : Job) (r : Resource) : State :=
  (((s.release j).setJob { j.unheld with state := .deferred, seqNo := none }).raise (.num j.tag) (.withdrawn r)).commit
    [.job j.tag]

/-- Withdraw ADMITTED jobs with a property, the youngest first, one at a time, while a condition holds (R10). -/
def withdrawWhile (fails : State → Bool) (holds : Job → Bool) (r : Resource) : Nat → State → State
  | 0, s => s
  | n + 1, s =>
    if fails s then
      match s.youngest holds with
      | some j => withdrawWhile fails holds r n (s.withdraw j r)
      | none => s
    else s

/-! ### The laws (R30, R103) and trimming (R11) -/

/-- The ink law fails on a channel (R30). -/
def State.inkLawFails (s : State) (c : Chan) : Bool := decide (s.remainingTotal c < (s.chan c).reserved)

/-- The roll law fails on a roll (R103). -/
def State.rollLawFails (s : State) (id : Nat) : Bool :=
  match s.roll? id with
  | some r => decide (r.remaining < r.reserved)
  | none => false

/-- Trim the printing job's reservation on a channel by the excess; the trimmed record is committed (R11, R63,
DEDUCED, log 15). -/
def State.trimInk (s : State) (c : Chan) : State :=
  match s.printing? with
  | none => s
  | some j =>
    let held := j.ink.get c
    let cut := min held ((s.chan c).reserved - s.remainingTotal c)
    if cut = 0 then s
    else
      ((s.moveChanInk c held (held - cut)).setJob
        { j with ink := j.ink.set c (held - cut), flags := { j.flags with inkAtRisk := true } }).commit [.job j.tag]

/-- Trim the printing job's roll reservation by the excess; the trimmed record is committed (R11, R63, DEDUCED, log
15). -/
def State.trimRoll (s : State) (id : Nat) : State :=
  match s.printing?, s.roll? id with
  | some j, some r =>
    let cut := min j.rollRes (r.reserved - r.remaining)
    if j.spec.roll ≠ id ∨ cut = 0 then s
    else
      ((s.moveRoll id j.rollRes (j.rollRes - cut)).setJob
        { j with rollRes := j.rollRes - cut, flags := { j.flags with overrunMedia := true } }).commit [.job j.tag]
  | _, _ => s

/-- The job holds a nonzero reservation on the roll. -/
def Job.holdsRoll (j : Job) (id : Nat) : Bool := j.spec.roll == id && j.rollRes != 0

/-- Test the ink law on a channel; where it fails, withdraw and then trim (R30). -/
def State.enforceInk (s : State) (c : Chan) : State :=
  (withdrawWhile (fun s => s.inkLawFails c) (fun j => j.ink.get c != 0) (.channel c) s.jobs.length s).trimInk c

/-- Test the roll law on a roll; where it fails, withdraw and then trim (R103). -/
def State.enforceRoll (s : State) (id : Nat) : State :=
  (withdrawWhile (fun s => s.rollLawFails id) (fun j => j.holdsRoll id) (.roll id) s.jobs.length s).trimRoll id

/-- Withdraw every ADMITTED job that holds the roll, the youngest first (R107, R126). -/
def State.withdrawRoll (s : State) (id : Nat) : State :=
  withdrawWhile (fun _ => true) (fun j => j.holdsRoll id) (.roll id) s.jobs.length s

end Sys2Proof.Machine
end

