-- ==== Sys2Proof/Machine/Settle.lean ====
section
/-! DEFINITION. Costing and settlement: the settlement arithmetic (R182 to R185), where a job's cost is carried (R166,
R167, R186), settlement itself (R21 to R23) and the move to FINISHING (R15). -/

namespace Sys2Proof.Machine

/-! ### Settlement arithmetic -/

/-- The strip is set aside to overhead: an EDITION or PROOF job in OVERHEAD mode (R181). -/
def State.setsAside (s : State) (j : Job) : Bool := s.stripMode == .overhead && j.spec.kind != .check

/-- The captured price of a lot, 0 where the record is absent (R182). -/
def State.lotPrice (s : State) (code : Nat) : Nat := ((s.lot? code).map Lot.price).getD 0

/-- Width times captured media price of a roll, 0 where the record is absent (R182, R184). -/
def State.rollRate (s : State) (id : Nat) : Nat := ((s.roll? id).map fun r => r.width * r.price).getD 0

/-- The ink sum in 1/1,000,000 cost unit, over a volume of each draw list entry (R183). -/
def State.inkSum (s : State) (volume : DrawEntry → Nat) (l : List DrawEntry) : Nat :=
  (l.map fun d => volume d * s.lotPrice d.lot).sum

/-- The ink sum of a job's cost (R183). -/
def State.jobInkSum (s : State) (j : Job) : Nat :=
  s.inkSum (fun d => if s.setsAside j then d.image else d.image + d.strip) j.draws

/-- The media length of a job's cost (R184). -/
def State.jobLength (s : State) (j : Job) : Nat :=
  if s.setsAside j then j.printPiece else j.printPiece + j.stripPiece

/-- The cost record of a job (R183, R184, R185). -/
def State.costOf (s : State) (j : Job) : CostRecord :=
  let ink := min Config.max32 (roundDiv (s.jobInkSum j) 1000000)
  let media := min Config.max32 (roundDiv (s.jobLength j * s.rollRate j.spec.roll) 100000000)
  let handling := j.handling.getD 0
  { ink := ink, media := media, handling := handling, total := min Config.max32 (ink + media + handling) }

/-- What a job's strip adds to the overhead strips accumulator, in 1/100,000,000 cost unit (R183, R184, R187). -/
def State.stripOverhead (s : State) (j : Job) : Nat :=
  if s.setsAside j then
    s.inkSum DrawEntry.strip j.draws * 100 + j.stripPiece * s.rollRate j.spec.roll
  else 0

/-- A lot in the draw list, or the roll, is UNPRICED or absent (R182). -/
def State.unpricedIn (s : State) (j : Job) : Bool :=
  (j.draws.any fun d => ((s.lot? d.lot).map Lot.unpriced).getD true) || ((s.roll? j.spec.roll).map Roll.unpriced).getD true

/-- A lot in the draw list, or the roll, is UNCERTAIN (R22). -/
def State.uncertainIn (s : State) (j : Job) : Bool :=
  (j.draws.any fun d => ((s.lot? d.lot).map Lot.uncertain).getD false) ||
    ((s.roll? j.spec.roll).map Roll.uncertain).getD false

/-! ### Where the cost goes (R166, R167, R186) -/

/-- The edition numbers the job: a SETTLED EDITION job of an OPEN or LOCKED edition (R166). -/
def Edition.numbers (e : Edition) (j : Job) : Bool :=
  j.spec.kind == .edition && j.state == .settled && (e.state == .opened || e.state == .locked)

/-- The edition record after one more print number is issued; it closes at its limit (R166). -/
def Edition.issue (e : Edition) : Edition :=
  { e with issued := e.issued + 1, state := if e.issued + 1 = e.limit then .closed else e.state }

/-- Add a job's total to the edition's totals and raise its voided count (R167). -/
def Edition.charge (e : Edition) (j : Job) (total : Nat) : Edition :=
  match j.spec.kind with
  | .edition =>
    if j.state = .voided then
      { e with wasteTotal := satAdd Config.max48 e.wasteTotal total, voided := satAdd 65535 e.voided 1 }
    else if e.state = .closed then e
    else { e with printTotal := satAdd Config.max48 e.printTotal total }
  | .check => { e with wasteTotal := satAdd Config.max48 e.wasteTotal total }
  | .proof => e

/-- The edition record after a job naming it settles: charged, numbered where R166 numbers, its proving stale mark
cleared (R160). -/
def Edition.settle (e : Edition) (j : Job) (total : Nat) : Edition :=
  let e' := { e.charge j total with stale := false }
  if e.numbers j then e'.issue else e'

/-- Cost a job whose state is SETTLED or VOIDED, write its cost record and number, and carry its total and its strip to
their accounts (R182 to R187). A total of a job whose edition is absent is carried nowhere (R205). -/
def State.costAndCarry (s : State) (j : Job) : State :=
  let cost := s.costOf j
  let strips := satAdd Config.max64 s.overhead.strips (s.stripOverhead j)
  let j' := { j with cost := some cost, flags := { j.flags with unpriced := j.flags.unpriced || s.unpricedIn j } }
  let s1 := s.setOverhead { s.overhead with strips := strips }
  match j.spec.edition with
  | some id =>
    match s1.edition? id with
    | some e =>
      let number := if e.numbers j then some (e.issued + 1) else none
      (s1.setEdition (e.settle j cost.total)).setJob { j' with number := number }
    | none => s1.setJob j'
  | none =>
    let s2 :=
      if j.spec.kind = .check then
        s1.setOverhead
          { s1.overhead with houseChecks := satAdd Config.max64 s1.overhead.houseChecks (cost.total * 1000000) }
      else s1
    s2.setJob j'

/-! ### Settlement (R21 to R23) and FINISHING (R15) -/

/-- Settlement voids the job (R22). -/
def Job.dooms (j : Job) : Bool := j.flags.voidOnSettle || j.flags.abortPending || j.cause == some .mediaEnd

/-- Raise the JOB_STATE notice of a job as it stands, behind the commit of its record (R15, R23). -/
def State.raiseJobState (s : State) (tag : Nat) : State :=
  match s.job? tag with
  | some j => s.raiseBehind (.num tag) (.jobState j.state j.cause j.flags)
  | none => s

/-- The lots a job drew from whose parts were merged into another lot's entry of its draw list (R58, R62). -/
def State.mergedLots (s : State) (tag : Nat) : List Nat := (s.merged.filter fun p => p.1 == tag).map Prod.snd

/-- The records a settlement commits: the job, the lots it drew from, in its draw list or merged (R34, R58), its roll, its
edition, and COUNTERS when an accumulator changed (R23); with the lots go the slot fields of its channels that have
changed (R28). -/
def State.settlementKeys (s : State) (j : Job) (accounts : Bool) : List RecKey :=
  [.job j.tag] ++ j.draws.map (fun d => .lot d.lot) ++ (s.mergedLots j.tag).map RecKey.lot ++ [.roll j.spec.roll] ++
    (j.spec.edition.map RecKey.edition).toList ++ (if accounts then [.counters] else []) ++
    s.changedOf (j.draws.map fun d => .slots d.channel)

/-- A settled job's merged lots are committed and no longer kept in mind (R58). -/
def State.forgetMerged (s : State) (tag : Nat) : State := { s with merged := s.merged.filter fun p => p.1 != tag }

/-- Settle a FINISHING job (R22, R23): cost and carry it, commit it with what it changed, raise JOB_STATE. -/
def State.settle (s : State) (j : Job) : State :=
  let j' :=
    { j with
      state := if j.dooms then .voided else .settled
      flags := { j.flags with uncertain := j.flags.uncertain || s.uncertainIn j } }
  let s' := s.costAndCarry j'
  ((s'.commit (s'.settlementKeys j (decide (s'.overhead ≠ s.overhead)))).forgetMerged j.tag).raiseJobState j.tag

/-- The settlement test on a job (R21). -/
def State.settleTest (s : State) (tag : Nat) : State :=
  match s.job? tag with
  | some j => if j.settles then s.settle j else s
  | none => s

/-- Set a void cause unless one is present (R4). -/
def Job.doom (j : Job) (c : VoidCause) : Job := { j with cause := some (j.cause.getD c) }

/-- A PRINTING job moves to FINISHING: its holdings are released, the record is committed and JOB_STATE raised (R15).
The settlement test is the caller's next step. -/
def State.finish (s : State) (tag : Nat) : State :=
  match s.job? tag with
  | some j =>
    (((s.release j).setJob { j.unheld with state := .finishing }).commit [.job tag]).raiseJobState tag
  | none => s

/-- A PRINTING job moves to FINISHING and settles when its conditions already hold (R15, R21). -/
def State.finishAndTest (s : State) (tag : Nat) : State := (s.finish tag).settleTest tag

end Sys2Proof.Machine
end

