-- ==== Sys2Proof/Machine/EditionOps.lean ====
section
/-! DEFINITION. What reaches an edition from its neighbours: locks and discards (R163, R164, R160), unlocks (R165) and
proving readings (R159). -/

namespace Sys2Proof.Machine

/-- Lock an OPEN or LOCKED edition: the cause is added, the generation incremented, EDITION_LOCKED raised and the record
committed (R163, R164). -/
def State.lockEdition (s : State) (e : Edition) (cause : LockCause) (ch : Option Chan) : State :=
  let e' := { e with state := .locked, causes := e.causes.add cause, generation := (e.generation + 1) % 65536 }
  ((s.setEdition e').raise (.num e.id) (.editionLocked cause ch e'.causes e'.generation)).commit [.edition e.id]

/-- A job naming the edition is PRINTING or FINISHING with its strip not RESOLVED (R160). -/
def State.provingInHand (s : State) (id : Nat) : Bool :=
  s.jobs.any fun j => j.names id && (j.state == .printing || j.state == .finishing) && j.strip != .resolved

/-- A lot change or substitution reaches a PROVING edition: its provisional reference is discarded and the stale mark
set where R160 sets it. -/
def State.discardProving (s : State) (e : Edition) : State :=
  let e' := { e with provisional := none, stale := e.stale || s.provingInHand e.id }
  if e' = e then s else (s.setEdition e').commit [.edition e.id]

/-- Treat one edition by a lot change or substitution on a channel of its mask (R163). -/
def State.treatEdition (s : State) (e : Edition) (cause : LockCause) (c : Chan) : State :=
  match e.state with
  | .opened | .locked => s.lockEdition e cause (some c)
  | .proving => s.discardProving e
  | .closed => s

/-- Treat every edition whose mask includes the channel, in ascending edition id order (R163). -/
def State.treatChannel (s : State) (cause : LockCause) (c : Chan) : State :=
  (s.editions.filter fun e => e.covers c).foldl (fun s e => s.treatEdition e cause c) s

/-- An unlock handed by a CHECK job: a LOCKED edition whose generation equals the captured one opens with no causes
(R165). The second part says whether it was unlocked. -/
def State.unlockEdition (s : State) (id generation tag : Nat) : State × Bool :=
  match s.edition? id with
  | some e =>
    if e.state = .locked ∧ e.generation = generation then
      ((s.setEdition { e with state := .opened, causes := {} }).raise (.num id) (.editionUnlocked generation tag), true)
    else (s, false)
  | none => (s, false)

/-- Proving readings handed for an edition are kept as its provisional reference when it is PROVING, its stale mark is
clear and no density is 0 (R159). -/
def State.keepProvisional (s : State) (id : Nat) (r : Reference) (tag : Nat) : State :=
  match s.edition? id with
  | some e =>
    if e.state = .proving ∧ e.stale = false ∧ (Chan.list.all fun c => r.densities.get c != 0) then
      s.setEdition { e with provisional := some ⟨r, tag⟩ }
    else s
  | none => s

end Sys2Proof.Machine
end

