-- ==== Sys2Proof/Machine/Ink.lean ====
section
/-! DEFINITION. The Ink Unit: channel state (R29), lot change and exhaustion (R33, R38, R39), expiry (R46, R47), price
capture (R179), and metering: the draw (R51), coverage (R54, R55), the split (R57), booking (R58), the draw list (R61,
R62) and the reservation (R59). -/

namespace Sys2Proof.Machine

/-! ### Channel state and expired flag -/

/-- Re-evaluate a channel's state from its remaining total, raising CHANNEL_LOW or CHANNEL_OUT when it becomes so
(R29). -/
def State.evalChannel (s : State) (c : Chan) : State :=
  let rem := s.remainingTotal c
  let res := (s.chan c).cfg.reserve
  let new := channelStateOf rem res
  let s' := s.modChan c fun ch => { ch with state := new }
  if new = (s.chan c).state then s'
  else
    match new with
    | .ready => s'
    | .low => s'.raise (.num c.val) (.channelLow rem res)
    | .out => s'.raise (.num c.val) (.channelOut rem res)

/-- Re-evaluate a channel's expired flag from its active lot (R47). -/
def State.evalExpired (s : State) (c : Chan) : State :=
  s.modChan c fun ch => { ch with expired := ((s.activeLot c).map Lot.expired).getD false }

/-- A lot is expired: its expiry day is less than the day number (R46). -/
def Lot.pastDay (l : Lot) (day : Nat) : Bool := decide (l.expiry < day)

/-- Evaluate one lot's expiry: a newly expired lot is flagged, committed and noticed (R46), with the slot fields of the
channel it sits in where they have changed (R28). -/
def State.evalExpiry (s : State) (l : Lot) : State :=
  if l.pastDay s.day && !l.expired then
    let s' := s.setLot { l with expired := true }
    (s'.commit ([.lot l.code] ++ s'.changedOf (l.location.map fun _ => RecKey.slots l.channel).toList)).raise
      (.num l.code) (.lotExpired l.channel l.expiry)
  else s

/-! ### Lot change and exhaustion -/

/-- The printing job is flagged LOT_CHANGED when it uses the channel (R39). -/
def State.flagLotChanged (s : State) (c : Chan) : State :=
  match s.printing? with
  | some j => if j.uses c then s.setJob { j with flags := { j.flags with lotChanged := true } } else s
  | none => s

/-- The printing job that a lot change on the channel flags anew. -/
def State.lotChangeJob (s : State) (c : Chan) : List RecKey :=
  ((s.printing?.filter fun j => j.uses c && !j.flags.lotChanged).map fun j => RecKey.job j.tag).toList

/-- What makes a lot change: a request, or the metering of a swath or purge. -/
inductive ChangeBy where
  | request | metering
deriving DecidableEq, Repr

/-- The records a lot change commits (R39). A request commits the job it flags LOT_CHANGED with them, since each
amendment of a job is committed before the response (R1, R43); a flag that metering sets waits for the job's next commit
(R63) (DEDUCED, log 40). -/
def State.lotChangeKeys (s : State) (via : ChangeBy) (c : Chan) (left taken : Nat) : List RecKey :=
  [.slots c] ++ (if left = 0 then [] else [.lot left]) ++ [.lot taken] ++
    (if via = .request then s.lotChangeJob c else [])

/-- The effects of a lot change on a channel whose active slot has moved (R39): expired flag, the LOT_CHANGE notice,
edition locks, LOT_CHANGED and the commit. `left` is 0 when the channel had no active lot. R39's list is in no order; the
notice comes before those of the editions, as in the worked example of section 2.6 (DEDUCED, log 11). -/
def State.lotChange (s : State) (via : ChangeBy) (c : Chan) (left taken : Nat) : State :=
  ((((s.evalExpired c).raise (.num c.val) (.lotChange left taken)).treatChannel .lotChange c).flagLotChanged c).commit
    (s.lotChangeKeys via c left taken)

/-- Set a channel's active slot (R33). -/
def State.setActive (s : State) (c : Chan) (t : Option TankSlot) : State :=
  s.modChan c fun ch => { ch with slots := { ch.slots with active := t } }

/-- The active lot, last in slot `t`, is exhausted or gone: the other slot becomes active where it holds a LOADED lot,
which is a lot change, and the active slot becomes none otherwise (R33). -/
def State.nextActive (s : State) (via : ChangeBy) (c : Chan) (t : TankSlot) (left : Nat) : State :=
  match s.lotIn c t.other with
  | some l =>
    if l.state = .loaded then (s.setActive c (some t.other)).lotChange via c left l.code
    else (s.setActive c none).evalExpired c
  | none => (s.setActive c none).evalExpired c

/-- The active lot in slot `t` has reached 0: the active slot moves and the exhausted lot and the slot fields are
committed (R38). A lot change commits them itself (R39). -/
def State.exhaustActive (s : State) (via : ChangeBy) (c : Chan) (t : TankSlot) (code : Nat) : State :=
  let s' := s.nextActive via c t code
  if (s'.chan c).slots.active.isSome then s' else s'.commit [.lot code, .slots c]

/-! ### Price capture -/

/-- Capture a price: the price and whether the record is UNPRICED (R179). -/
def State.capture (s : State) (c : PriceClass) (code : Nat) : Nat × Bool :=
  if s.pricesBad then (0, true)
  else
    match s.prices.entry? c code with
    | some e => (e.price, false)
    | none => (0, true)

/-! ### The draw (R51, R52) -/

/-- The weighted total of a channel for one frame, with its residue, in 1/40,960,000 nL (R51). -/
def Channel.weighted (ch : Channel) (d : Drops) : Nat :=
  (d.nS * ch.cfg.vS + d.nM * ch.cfg.vM + d.nL * ch.cfg.vL) * ch.cfg.weight + ch.residue

/-- The draw of a channel for one frame, in nL (R51). -/
def Channel.draw (ch : Channel) (d : Drops) : Nat := ch.weighted d / Config.drawDivisor

/-- The candidate residue of a channel for one frame (R51). -/
def Channel.candidate (ch : Channel) (d : Drops) : Nat := ch.weighted d % Config.drawDivisor

/-- The twelve draws of a frame (R52). -/
def State.draws (s : State) (d : DropCounts) : Vec12 := Vector.ofFn fun c => (s.chan c).draw (d.get c)

/-- The twelve candidate residues of a frame (R52). -/
def State.candidates (s : State) (d : DropCounts) : Vec12 := Vector.ofFn fun c => (s.chan c).candidate (d.get c)

/-! ### Coverage (R54, R55) -/

/-- The channels whose draw exceeds their remaining total, in ascending order (R54). -/
def State.uncovered (s : State) (v : Vec12) : List Chan :=
  Chan.list.filter fun c => decide (s.remainingTotal c < v.get c)

/-- The notices of a failed coverage test: CHANNEL_OUT for each failing channel that is READY or LOW (R55). -/
def State.raiseUncovered (s : State) (l : List Chan) : State :=
  l.foldl
    (fun s c =>
      if (s.chan c).state = .out then s
      else s.raise (.num c.val) (.channelOut (s.remainingTotal c) (s.chan c).cfg.reserve))
    s

/-! ### Booking and splitting (R57, R58) -/

/-- A lot record with a part of a draw taken: an IMAGE or STRIP swath's, or a purge's (R36, R58). -/
def Lot.take (l : Lot) (k : Option SwathKind) (v : Nat) : Lot :=
  let l' := { l with remaining := l.remaining - v, state := lotStateOf (l.remaining - v) l.location }
  match k with
  | some .image => { l' with imageDrawn := l.imageDrawn + v }
  | some .strip => { l' with stripDrawn := l.stripDrawn + v }
  | none => { l' with maintDrawn := l.maintDrawn + v }

/-- Book a part of a draw to a lot; its first change after a commit writes its dirty mark (R58, R195). -/
def State.book (s : State) (k : Option SwathKind) (l : Lot) (v : Nat) : State :=
  (s.markDirty (.lot l.code)).setLot (l.take k v)

/-- A part of a draw: the lot it came from and its volume. -/
abbrev Part := Nat × Nat

/-- Take up to `v` from the active lot of a channel; a lot brought to 0 is exhausted (R57, R38). The second part of the
answer is what was taken. -/
def State.drawActive (s : State) (k : Option SwathKind) (c : Chan) (v : Nat) : State × List Part :=
  match (s.chan c).slots.active, s.activeLot c with
  | some t, some l =>
    let part := min v l.remaining
    if part = 0 then (s, [])
    else
      let s' := s.book k l part
      (if part = l.remaining then s'.exhaustActive .metering c t l.code else s', [(l.code, part)])
  | _, _ => (s, [])

/-- Take a channel's draw from its active lot first and the excess from the other slot, which has become active (R57).
-/
def State.drawChannel (s : State) (k : Option SwathKind) (c : Chan) (v : Nat) : State × List Part :=
  let r1 := s.drawActive k c v
  let r2 := r1.1.drawActive k c (v - (r1.2.map Prod.snd).sum)
  (r2.1, r1.2 ++ r2.2)

/-! ### Draw list (R61, R62) -/

/-- Add a volume to the column of a swath kind, saturating at 4,294,967,295 (R61). -/
def DrawEntry.add (d : DrawEntry) (k : SwathKind) (v : Nat) : DrawEntry :=
  match k with
  | .image => { d with image := satAdd Config.max32 d.image v }
  | .strip => { d with strip := satAdd Config.max32 d.strip v }

/-- Add a volume to the entry of a channel and lot where it stands (R61). -/
def addToEntry (k : SwathKind) (c : Chan) (code v : Nat) (l : List DrawEntry) : List DrawEntry :=
  l.map fun d => if d.channel = c ∧ d.lot = code then d.add k v else d

/-- Enter a part in a draw list: in its own entry, in a new one while the channel has fewer than three, or merged into
the channel's third entry (R61, R62). The second part says whether it was merged. -/
def enterPart (k : SwathKind) (c : Chan) (p : Part) (l : List DrawEntry) : List DrawEntry × Bool :=
  let mine := l.filter fun d => d.channel == c
  if mine.any fun d => d.lot == p.1 then (addToEntry k c p.1 p.2 l, false)
  else if mine.length < 3 then (l ++ [DrawEntry.add ⟨c, p.1, 0, 0⟩ k p.2], false)
  else
    match mine.getLast? with
    | some d => (addToEntry k c d.lot p.2 l, true)
    | none => (l, false)

/-- A job record with one part entered in its draw list (R61, R62). -/
def Job.enter (k : SwathKind) (c : Chan) (j : Job) (p : Part) : Job :=
  let r := enterPart k c p j.draws
  { j with draws := r.1, flags := { j.flags with priceMerged := j.flags.priceMerged || r.2 } }

/-- A job record with a draw set against its reservation on a channel (R59). -/
def Job.against (j : Job) (c : Chan) (v : Nat) : Job :=
  { j with
    ink := j.ink.set c (j.ink.get c - v)
    flags := { j.flags with overrunInk := j.flags.overrunInk || decide (j.ink.get c < v) } }

/-! ### Applying a frame (R56, R60, R68, R69) -/

/-- Write the candidate residue of a channel (R53). -/
def State.setResidue (s : State) (c : Chan) (n : Nat) : State := s.modChan c fun ch => { ch with residue := n }

/-- Keep in mind the lots of a job's parts that have no entry in its draw list: they were merged (R58, R62). -/
def State.noteMerged (s : State) (j : Job) (c : Chan) (parts : List Part) : State :=
  let out := parts.filter fun p => !j.draws.any fun d => d.channel == c && d.lot == p.1
  { s with merged := (s.merged ++ out.map fun p => (j.tag, p.1)).dedup }

/-- Enter a swath's parts on a channel in the job's draw list and set the draw against its reservation (R56, R59). -/
def State.chargeJob (s : State) (tag : Nat) (k : SwathKind) (c : Chan) (v : Nat) (parts : List Part) : State :=
  match s.job? tag with
  | some j =>
    let held := j.ink.get c
    let j' := (parts.foldl (Job.enter k c) j).against c v
    ((s.moveChanInk c held (held - v)).setJob j').noteMerged j' c parts
  | none => s

/-- Cost a purge's parts into the maintenance ink accumulator; a part from an UNPRICED lot adds 0 (R69). -/
def State.chargeMaintenance (s : State) (parts : List Part) : State :=
  parts.foldl
    (fun s p =>
      let price := ((s.lot? p.1).map fun l => if l.unpriced then 0 else l.price).getD 0
      s.setOverhead { s.overhead with maintenance := satAdd Config.max64 s.overhead.maintenance (p.2 * price) })
    s

/-- Apply the draw of one channel: split and book it, charge it to the job or to maintenance, write the residue (R56).
-/
def State.applyChannel (s : State) (job : Option (Nat × SwathKind)) (c : Chan) (v residue : Nat) : State :=
  if v = 0 then s.setResidue c residue
  else
    let r := s.drawChannel (job.map Prod.snd) c v
    let s' :=
      match job with
      | some (tag, k) => r.1.chargeJob tag k c v r.2
      | none => r.1.chargeMaintenance r.2
    s'.setResidue c residue

/-- After an accepted frame, evaluate each channel that was drawn on, in ascending order: its state, then the ink law
(R60). -/
def State.afterDraws (s : State) (v : Vec12) : State :=
  Chan.list.foldl (fun s c => if v.get c = 0 then s else (s.evalChannel c).enforceInk c) s

/-- Apply an accepted frame: twelve draws in ascending channel order, then the after-draw evaluation (R56, R60). -/
def State.applyFrame (s : State) (job : Option (Nat × SwathKind)) (v residues : Vec12) : State :=
  (Chan.list.foldl (fun s c => s.applyChannel job c (v.get c) (residues.get c)) s).afterDraws v

end Sys2Proof.Machine
end

