-- ==== Sys2Proof/Machine/CheckOps.lean ====
section
/-! DEFINITION. The Check Unit: the standard a strip is judged by (R131), the strip decision (R135), arming (R137,
R138), missed checks (R141), and what a reading does (R139 to R150). -/

namespace Sys2Proof.Machine

/-! ### The standard of a strip (R131) -/

/-- What a job's strip is judged by: Lab set, target densities, tolerance, and the reference gains with the band where
the gain band clamp applies (R131). -/
structure Standard where
  labs : List Lab
  densities : Vec12
  tolerance : Nat
  band : Option (Vec12 × Nat)
deriving DecidableEq, Repr

/-- The house set of the check plan (R131). -/
def CheckPlan.house (p : CheckPlan) : Standard := ⟨p.labs, p.densities, p.tolerance, none⟩

/-- The edition's own standard, where it is OPEN or LOCKED and holds a reference (R131). -/
def Edition.standard (e : Edition) : Option Standard :=
  if e.state = .opened ∨ e.state = .locked then
    e.reference.map fun r => ⟨r.labs, r.densities, e.tolerance, some (r.gains, e.band)⟩
  else none

/-- The standard of an edition's own reference that applies to a job, if any (R131). -/
def State.editionStandard (s : State) (j : Job) : Option Standard :=
  (j.spec.edition.bind s.edition?).bind Edition.standard

/-- The standard that applies to a job's strip (R131). -/
def State.standard (s : State) (j : Job) : Standard := (s.editionStandard j).getD s.check.plan.house

/-! ### Missed checks (R141) -/

/-- Resolve a job's check as missed: strip RESOLVED, UNCHECKED, a CHECK_RESULT notice, and the arm record emptied when
it names the job (R141). The settlement test is the caller's next step. -/
def State.missCheck (s : State) (tag : Nat) (why : MissedReason) : State :=
  match s.job? tag with
  | some j =>
    let s1 := s.setJob { j with strip := .resolved, flags := { j.flags with unchecked := true } }
    let s2 := s1.raise (.num tag) (.checkMissed why)
    if (s2.check.arm.map Arm.tag) = some tag then { s2 with check := { s2.check with arm := none } } else s2
  | none => s

/-- Resolve as missed the check of a job whose strip is PLANNED or PRINTED (R119, R122, R125). -/
def State.missUnread (s : State) (tag : Nat) (why : MissedReason) : State :=
  match s.job? tag with
  | some j => if j.stripUnread then s.missCheck tag why else s
  | none => s

/-! ### Strip decision (R135) -/

/-- The strip decision of a job at its last image swath (R135). -/
def State.stripWanted (s : State) (j : Job) : Bool :=
  decide (s.check.plan.effective ≤ s.check.counter + 1) || s.check.forced || j.flags.lotChanged || j.flags.rowFaultDuring ||
    ((j.spec.edition.bind s.edition?).map fun e => e.state == .proving).getD false

/-! ### Arming (R137, R138) -/

/-- An outstanding arm is superseded: its job's check is missed, the record is committed and its settlement test made
(R138). -/
def State.supersede (s : State) : State :=
  match s.check.arm with
  | some a =>
    let s' := s.missCheck a.tag .superseded
    ({ s' with check := { s'.check with arm := none } }.commit [.job a.tag]).settleTest a.tag
  | none => s

/-- Arm the sensor for a job's strip (R137). -/
def State.armFor (s : State) (tag : Nat) : State :=
  let s1 := s.supersede
  match s1.job? tag with
  | some j =>
    let n := (s1.check.armSeq + 1) % 256
    { s1 with check := { s1.check with armSeq := n, arm := some ⟨n, tag⟩ } }.send
      (.arm n (s1.standard j).labs.length)
  | none => s1

/-- A strip arrival handed by the Media Unit: armed when the strip is PRINTED, declined otherwise (R137). -/
def State.arrive (s : State) (tag : Nat) : State :=
  match s.job? tag with
  | some j => if j.strip = .printed then s.armFor tag else s
  | none => s

/-! ### Colour difference and verdict (R142, R143) -/

/-- The squared difference of a measured and a reference Lab value (R142). -/
def labDiff (m r : Lab) : Nat :=
  ((m.L - r.L) * (m.L - r.L) + (m.a - r.a) * (m.a - r.a) + (m.b - r.b) * (m.b - r.b)).toNat

/-- The squared differences of a reading, patch by patch in the order of the set (R142). -/
def labDiffs (m r : List Lab) : List Nat := List.zipWith labDiff m r

/-- The worst squared difference. -/
def worstOf (l : List Nat) : Nat := l.foldl max 0

/-- The number of the worst patch, counted from 1: the first with the largest squared difference (R142). -/
def worstPatch (l : List Nat) : Nat := l.findIdx (fun e => e == worstOf l) + 1

/-- The verdict of a worst squared difference against a tolerance (R143). -/
def verdictOf (e2 t : Nat) : Verdict :=
  if e2 ≤ t * t then .pass else if e2 ≤ (2 * t) * (2 * t) then .drift else .fail

/-! ### Gain update (R144, R145, R146) -/

/-- The new gain of a channel from its snapshot, target density and measured density, clamped in the three steps of
R145. -/
def newGain (g dr dm : Nat) (band : Option (Nat × Nat)) : Nat :=
  let raw := (2 * g * dr + dm) / (2 * dm)
  let ranged := clamp 768 1280 (clamp (g - 32) (g + 32) raw)
  match band with
  | some (r, b) => clamp 768 1280 (clamp (r - b) (r + b) ranged)
  | none => ranged

/-- The channel is left unchanged: an invalid patch or a difference within the deadband (R144). -/
def gainHeld (dr dm : Nat) : Bool := dm == 0 || (decide (dm ≤ dr + 5) && decide (dr ≤ dm + 5))

/-- The gain of a channel after the update: its current gain where the channel is left unchanged (R144, R145). -/
def updatedGain (st : Standard) (snapshot measured : Vec12) (current : Nat) (c : Chan) : Nat :=
  if gainHeld (st.densities.get c) (measured.get c) then current
  else newGain (snapshot.get c) (st.densities.get c) (measured.get c) (st.band.map fun p => (p.1.get c, p.2))

/-- Update the gains of all channels in ascending order (R144). -/
def State.updateGains (s : State) (st : Standard) (snapshot measured : Vec12) : State :=
  Chan.list.foldl
    (fun s c => s.modChan c fun ch => { ch with cfg := { ch.cfg with gain := updatedGain st snapshot measured ch.cfg.gain c } })
    s

/-- The channels whose gain differs between two states (R146). -/
def gainsChanged (s t : State) : List Chan := Chan.list.filter fun c => (s.chan c).cfg.gain != (t.chan c).cfg.gain

/-! ### Verdicts (R147 to R150) -/

/-- The counter and the forced-check flag after a verdict (R148). -/
def State.checkFlags (s : State) (v : Verdict) : State :=
  { s with check := { s.check with counter := 0, forced := v != .pass } }

/-- The effects of a verdict on the job and its edition (R149). `own` says that the edition holds a reference. The
second part says, for a CHECK job, whether the edition was unlocked. -/
def State.verdictEffects (s : State) (j : Job) (v : Verdict) (own : Bool) (readings : Reference) : State × Option Bool :=
  match j.spec.kind, j.spec.edition with
  | .edition, some id =>
    if own then
      if v = .fail then
        let s' := s.modJob j.tag fun j => { (j.doom .fail) with flags := { j.flags with voidOnSettle := true } }
        match s'.edition? id with
        | some e => (s'.lockEdition e .fail none, none)
        | none => (s', none)
      else (s, none)
    else (s.keepProvisional id readings j.tag, none)
  | .check, some id =>
    if own then
      if v = .fail then (s, some false)
      else
        let r := s.unlockEdition id (j.generation.getD 0) j.tag
        (r.1, some r.2)
    else (s.keepProvisional id readings j.tag, some false)
  | .check, none => (s, some false)
  | _, _ => (s, none)

/-- A reading that yields a verdict, in the order of R147: one group holds what its steps 1 to 4 changed, and the
settlement follows it. -/
def State.takeVerdict (s : State) (j : Job) (st : Standard) (m : ReadingMsg) : State :=
  let measured := clampVec 0 4000 m.densities
  let labs := m.labs.map clampLab
  let diffs := labDiffs labs st.labs
  let worst := worstOf diffs
  let v := verdictOf worst st.tolerance
  let snapshot := j.gains.getD (Vec12.all 1024)
  let s1 := s.gather.setJob { j with check := some ⟨v, Nat.sqrt worst, measured⟩, strip := .resolved }
  let s2 := (s1.updateGains st snapshot measured).checkFlags v
  let moved := gainsChanged s1 s2
  let r := s2.verdictEffects j v st.band.isSome ⟨snapshot, measured, labs⟩
  let s3 := r.1.raise (.num j.tag) (.checkVerdict v (Nat.sqrt worst) (worstPatch diffs) moved.length r.2)
  let s4 := s3.commit ([.job j.tag] ++ moved.map RecKey.channel ++ s3.changedOf (j.spec.edition.map RecKey.edition).toList)
  s4.handGathered.settleTest j.tag

/-- A matched READING resolved as missed: the record is committed and the settlement test made (R140, R141). -/
def State.missReading (s : State) (tag : Nat) (why : MissedReason) : State :=
  ((s.missCheck tag why).commit [.job tag]).settleTest tag

/-- A READING taken: discarded unless it matches the arm record, which it empties, and then missed or judged (R136,
R139, R140, R147). -/
def State.takeReading (s : State) (m : ReadingMsg) : State :=
  if m.status ≠ 0 ∧ m.status ≠ 1 then s
  else
    match s.check.arm with
    | some a =>
      if a.seq = m.seq then
        let s1 := { s with check := { s.check with arm := none } }
        match s1.job? a.tag with
        | some j =>
          let st := s1.standard j
          if m.status = 1 then s1.missReading a.tag .fault
          else if m.labs.length ≠ st.labs.length then s1.missReading a.tag .count
          else s1.takeVerdict j st m
        | none => s1
      else s
    | none => s

end Sys2Proof.Machine
end

