-- ==== Sys2Proof/Machine/Cuts.lean ====
section
/-! DEFINITION. The Media Unit: planning cuts (R114, R115), the cutter (R116 to R123), the feed (R111, R112, R124) and
the end of a roll (R125, R126). -/

namespace Sys2Proof.Machine

/-! ### Stop point and cut start -/

/-- Change the Media Unit's state. -/
def State.setMedia (s : State) (f : Media → Media) : State := { s with media := f s.media }

/-- Send STOP_AT with the head entry's target, or NONE for an empty queue (R114). -/
def State.sendStop (s : State) : State := s.send (.stopAt (s.media.queue.head?.map CutEntry.target))

/-- Send CUT for the head entry, enter CUTTING and start the cut timer (R117, R121). -/
def State.fireCut (s : State) (e : CutEntry) : State :=
  (s.setMedia fun m => { m with cutter := .cutting, timer := some m.geometry.cutTimeout }).send (.cut e.kind e.target)

/-- The cut start test: the cutter IDLE, a roll ACTIVE, and F at or beyond the head entry's target (R117). -/
def State.startCut (s : State) : State :=
  match s.media.cutter, s.activeRoll, s.media.queue.head? with
  | .idle, some r, some e => if e.target ≤ r.fed then s.fireCut e else s
  | _, _, _ => s

/-! ### Planning (R115) -/

/-- A cut planned at a media point: its target is the point plus the cutter offset in force (R114). -/
def planEntry (g : Geometry) (kind : CutKind) (point : Nat) (owner stripStart : Option Nat) : CutEntry :=
  { kind := kind, point := point, target := fit32 (point + g.cutterOffset), owner := owner, stripStart := stripStart,
    armed := false }

/-- Append planned cuts at the tail of the queue and move the ACTIVE roll's last planned boundary to the last of them;
an entry that becomes the head gets its STOP_AT and its cut start test (R114, R115, R117). -/
def State.planCuts (s : State) (es : List CutEntry) : State :=
  match es.getLast?, s.activeRoll with
  | some last, some r =>
    let s1 := (s.setMedia fun m => { m with queue := m.queue ++ es }).setRoll { r with boundary := last.point }
    if s.media.queue.isEmpty then s1.sendStop.startCut else s1
  | _, _ => s

/-- Plan a job's cuts: a job whose first cut is planned moves from NONE to PENDING (R115). -/
def State.planJobCuts (s : State) (tag : Nat) (es : List CutEntry) : State :=
  (s.modJob tag fun j => { j with cut := .pending }).planCuts es

/-- The cuts of a job at its last image swath: SEPARATE, and STRIP_END when a strip follows (R115). -/
def imageCuts (g : Geometry) (j : Job) (strip : Bool) : List CutEntry :=
  let sep := fit32 (j.pLead.getD 0 + j.spec.lead + j.spec.image + j.spec.tail)
  planEntry g .separate sep (some j.tag) none ::
    if strip then
      [planEntry g .stripEnd (fit32 (sep + g.stripGap + g.stripLength)) (some j.tag) (some (fit32 (sep + g.stripGap)))]
    else []

/-- The STRIP_END cut of a CHECK job, planned at its BEGIN JOB (R115). -/
def checkCut (g : Geometry) (tag pLead : Nat) : CutEntry :=
  planEntry g .stripEnd (fit32 (pLead + g.stripGap + g.stripLength)) (some tag) (some (fit32 (pLead + g.stripGap)))

/-- The media point of the SEPARATE cut of a job aborted with image swaths remaining (R18, R115). -/
def abortPoint (feed boundary pLead tail : Nat) : Nat :=
  let p := max feed pLead + tail
  fit32 (if p ≤ boundary then boundary + 1 else p)

/-! ### Completing a cut (R118, R119, R122) -/

/-- A later STRIP_END cut of the job is still in the queue, so the job's SEPARATE cut is not its last planned cut
(R20). -/
def Media.stripAhead (m : Media) (tag : Nat) : Bool :=
  m.queue.any fun e => e.kind == .stripEnd && e.owner == some tag

/-- Attribute the piece behind the head entry's cut, whose length is `piece` (R119); `skipped` is CLEAR JAM SKIP
(R122). -/
def State.attribute (s : State) (e : CutEntry) (r : Roll) (piece : Nat) (skipped : Bool) : State :=
  let ended : CutState := if skipped then .uncut else .done
  match e.kind, e.owner with
  | .leadTrim, _ =>
    let cost := if r.unpriced then 0 else piece * r.width * r.price
    s.setOverhead { s.overhead with trims := satAdd Config.max64 s.overhead.trims cost }
  | .separate, some tag =>
    s.modJob tag fun j =>
      { j with
        printPiece := piece
        separated := true
        cut := if s.media.stripAhead tag then j.cut else ended
        flags := { j.flags with uncut := j.flags.uncut || skipped } }
  | .stripEnd, some tag =>
    (s.modJob tag fun j =>
      { j with stripPiece := piece, cut := ended, flags := { j.flags with uncut := j.flags.uncut || skipped } }).missUnread
      tag (if skipped then .skipped else .cut)
  | _, none => s

/-- A PRINTING job whose strip-end cut has ended moves to FINISHING (R15); a FINISHING job is tested for settlement
(R21). -/
def State.afterCut (s : State) (e : CutEntry) : State :=
  match e.owner with
  | some tag =>
    match s.job? tag with
    | some j => if e.kind = .stripEnd ∧ j.state = .printing then s.finishAndTest tag else s.settleTest tag
    | none => s
  | none => s

/-- The length of the piece behind a cut, from the last cut point before it to its media point. Where the media point
lies below that cut point the manual states no length: a free value (DESIGN CHOICE, log 43). -/
def pieceLength (point lastCut : Nat) : Nat :=
  if lastCut ≤ point then point - lastCut else Config.backPiece point lastCut % 4294967296

/-- The records that the cut of an entry commits: the roll and the owner job (R118), and with a LEAD_TRIM cut the Overhead
Account (R187). -/
def cutKeys (r : Roll) (e : CutEntry) : List RecKey :=
  [.roll r.id] ++ (e.owner.map RecKey.job).toList ++ if e.kind = .leadTrim then [.counters] else []

/-- Complete or skip the cut of the head entry (R118, R122): its records are committed, and the group of a settlement
follows theirs. -/
def State.endCut (s : State) (skipped : Bool) : State :=
  match s.media.queue, s.activeRoll with
  | e :: rest, some r =>
    let s1 := s.setMedia fun m => { m with queue := rest, timer := none }
    let s2 := s1.setRoll { r with lastCut := e.point, lastTarget := e.target }
    let s3 := s2.attribute e r (pieceLength e.point r.lastCut) skipped
    let s4 := (s3.setMedia fun m => { m with cutter := .idle }).sendStop.startCut
    (s4.commit (cutKeys r e)).afterCut e
  | _, _ => s

/-- Jam the cutter: the timer is stopped, the entry stays at the head and CUT_JAM is raised (R120). -/
def State.jam (s : State) (why : JamCause) : State :=
  match s.media.queue.head?, s.activeRoll with
  | some e, some r =>
    (s.setMedia fun m => { m with cutter := .jammed, timer := none }).raise (.num r.id)
      (.cutJam e.kind e.owner e.target why)
  | _, _ => s

/-! ### Feed (R111, R112, R124) -/

/-- The fed length after a delta: saturating forward, and no further back than the last completed cut target (R111). -/
def Roll.fedAfter (r : Roll) (delta : Int) : Nat :=
  if 0 ≤ delta then min Config.max32 (r.fed + delta.toNat)
  else if (r.fed : Int) + delta < r.lastTarget then r.lastTarget
  else ((r.fed : Int) + delta).toNat

/-- The printing job's roll reservation follows F (R112): planned end less F, or 0. A forward feed above the planned end
sets OVERRUN_MEDIA. Both wait for the job's next commit (DEDUCED, log 40). -/
def State.followFeed (s : State) (feed : Nat) (forward : Bool) : State :=
  match s.printing? with
  | some j =>
    let last := j.plannedEnd.getD 0
    let flags := { j.flags with overrunMedia := j.flags.overrunMedia || (forward && decide (last < feed)) }
    (s.moveRoll j.spec.roll j.rollRes (last - feed)).setJob { j with rollRes := last - feed, flags := flags }
  | none => s

/-- The queue entry brings its strip to the sensor at this F (R124). -/
def CutEntry.reaches (e : CutEntry) (g : Geometry) (feed : Nat) : Bool :=
  e.kind == .stripEnd && !e.armed && decide (e.stripStart.getD 0 + g.sensorOffset ≤ feed)

/-- The strip arm test: mark every entry whose strip has reached the sensor and hand the arrivals in queue order
(R124). -/
def State.stripTest (s : State) (feed : Nat) : State :=
  let reached := s.media.queue.filter fun e => e.reaches s.media.geometry feed
  let s1 := s.setMedia fun m =>
    { m with queue := m.queue.map fun e => if e.reaches m.geometry feed then { e with armed := true } else e }
  (reached.filterMap CutEntry.owner).foldl State.arrive s1

/-- A change of F (R111, R112): the fed length, whose first change after a commit writes the roll's dirty mark (R195),
and the printing job's reservation. -/
def State.moveFeed (s : State) (r : Roll) (fed : Nat) (forward : Bool) : State :=
  if fed = r.fed then s else ((s.markDirty (.roll r.id)).setRoll { r with fed := fed }).followFeed fed forward

/-- A FEED taken with a roll ACTIVE (R111): the change of F; the roll law, which a back-feed too can break where it
raises a trimmed reservation again (R103, R112); the cut start test and the strip arm test. -/
def State.applyFeed (s : State) (r : Roll) (delta : Int) : State :=
  let fed := r.fedAfter delta
  ((s.moveFeed r fed (decide (0 < delta))).enforceRoll r.id).startCut.stripTest fed

/-! ### The end of the ACTIVE roll (R125, R126) -/

/-- Flag an owner of a discarded entry: UNCUT, and cut state UNCUT (R125). -/
def Job.uncutNow (j : Job) : Job := { j with cut := .uncut, flags := { j.flags with uncut := true } }

/-- The printing job at roll end: UNCUT with void cause MEDIA_END, released and FINISHING (R16, R125). -/
def State.endPrinting (s : State) : State :=
  match s.printing? with
  | some j => (s.setJob (j.uncutNow.doom .mediaEnd)).finish j.tag
  | none => s

/-- The ACTIVE roll runs out (`absent` false, R125) or is taken out (`absent` true, R126). In step 4 the owner jobs are
taken in the order of their entries, the printing job last, and each missed check is followed at once by the settlement
of its job (DESIGN CHOICE, log 42). -/
def State.endActiveRoll (s : State) (r : Roll) (absent : Bool) : State :=
  let owners := (s.media.queue.filterMap CutEntry.owner).dedup
  let discarded := s.media.queue.length
  let jobs := (owners ++ (s.printing?.map Job.tag).toList).dedup
  let gone : Roll := if absent then { r with state := .shelved, slot := none } else { r with length := r.fed, state := .ended }
  let s1 := (s.setRoll gone).setMedia fun m => { m with cutter := .idle, timer := none, queue := [] }
  let s2 := (owners.foldl (fun s t => s.modJob t Job.uncutNow) s1).send (.stopAt none)
  let s3 := s2.endPrinting
  let s4 := jobs.foldl (fun s t => (s.missUnread t .discarded).settleTest t) s3
  let s5 := if absent then s4.withdrawRoll r.id else s4.enforceRoll r.id
  (s5.raise (.num r.id) (.rollEnd r.fed discarded absent)).commitRest
    ([.roll r.id] ++ s5.changedOf (jobs.map RecKey.job))

end Sys2Proof.Machine
end

