-- ==== Sys2Proof/Machine/Jobs.lean ====
section
/-! DEFINITION. The job requests (spec/01_print_jobs.md): SUBMIT JOB, ADMIT JOB, BEGIN JOB, CANCEL JOB, READ JOB, RETIRE
JOB. -/

namespace Sys2Proof.Machine

/-! ### SUBMIT JOB and ADMIT JOB (R5 to R9) -/

/-- The parameters of SUBMIT JOB are refused BAD_PARAM (R5, second condition); `none` is a kind that is no kind. -/
def submitBad (r : SubmitReq) : Option JobKind → Bool
  | none => true
  | some k =>
    (k == .edition && !r.editionSupplied) || (k == .proof && r.editionSupplied) ||
      (k == .check && (r.lead != 0 || r.image != 0 || r.tail != 0 || r.swaths != 0)) ||
      (k != .check &&
        (r.image == 0 || decide (r.lead + r.image + r.tail < 10000) ||
          decide (Config.max32 < r.lead + r.image + r.tail) || r.swaths == 0 || decide (4095 < r.swaths))) ||
      Chan.list.any fun c => decide (1000000000 < r.estimates.get c)

/-- The fields SUBMIT JOB writes (section 1.2). -/
def submitSpec (r : SubmitReq) (k : JobKind) : JobSpec :=
  { kind := k, edition := if r.editionSupplied then some r.edition else none, roll := r.roll, lead := r.lead,
    image := r.image, tail := r.tail, swaths := r.swaths, estimates := r.estimates }

/-- The roll and edition conditions of R5, from UNKNOWN_ROLL to EDITION_FULL, in table order. -/
def State.claimRefused (s : State) (sp : JobSpec) : Option Status :=
  match s.roll? sp.roll with
  | none => some .unknownRoll
  | some r =>
    if r.state = .shelved ∨ r.state = .ended then some .notLoaded
    else
      match sp.edition with
      | none => none
      | some id =>
        match s.edition? id with
        | none => some .unknownEdition
        | some e =>
          if e.state = .closed then some .editionClosed
          else if e.state = .proving ∧ s.liveJobs id ≠ 0 then some .provingBusy
          else if s.freeSlots e = 0 then some .editionFull
          else none

/-- The refusal of SUBMIT JOB, the first condition of R5 that holds. -/
def State.submitRefused (s : State) (r : SubmitReq) : Option Status :=
  if r.tag = 0 ∨ r.roll = 0 ∨ (r.editionSupplied = true ∧ r.edition = 0) then some .badKey
  else if submitBad r (jobKindOf r.kind) then some .badParam
  else if (s.job? r.tag).isSome then some .tagExists
  else if Config.jobCapacity ≤ s.jobs.length then some .tableFull
  else
    match jobKindOf r.kind with
    | some k => s.claimRefused (submitSpec r k)
    | none => some .badParam

/-- A new job record, DEFERRED and without holdings (R7). -/
def newJob (tag : Nat) (sp : JobSpec) : Job :=
  { tag := tag, spec := sp, state := .deferred, swathsLeft := sp.swaths, stripLeft := 0, toggle := false,
    lastKind := none, lastStrip := none, ink := Vec12.all 0, rollRes := 0, seqNo := none, gains := none, handling := none,
    pLead := none, plannedEnd := none, generation := none, strip := .none, check := none, draws := [], printPiece := 0,
    stripPiece := 0, separated := false, cut := .none, cost := none, number := none, cause := none, flags := {} }

/-- The next admission sequence number; the counter stays at 4,294,967,295 (R8). -/
def State.nextSeq (s : State) : Nat := min Config.max32 (s.seqCounter + 1)

/-- Admit a job whose admission test passed: holdings, sequence number, reserved totals (R6, R8). -/
def State.takeIn (s : State) (j : Job) (ink : Vec12) (roll : Nat) : State :=
  let n := s.nextSeq
  let s1 := ((s.moveInk (Vec12.all 0) ink).moveRoll j.spec.roll 0 roll).setCounters n s.day s.overhead
  s1.setJob { j with state := .admitted, ink := ink, rollRes := roll, seqNo := some n }

/-- Apply the admission test to a job and answer as R7 does; `failed` is the state left when the test fails. -/
def State.tryAdmit (s : State) (j : Job) (failed : State) : Reply :=
  match s.roll? j.spec.roll with
  | none => s.refuse .unknownRoll
  | some r =>
    match s.admission j.spec r with
    | .pass ink len => ⟨(s.takeIn j ink len).commit [.job j.tag, .counters], .ok, .admitted s.nextSeq ink len⟩
    | .inkShort c n => ⟨failed, .inkShort, .inkShort c n⟩
    | .mediaShort n => ⟨failed, .mediaShort, .mediaShort n⟩

/-- SUBMIT JOB (R5, R7). -/
def submitJob (r : SubmitReq) (s : State) : Reply :=
  match s.submitRefused r, jobKindOf r.kind with
  | some st, _ => s.refuse st
  | none, some k =>
    let j := newJob r.tag (submitSpec r k)
    s.tryAdmit j ((s.setJob j).commit [.job r.tag])
  | none, none => s.refuse .badParam

/-- Command SUBMIT_JOB. -/
def execSubmitJob (seq : Nat) (r : SubmitReq) (s : State) : Host.Outcome State Fault Refusal :=
  .next (s.request 0x10 seq (submitJob r))

/-- ADMIT JOB (R9). -/
def admitJob (tag : Nat) (s : State) : Reply :=
  match s.job? tag with
  | none => s.refuse .unknownTag
  | some j =>
    if j.state ≠ .deferred then s.refuse .wrongState
    else
      match s.claimRefused j.spec with
      | some st => s.refuse st
      | none => s.tryAdmit j s

/-- Command ADMIT_JOB. -/
def execAdmitJob (seq tag : Nat) (s : State) : Host.Outcome State Fault Refusal := .next (s.request 0x11 seq (admitJob tag))

/-! ### BEGIN JOB (R12, R13) -/

/-- The first channel and segment of an edition's mask with an unmasked fault on a segment not substituted (R92). -/
def State.blockedSegment (s : State) (e : Edition) : Option (Chan × Fin 4) :=
  (Chan.list.filter fun c => e.covers c).findSome? fun c =>
    ((List.finRange 4).find? fun i => ((s.chan c).segments.get i).blocks).map fun i => (c, i)

/-- The edition conditions of R12 for an EDITION job: LOCKED, ROW_FAULT, EXPIRED, in table order. -/
def State.editionHolds (s : State) (e : Edition) : Option (Status × Body) :=
  if e.state = .locked then some (.locked, .empty)
  else
    match s.blockedSegment e with
    | some (c, i) => some (.rowFault, .rowFault c i ((s.chan c).segments.get i).fault)
    | none => if Chan.list.any fun c => e.covers c && (s.chan c).expired then some (.expired, .empty) else none

/-- The first channel where a recomputed reservation rises by more than the usable free volume, with the shortfall (R12,
R67). -/
def State.beginShort (s : State) (j : Job) : Option (Chan × Nat) :=
  let need := s.inkNeeds j.spec
  (Chan.list.find? fun c => decide (s.usableFree c < need.get c - j.ink.get c)).map fun c =>
    (c, need.get c - j.ink.get c - s.usableFree c)

/-- The job's roll is the ACTIVE one (R12). -/
def State.rollActive (s : State) (id : Nat) : Bool := ((s.activeRoll).map fun r => r.id == id).getD false

/-- The refusal of BEGIN JOB for an ADMITTED job, the first condition of R12 that fails. -/
def State.beginRefused (s : State) (j : Job) : Option (Status × Body) :=
  if s.printing?.isSome then some (.busy, .empty)
  else if !s.rollActive j.spec.roll || s.media.cutter == .jammed then some (.mediaNotReady, .empty)
  else if Config.cutCapacity < s.media.queue.length + 2 then some (.cutBacklog, .empty)
  else
    let held :=
      match j.spec.kind with
      | .edition => (j.spec.edition.bind s.edition?).bind s.editionHolds
      | _ => none
    match held with
    | some x => some x
    | none => (s.beginShort j).map fun p => (.inkShort, .inkShort p.1 p.2)

/-- The job record at its BEGIN JOB (R13): holdings brought up to date, snapshots, P_lead and planned end. -/
def State.begun (s : State) (j : Job) (r : Roll) : Job :=
  let g := s.media.geometry
  let pLead := max r.fed r.boundary
  let last := fit32 (pLead + rollNeed g j.spec)
  let price := s.capture .handling j.spec.kind.handlingCode
  let isCheck := j.spec.kind == .check
  { j with
    state := .printing
    ink := s.inkNeeds j.spec
    rollRes := last - r.fed
    gains := some (Vector.ofFn fun c => (s.chan c).cfg.gain)
    handling := some price.1
    flags := { j.flags with unpriced := j.flags.unpriced || price.2 }
    pLead := some pLead
    plannedEnd := some last
    swathsLeft := j.spec.swaths
    toggle := false
    lastKind := none
    strip := if isCheck then .planned else j.strip
    stripLeft := if isCheck then s.check.plan.stripSwaths else j.stripLeft
    generation := if isCheck then (j.spec.edition.bind s.edition?).map Edition.generation else j.generation }

/-- The actions of a BEGIN JOB that passes R12 (R13). The roll law is tested once the job is PRINTING, so that it is
trimmed and not withdrawn (DEDUCED, log 16). -/
def State.begin (s : State) (j : Job) (r : Roll) : State :=
  let j' := s.begun j r
  let s1 := ((s.moveInk j.ink j'.ink).moveRoll j.spec.roll j.rollRes j'.rollRes).setJob j'
  let s2 :=
    if j.spec.kind = .check then s1.planJobCuts j.tag [checkCut s.media.geometry j.tag (max r.fed r.boundary)] else s1
  (s2.enforceRoll r.id).commitRest [.job j.tag]

/-- BEGIN JOB (R12, R13). -/
def beginJob (tag : Nat) (s : State) : Reply :=
  match s.job? tag with
  | none => s.refuse .unknownTag
  | some j =>
    if j.state ≠ .admitted then s.refuse .wrongState
    else
      match s.beginRefused j, s.activeRoll with
      | some (st, b), _ => ⟨s, st, b⟩
      | none, some r => ⟨s.begin j r, .ok, .gains (Vector.ofFn fun c => (s.chan c).cfg.gain)⟩
      | none, none => s.refuse .mediaNotReady

/-- Command BEGIN_JOB. -/
def execBeginJob (seq tag : Nat) (s : State) : Host.Outcome State Fault Refusal := .next (s.request 0x12 seq (beginJob tag))

/-! ### CANCEL JOB (R17 to R19) -/

/-- The void cause a reason selects (section 1.9, section 11.7). -/
def cancelCause (reason : Nat) : VoidCause := if reason = 0 then .cancelled else .aborted

/-- CANCEL JOB of an ADMITTED or DEFERRED job: holdings released, record removed (R17). -/
def State.cancelWaiting (s : State) (j : Job) : State := ((s.release j).removeJob j.tag).commit [.job j.tag]

/-- CANCEL JOB of a PRINTING job: aborted, its SEPARATE cut planned where image swaths remain and its strip resolved
unchecked otherwise, and moved to FINISHING (R18). -/
def State.abort (s : State) (j : Job) (cause : VoidCause) : State :=
  let j' := { (j.doom cause) with flags := { j.flags with abortPending := true } }
  let s1 :=
    if j.spec.kind ≠ .check ∧ 0 < j.swathsLeft then
      let point := abortPoint s.feedPos ((s.activeRoll.map Roll.boundary).getD 0) (j.pLead.getD 0) j.spec.tail
      (s.setJob j').planJobCuts j.tag [planEntry s.media.geometry .separate point (some j.tag) none]
    else s.setJob { j' with strip := .resolved, flags := { j'.flags with unchecked := true } }
  s1.finishAndTest j.tag

/-- CANCEL JOB of a FINISHING job (R19). -/
def State.voidLater (s : State) (j : Job) (cause : VoidCause) : State :=
  if j.flags.abortPending ∨ j.flags.voidOnSettle then s
  else (s.setJob { (j.doom cause) with flags := { j.flags with voidOnSettle := true } }).commit [.job j.tag]

/-- CANCEL JOB (R17 to R19). -/
def cancelJob (tag reason : Nat) (s : State) : Reply :=
  match s.job? tag with
  | none => s.refuse .unknownTag
  | some j =>
    match j.state with
    | .admitted | .deferred => ⟨s.cancelWaiting j, .ok, .empty⟩
    | .printing => ⟨s.abort j (cancelCause reason), .ok, .empty⟩
    | .finishing => ⟨s.voidLater j (cancelCause reason), .ok, .empty⟩
    | .settled | .voided => s.refuse .wrongState

/-- Command CANCEL_JOB. -/
def execCancelJob (seq tag reason : Nat) (s : State) : Host.Outcome State Fault Refusal :=
  .next (s.request 0x13 seq (cancelJob tag reason))

/-! ### READ JOB and RETIRE JOB (R24, R26) -/

/-- READ JOB (R24). -/
def readJob (tag : Nat) (s : State) : Reply :=
  if tag = 0 then ⟨s, .ok, .jobList (s.jobs.map fun j => (j.tag, j.spec.kind, j.state))⟩
  else
    match s.job? tag with
    | some j => ⟨s, .ok, .job j⟩
    | none => s.refuse .unknownTag

/-- Command READ_JOB. -/
def execReadJob (seq tag : Nat) (s : State) : Host.Outcome State Fault Refusal := .next (s.request 0x14 seq (readJob tag))

/-- RETIRE JOB (R26). -/
def retireJob (tag : Nat) (s : State) : Reply :=
  match s.job? tag with
  | none => s.refuse .unknownTag
  | some j =>
    if j.state = .settled ∨ j.state = .voided then ⟨(s.removeJob tag).commit [.job tag], .ok, .empty⟩
    else s.refuse .wrongState

/-- Command RETIRE_JOB. -/
def execRetireJob (seq tag : Nat) (s : State) : Host.Outcome State Fault Refusal :=
  .next (s.request 0x15 seq (retireJob tag))

end Sys2Proof.Machine
end

