-- ==== Sys2Proof/Machine/Lots.lean ====
section
/-! DEFINITION. The channel and lot requests (spec/02_ink_channels_and_lots.md): SET CHANNEL, READ CHANNEL, INSTALL LOT,
REMOVE LOT, AMEND LOT, RETIRE LOT, READ LOT, SET DAY. -/

namespace Sys2Proof.Machine

/-- A channel record with what READ CHANNEL returns beside it (R45). -/
def State.channelView (s : State) (c : Chan) : ChannelView :=
  { channel := s.chan c, remaining := s.remainingTotal c, usable := s.usableFree c, lotA := s.lotIn c .A,
    lotB := s.lotIn c .B }

/-- The channel record with the remaining total, usable free volume and state, as SET CHANNEL returns it (R31). -/
def State.channelSet (s : State) (c : Chan) : Body :=
  let ch := s.chan c
  .channelSet ch.cfg ch.slots ch.residue ch.reserved ch.expired (s.remainingTotal c) (s.usableFree c) ch.state

/-- The remaining total and state of a channel, as the lot requests return them (R29). -/
def State.channelFigures (s : State) (c : Chan) : Nat × ChannelState := (s.remainingTotal c, (s.chan c).state)

/-! ### SET CHANNEL and READ CHANNEL (R31, R45) -/

/-- A slot of the channel holds a lot. -/
def SlotRecord.holds (r : SlotRecord) : Bool := r.slotA.isSome || r.slotB.isSome

/-- SET CHANNEL (R31), refused by the first condition of its table that holds; R31 gives its table no order (DESIGN CHOICE,
log 56). -/
def setChannel (r : ChannelReq) (s : State) : Reply :=
  match chanOf r.channel with
  | none => s.refuse .badParam
  | some c =>
    if s.printing?.isSome then s.refuse .busy
    else if r.product ≠ (s.chan c).cfg.product ∧ (s.chan c).slots.holds then s.refuse .slotOccupied
    else
      let s' := ((s.modChan c fun ch => { ch with cfg := clampChannel r }).evalChannel c).commit [.channel c]
      ⟨s', if clampChannel r = givenChannel r then .ok else .okClamped, s'.channelSet c⟩

/-- Command SET_CHANNEL. -/
def execSetChannel (seq : Nat) (r : ChannelReq) (s : State) : Host.Outcome State Fault Refusal :=
  .next (s.request 0x20 seq (setChannel r))

/-- READ CHANNEL (R45). -/
def readChannel (channel : Nat) (s : State) : Reply :=
  match chanOf channel with
  | some c => ⟨s, .ok, .channel (s.channelView c)⟩
  | none => s.refuse .badParam

/-- Command READ_CHANNEL. -/
def execReadChannel (seq channel : Nat) (s : State) : Host.Outcome State Fault Refusal :=
  .next (s.request 0x21 seq (readChannel channel))

/-! ### INSTALL LOT (R37) -/

/-- The refusal of INSTALL LOT for a valid channel and slot, the first condition of R37 that holds. -/
def State.installRefused (s : State) (r : InstallReq) (c : Chan) (t : TankSlot) : Option Status :=
  let ch := s.chan c
  if r.product ≠ ch.cfg.product ∨ ch.cfg.product = 0 then some .mismatch
  else if (ch.slots.at t).isSome then some .slotOccupied
  else
    match s.lot? r.code with
    | some l =>
      if l.location.isSome then some .lotInUse
      else if l.state = .exhausted then some .wrongState
      else if l.fill ≠ r.fill ∨ l.product ≠ r.product then some .mismatch
      else none
    | none => if Config.lotCapacity ≤ s.lots.length then some .tableFull else none

/-- The lot record an INSTALL LOT places: a new record, or the resumed SHELVED one (R37). -/
def State.installedLot (s : State) (r : InstallReq) (c : Chan) (t : TankSlot) : Lot :=
  match s.lot? r.code with
  | some l => { l with state := .loaded, location := some t, channel := c }
  | none =>
    let price := s.capture .ink r.product
    { code := r.code, channel := c, product := r.product, fill := r.fill, remaining := r.fill, imageDrawn := 0,
      stripDrawn := 0, maintDrawn := 0, price := price.1, expiry := r.expiry, location := some t, state := .loaded,
      unpriced := price.2, uncertain := false, expired := false }

/-- Place a lot in a slot: the record, its expiry, the channel state, and a lot change when no slot was active (R37,
R33). Each commit of the lot holds the slot fields too (R28). The last commit point is left out where that of the expiry
has committed them (DESIGN CHOICE, log 17). -/
def State.install (s : State) (l : Lot) (c : Chan) (t : TankSlot) : State :=
  let s1 := (s.setLot l).modChan c fun ch => { ch with slots := ch.slots.put t (some l.code) }
  let s2 := (s1.evalExpiry l).evalChannel c
  if (s.chan c).slots.active = none then (s2.setActive c (some t)).lotChange .request c 0 l.code
  else s2.commitRest [.lot l.code, .slots c]

/-- INSTALL LOT (R37). -/
def installLot (r : InstallReq) (s : State) : Reply :=
  if r.code = 0 then s.refuse .badKey
  else
    match chanOf r.channel, tankOf r.slot with
    | some c, some t =>
      if r.fill = 0 ∨ 1000000000 < r.fill ∨ r.product = 0 then s.refuse .badParam
      else
        match s.installRefused r c t with
        | some st => s.refuse st
        | none =>
          let s' := s.install (s.installedLot r c t) c t
          let fig := s'.channelFigures c
          ⟨s', .ok, match s'.lot? r.code with
            | some l => .installed l fig.1 fig.2 ((s.chan c).slots.active == none)
            | none => .empty⟩
    | _, _ => s.refuse .badParam

/-- Command INSTALL_LOT. -/
def execInstallLot (seq : Nat) (r : InstallReq) (s : State) : Host.Outcome State Fault Refusal :=
  .next (s.request 0x22 seq (installLot r))

/-! ### REMOVE LOT (R41) -/

/-- Take the lot out of a slot: the record leaves the slot, the active slot moves, the channel state and the ink law are
evaluated, and the records are committed (R41). -/
def State.takeOut (s : State) (c : Chan) (t : TankSlot) (l : Lot) : State :=
  let s1 := (s.setLot { l with location := none, state := lotStateOf l.remaining none }).modChan c fun ch =>
    { ch with slots := ch.slots.put t none }
  let s2 := if (s.chan c).slots.active = some t then s1.nextActive .request c t l.code else s1
  ((s2.evalChannel c).enforceInk c).commitRest [.lot l.code, .slots c]

/-- REMOVE LOT (R41). -/
def removeLot (channel slot : Nat) (s : State) : Reply :=
  match chanOf channel, tankOf slot with
  | some c, some t =>
    match s.lotIn c t with
    | some l =>
      let s' := s.takeOut c t l
      ⟨s', .ok, match s'.lot? l.code with
        | some l' => .lotAt l' (some (s'.channelFigures c))
        | none => .empty⟩
    | none => ⟨s, .slotEmpty, .empty⟩
  | _, _ => s.refuse .badParam

/-- Command REMOVE_LOT. -/
def execRemoveLot (seq channel slot : Nat) (s : State) : Host.Outcome State Fault Refusal :=
  .next (s.request 0x23 seq (removeLot channel slot))

/-! ### AMEND LOT (R42, R43) -/

/-- The lot record an AMEND LOT writes: the new remaining, the maintenance-drawn total moved by the difference,
UNCERTAIN cleared, the state by R35 (R42, R43). -/
def Lot.amend (l : Lot) (remaining : Nat) : Lot :=
  { l with
    remaining := remaining
    maintDrawn := l.maintDrawn + ((l.remaining : Int) - (remaining : Int))
    uncertain := false
    state := lotStateOf remaining l.location }

/-- The effects of an AMEND LOT on the channel of a lot in slot `t` (R33, R38, R43). The lot's location says which slot it
sits in: where the restore has left that slot empty, its slot record being lost (R205), an amendment above 0 on a channel
without active slot makes the slot active with a lot change all the same (DESIGN CHOICE, log 60). -/
def State.amendInSlot (s : State) (c : Chan) (t : TankSlot) (old new : Lot) : State :=
  let s1 :=
    if (s.chan c).slots.active = some t then
      if new.remaining = 0 then s.exhaustActive .request c t new.code else s
    else if (s.chan c).slots.active = none ∧ 0 < new.remaining then (s.setActive c (some t)).lotChange .request c 0 new.code
    else s
  let s2 := s1.evalChannel c
  if new.remaining < old.remaining then s2.enforceInk c else s2

/-- AMEND LOT (R42, R43). -/
def amendLot (code remaining : Nat) (s : State) : Reply :=
  if code = 0 then s.refuse .badKey
  else
    match s.lot? code with
    | none => s.refuse .unknownLot
    | some l =>
      let l' := l.amend (min remaining l.fill)
      let s1 := s.setLot l'
      let s2 :=
        match l.location with
        | some t => s1.amendInSlot l.channel t l l'
        | none => s1
      let s3 := s2.commitRest ([.lot code] ++ s2.changedOf [.slots l.channel])
      ⟨s3, if l.fill < remaining then .okClamped else .ok,
        .lotAt l' (l.location.map fun _ => s3.channelFigures l.channel)⟩

/-- Command AMEND_LOT. -/
def execAmendLot (seq code remaining : Nat) (s : State) : Host.Outcome State Fault Refusal :=
  .next (s.request 0x24 seq (amendLot code remaining))

/-! ### RETIRE LOT and READ LOT (R44, R45) -/

/-- A PRINTING or FINISHING job has a draw list entry naming the lot (R44). -/
def State.lotDrawn (s : State) (code : Nat) : Bool :=
  s.jobs.any fun j => (j.state == .printing || j.state == .finishing) && j.draws.any fun d => d.lot == code

/-- RETIRE LOT (R44). -/
def retireLot (code : Nat) (s : State) : Reply :=
  if code = 0 then s.refuse .badKey
  else
    match s.lot? code with
    | none => s.refuse .unknownLot
    | some l =>
      if l.location.isSome then s.refuse .lotInUse
      else if s.lotDrawn code then s.refuse .lotReferenced
      else ⟨(s.removeLot code).commit [.lot code], .ok, .empty⟩

/-- Command RETIRE_LOT. -/
def execRetireLot (seq code : Nat) (s : State) : Host.Outcome State Fault Refusal :=
  .next (s.request 0x25 seq (retireLot code))

/-- READ LOT (R45). -/
def readLot (code : Nat) (s : State) : Reply :=
  if code = 0 then ⟨s, .ok, .lotList (s.lots.map fun l => (l.code, l.channel, l.state, l.location))⟩
  else
    match s.lot? code with
    | some l => ⟨s, .ok, .lot l⟩
    | none => s.refuse .unknownLot

/-- Command READ_LOT. -/
def execReadLot (seq code : Nat) (s : State) : Host.Outcome State Fault Refusal := .next (s.request 0x26 seq (readLot code))

/-! ### SET DAY (R46, R47) -/

/-- SET DAY: the day number is written and committed, and every lot's expiry is evaluated (R46); the expired flags of
the channels follow (R47). -/
def setDay (day : Nat) (s : State) : Reply :=
  let s1 := (s.setCounters s.seqCounter day s.overhead).commit [.counters]
  let new := s.lots.filter fun l => l.pastDay day && !l.expired
  let s2 := s.lots.foldl (fun s l => s.evalExpiry l) s1
  ⟨Chan.list.foldl (fun s c => s.evalExpired c) s2, .ok, .lotsFlagged new.length⟩

/-- Command SET_DAY. -/
def execSetDay (seq day : Nat) (s : State) : Host.Outcome State Fault Refusal := .next (s.request 0x27 seq (setDay day))

end Sys2Proof.Machine
end

