-- ==== Sys2Proof/Machine/Rows.lean ====
section
/-! DEFINITION. The segment requests (spec/05_nozzle_rows_and_spare_substitution.md): SET ROW MASK and SUBSTITUTE ROW.
-/

namespace Sys2Proof.Machine

/-- The segment record of a channel (R89). -/
def State.segment (s : State) (c : Chan) (i : Fin 4) : Segment := (s.chan c).segments.get i

/-- Write a segment record (R89). -/
def State.setSegment (s : State) (c : Chan) (i : Fin 4) (g : Segment) : State :=
  s.modChan c fun ch => { ch with segments := ch.segments.set i g }

/-- Raise the ROW_FAULT notice of a segment as it stands (R85, R91). -/
def State.raiseRowFault (s : State) (c : Chan) (i : Fin 4) : State :=
  s.raise (.segment c i) (.rowFault (s.segment c i).fault (s.segment c i).spare)

/-! ### SET ROW MASK (R91) -/

/-- SET ROW MASK: both bits are written; clearing the bit of the fault present raises its notice (R91), which is raised
before the commit point of the channel record (DESIGN CHOICE, log 57). -/
def setRowMask (channel segment : Nat) (missing weeping : Bool) (s : State) : Reply :=
  match chanOf channel, segmentOf segment with
  | some c, some i =>
    let g := s.segment c i
    let g' := { g with maskMissing := missing, maskWeeping := weeping }
    let s1 := s.setSegment c i g'
    let s2 := if g.masked && !g'.masked then s1.raiseRowFault c i else s1
    ⟨s2.commit [.channel c], .ok, .segment g'⟩
  | _, _ => s.refuse .badParam

/-- Command SET_ROW_MASK. -/
def execSetRowMask (seq channel segment : Nat) (missing weeping : Bool) (s : State) : Host.Outcome State Fault Refusal :=
  .next (s.request 0x28 seq (setRowMask channel segment missing weeping))

/-! ### SUBSTITUTE ROW (R93 to R97) -/

/-- The refusal of SUBSTITUTE ROW for a valid segment and kind, the first condition of R93 that holds. -/
def State.substituteRefused (s : State) (c : Chan) (i : Fin 4) (kind : SpareState) : Option Status :=
  if s.printing?.isSome then some .busy
  else if (s.segment c i).spare = .hard ∨ (kind = .soft ∧ (s.segment c i).spare = .soft) then some .noSpare
  else none

/-- A taken SUBSTITUTE ROW: the spare state, the fault cleared, the forced-check flag, the editions treated, and a HARD
substitution committed (R94 to R97). The channel's commit group goes behind those of the editions (DESIGN CHOICE, log
47). -/
def State.substitute (s : State) (c : Chan) (i : Fin 4) (kind : SpareState) : State :=
  let s1 := s.setSegment c i { s.segment c i with fault := .ok, spare := kind }
  let s2 := { s1 with check := { s1.check with forced := true } }
  let s3 := s2.treatChannel .substitution c
  if kind = .hard then s3.commit [.channel c] else s3

/-- The number of editions a substitution on the channel locks (R96, R97). -/
def State.editionsLocked (s : State) (c : Chan) : Nat :=
  (s.editions.filter fun e => e.covers c && (e.state == .opened || e.state == .locked)).length

/-- The number of provisional references a substitution on the channel discards (R96, R97). -/
def State.referencesDiscarded (s : State) (c : Chan) : Nat :=
  (s.editions.filter fun e => e.covers c && e.state == .proving && e.provisional.isSome).length

/-- SUBSTITUTE ROW (R93 to R97). -/
def substituteRow (channel segment kind : Nat) (s : State) : Reply :=
  match chanOf channel, segmentOf segment, spareOf kind with
  | some c, some i, some k =>
    match s.substituteRefused c i k with
    | some st => s.refuse st
    | none =>
      let s' := s.substitute c i k
      ⟨s', .ok, .substituted (s'.segment c i) (s.editionsLocked c) (s.referencesDiscarded c)⟩
  | _, _, _ => s.refuse .badParam

/-- Command SUBSTITUTE_ROW. -/
def execSubstituteRow (seq channel segment kind : Nat) (s : State) : Host.Outcome State Fault Refusal :=
  .next (s.request 0x29 seq (substituteRow channel segment kind))

end Sys2Proof.Machine
end

