-- ==== Sys2Proof/Machine/Rolls.lean ====
section
/-! DEFINITION. The roll and cutter requests (spec/06_rolls_feed_and_cutting.md): LOAD ROLL, SELECT ROLL, UNLOAD ROLL,
RETIRE ROLL, READ ROLL, READ MEDIA, SET MEDIA GEOMETRY, CLEAR JAM. -/

namespace Sys2Proof.Machine

/-! ### LOAD ROLL (R105) -/

/-- The refusal of LOAD ROLL into a valid slot, from NO_MEDIA on: the first condition of R105 that holds. -/
def State.loadRefused (s : State) (r : LoadRollReq) (p : RollSlot) : Option Status :=
  if s.media.presence p = .absent then some .noMedia
  else if (s.rollIn p).isSome then some .slotOccupied
  else
    match s.roll? r.id with
    | some x =>
      if x.slot.isSome then some .rollInUse
      else if x.state = .ended then some .wrongState
      else if x.product ≠ r.product ∨ x.width ≠ r.width then some .mismatch
      else none
    | none => if Config.rollCapacity ≤ s.rolls.length then some .tableFull else none

/-- The roll record a LOAD ROLL writes: a new record, or the resumed SHELVED one, with a measured remaining where the
length is not 0 (R105). -/
def State.loadedRoll (s : State) (r : LoadRollReq) (p : RollSlot) : Roll :=
  match s.roll? r.id with
  | some x =>
    let x' := { x with state := .loaded, slot := some p }
    if r.length = 0 then x' else { x' with length := fit32 (x.fed + r.length), uncertain := false }
  | none =>
    let price := s.capture .media r.product
    { id := r.id, product := r.product, width := r.width, length := r.length, fed := 0, reserved := 0, boundary := 0,
      lastCut := 0, lastTarget := 0, price := price.1, unpriced := price.2, state := .loaded, slot := some p,
      uncertain := false }

/-- LOAD ROLL (R105). -/
def loadRoll (r : LoadRollReq) (s : State) : Reply :=
  if r.id = 0 then s.refuse .badKey
  else
    match rollSlotOf r.slot with
    | none => s.refuse .badParam
    | some p =>
      if r.width < 254 ∨ 1626 < r.width ∨ r.product = 0 ∨ ((s.roll? r.id).isNone ∧ r.length = 0) then s.refuse .badParam
      else
        match s.loadRefused r p with
        | some st => s.refuse st
        | none =>
          let x := s.loadedRoll r p
          ⟨(s.setRoll x).commit [.roll x.id], .ok, .roll x⟩

/-- Command LOAD_ROLL. -/
def execLoadRoll (seq : Nat) (r : LoadRollReq) (s : State) : Host.Outcome State Fault Refusal :=
  .next (s.request 0x30 seq (loadRoll r))

/-! ### SELECT ROLL (R106) -/

/-- Make a roll ACTIVE; the one ACTIVE before, if another, becomes LOADED (R106). -/
def State.makeActive (s : State) (r : Roll) : State :=
  let s1 :=
    match s.activeRoll with
    | some a => if a.id = r.id then s else s.setRoll { a with state := .loaded }
    | none => s
  s1.setRoll { r with state := .active }

/-- SELECT ROLL: the roll becomes ACTIVE and a lead trim is planned at F plus the lead trim (R106). -/
def selectRoll (id : Nat) (s : State) : Reply :=
  match s.roll? id with
  | none => s.refuse .unknownRoll
  | some r =>
    if r.state = .shelved ∨ r.state = .ended then s.refuse .wrongState
    else if s.underWay ∨ s.media.queue ≠ [] then s.refuse .busy
    else
      let point := fit32 (r.fed + s.media.geometry.leadTrim)
      let s1 := (s.makeActive r).planCuts [planEntry s.media.geometry .leadTrim point none none]
      ⟨s1.commit ([.roll id] ++ (s.activeRoll.map fun a => RecKey.roll a.id).toList), .ok, .selected r.fed point⟩

/-- Command SELECT_ROLL. -/
def execSelectRoll (seq id : Nat) (s : State) : Host.Outcome State Fault Refusal :=
  .next (s.request 0x31 seq (selectRoll id))

/-! ### UNLOAD ROLL (R107) -/

/-- Take a roll that is not ACTIVE, or an ACTIVE one with nothing under way, out of its slot (R107, R113). The roll's own
group is handed behind those of the withdrawn jobs (DESIGN CHOICE, log 54). -/
def State.takeOutRoll (s : State) (r : Roll) : State :=
  let s1 := s.setRoll { r with slot := none, state := if r.state = .ended then .ended else .shelved }
  let s2 := if r.state = .active then s1.send (.stopAt none) else s1
  (s2.withdrawRoll r.id).commit [.roll r.id]

/-- The number of ADMITTED jobs that hold the roll (R107). -/
def State.rollHolders (s : State) (id : Nat) : Nat :=
  (s.jobs.filter fun j => j.state == .admitted && j.holdsRoll id).length

/-- UNLOAD ROLL (R107). -/
def unloadRoll (id : Nat) (s : State) : Reply :=
  match s.roll? id with
  | none => s.refuse .unknownRoll
  | some r =>
    if r.slot = none then s.refuse .wrongState
    else if r.state = .active ∧
        ((s.jobs.any fun j => (j.state == .printing || j.state == .finishing) && j.spec.roll == id) ∨ s.media.queue ≠ []) then
      s.refuse .busy
    else ⟨s.takeOutRoll r, .ok, .unloaded (s.rollHolders id)⟩

/-- Command UNLOAD_ROLL. -/
def execUnloadRoll (seq id : Nat) (s : State) : Host.Outcome State Fault Refusal :=
  .next (s.request 0x32 seq (unloadRoll id))

/-! ### RETIRE ROLL, READ ROLL, READ MEDIA (R108, R109) -/

/-- RETIRE ROLL (R108). -/
def retireRoll (id : Nat) (s : State) : Reply :=
  if id = 0 then s.refuse .badKey
  else
    match s.roll? id with
    | none => s.refuse .unknownRoll
    | some r =>
      if r.slot.isSome then s.refuse .rollInUse
      else if s.jobs.any fun j => (j.state == .printing || j.state == .finishing) && j.spec.roll == id then
        s.refuse .rollReferenced
      else ⟨(s.removeRoll id).commit [.roll id], .ok, .empty⟩

/-- Command RETIRE_ROLL. -/
def execRetireRoll (seq id : Nat) (s : State) : Host.Outcome State Fault Refusal :=
  .next (s.request 0x33 seq (retireRoll id))

/-- READ ROLL (R109). -/
def readRoll (id : Nat) (s : State) : Reply :=
  if id = 0 then ⟨s, .ok, .rollList (s.rolls.map fun r => (r.id, r.state, r.slot, r.remaining))⟩
  else
    match s.roll? id with
    | some r => ⟨s, .ok, .roll r⟩
    | none => s.refuse .unknownRoll

/-- Command READ_ROLL. -/
def execReadRoll (seq id : Nat) (s : State) : Host.Outcome State Fault Refusal := .next (s.request 0x34 seq (readRoll id))

/-- The elapsed time of a cut in flight: a free value, at most the timeout at which the cut jams (R109, R120, DESIGN
CHOICE, log 5). -/
def State.elapsed (s : State) : Option Nat :=
  s.media.timer.map fun t => min (Config.elapsedMs s.fresh) t

/-- The media state as READ MEDIA returns it (R109). -/
def State.mediaView (s : State) : MediaView :=
  { active := s.activeRoll.map Roll.id, feed := s.feedPos, cutter := s.media.cutter, elapsed := s.elapsed,
    feedHold := s.feedHold, upper := s.media.upper, lower := s.media.lower, queue := s.media.queue,
    geometry := s.media.geometry, runOut := runOut s.media.geometry }

/-- READ MEDIA (R109); a reading of a running cut timer uses up a free value (DESIGN CHOICE, log 5). -/
def readMedia (s : State) : Reply :=
  ⟨if s.media.timer.isSome then s.freshen else s, .ok, .media s.mediaView⟩

/-- Command READ_MEDIA. -/
def execReadMedia (seq : Nat) (s : State) : Host.Outcome State Fault Refusal := .next (s.request 0x35 seq readMedia)

/-! ### SET MEDIA GEOMETRY (R104) -/

/-- SET MEDIA GEOMETRY (R104). -/
def setMediaGeometry (g : Geometry) (s : State) : Reply :=
  if s.underWay ∨ s.media.queue ≠ [] then s.refuse .busy
  else
    let g' := clampGeometry g
    ⟨(s.setGeometry g').commit [.geometry], if g' = g then .ok else .okClamped, .geometry g' (runOut g')⟩

/-- Command SET_MEDIA_GEOMETRY. -/
def execSetMediaGeometry (seq : Nat) (g : Geometry) (s : State) : Host.Outcome State Fault Refusal :=
  .next (s.request 0x36 seq (setMediaGeometry g))

/-! ### CLEAR JAM (R121, R122) -/

/-- CLEAR JAM RETRY: the jammed cut is sent again, or left to start when F reaches its target again (R121). -/
def clearJamRetry (s : State) : Reply :=
  if s.media.cutter ≠ .jammed then s.refuse .wrongState
  else
    match s.media.queue.head? with
    | some e =>
      let s' := if e.target ≤ s.feedPos then s.fireCut e else s.setMedia fun m => { m with cutter := .idle }
      ⟨s', .ok, .cutter s'.media.cutter⟩
    | none => s.refuse .wrongState

/-- Command CLEAR_JAM_RETRY. -/
def execClearJamRetry (seq : Nat) (s : State) : Host.Outcome State Fault Refusal :=
  .next (s.request 0x37 seq clearJamRetry)

/-- CLEAR JAM SKIP: the head entry is removed as if its cut had completed (R122). -/
def clearJamSkip (s : State) : Reply :=
  if s.media.cutter ≠ .jammed then s.refuse .wrongState
  else
    let s' := s.endCut true
    ⟨s', .ok, .cutter s'.media.cutter⟩

/-- Command CLEAR_JAM_SKIP. -/
def execClearJamSkip (seq : Nat) (s : State) : Host.Outcome State Fault Refusal :=
  .next (s.request 0x37 seq clearJamSkip)

end Sys2Proof.Machine
end

