-- ==== Sys2Proof/Machine/Checks.lean ====
section
/-! DEFINITION. The check requests (spec/07_colour_checks.md): SET CHECK PLAN, FORCE CHECK, READ CHECK STATE. -/

namespace Sys2Proof.Machine

/-- SET CHECK PLAN (R130). -/
def setCheckPlan (r : PlanReq) (s : State) : Reply :=
  match cadenceOf r.cadence with
  | none => s.refuse .badParam
  | some m =>
    if r.labs.length = 0 ∨ 8 < r.labs.length then s.refuse .badParam
    else if s.jobs.any Job.stripUnread then s.refuse .busy
    else
      let p := clampPlan m r
      ⟨(s.setPlan p).commit [.plan], if p = givenPlan m r then .ok else .okClamped, .plan p⟩

/-- Command SET_CHECK_PLAN. -/
def execSetCheckPlan (seq : Nat) (r : PlanReq) (s : State) : Host.Outcome State Fault Refusal :=
  .next (s.request 0x40 seq (setCheckPlan r))

/-- FORCE CHECK (R132). -/
def forceCheck (s : State) : Reply :=
  ⟨{ s with check := { s.check with forced := true } }, .ok, .forced true s.check.counter s.check.plan.effective⟩

/-- Command FORCE_CHECK. -/
def execForceCheck (seq : Nat) (s : State) : Host.Outcome State Fault Refusal := .next (s.request 0x41 seq forceCheck)

/-- READ CHECK STATE (R152). -/
def readCheckState (s : State) : Reply :=
  ⟨s, .ok, .checkState s.check.plan s.check.plan.effective s.check.forced s.check.counter s.check.armSeq s.check.arm⟩

/-- Command READ_CHECK_STATE. -/
def execReadCheckState (seq : Nat) (s : State) : Host.Outcome State Fault Refusal :=
  .next (s.request 0x42 seq readCheckState)

end Sys2Proof.Machine
end

