-- ==== Sys2Proof/Machine/Editions.lean ====
section
/-! DEFINITION. The edition requests (spec/08_editions.md): CREATE EDITION, ADOPT REFERENCE, REJECT REFERENCE, CLOSE
EDITION, RETIRE EDITION, READ EDITION. -/

namespace Sys2Proof.Machine

/-- The supplied reference is refused: a Lab count outside 1..8, or a density of 0 (R157). -/
def referenceBad (r : Reference) : Bool :=
  r.labs.length == 0 || decide (8 < r.labs.length) || Chan.list.any fun c => r.densities.get c == 0

/-- The refusal of CREATE EDITION, the first condition of R157 that holds. -/
def State.createRefused (s : State) (r : EditionReq) : Option Status :=
  if r.id = 0 then some .badKey
  else if r.limit = 0 ∨ 999 < r.limit ∨ r.mask = 0 ∨ 4096 ≤ r.mask ∨ (r.reference.map referenceBad).getD false = true then
    some .badParam
  else if (s.edition? r.id).isSome then some .editionExists
  else if s.jobs.any fun j => j.names r.id then some .editionReferenced
  else if Config.editionCapacity ≤ s.editions.length then some .tableFull
  else none

/-- The edition record CREATE EDITION writes: PROVING without a reference, OPEN with one (R157). -/
def newEdition (r : EditionReq) : Edition :=
  { id := r.id, limit := r.limit, issued := 0, voided := 0,
    state := if r.reference.isSome then .opened else .proving,
    mask := BitVec.ofNat 12 r.mask, tolerance := editionTolerance r.tolerance, band := editionBand r.band,
    reference := r.reference.map clampReference, provisional := none, stale := false, causes := {}, generation := 0,
    printTotal := 0, wasteTotal := 0 }

/-- A value of CREATE EDITION was brought into range (R157). -/
def editionClamped (r : EditionReq) : Bool :=
  (r.tolerance != 65535 && editionTolerance r.tolerance != r.tolerance) ||
    (r.band != 65535 && editionBand r.band != r.band) || decide (r.reference.map clampReference ≠ r.reference)

/-- CREATE EDITION (R157). -/
def createEdition (r : EditionReq) (s : State) : Reply :=
  match s.createRefused r with
  | some st => s.refuse st
  | none =>
    ⟨(s.setEdition (newEdition r)).commit [.edition r.id], if editionClamped r then .okClamped else .ok,
      .edition (newEdition r)⟩

/-- Command CREATE_EDITION. -/
def execCreateEdition (seq : Nat) (r : EditionReq) (s : State) : Host.Outcome State Fault Refusal :=
  .next (s.request 0x50 seq (createEdition r))

/-- ADOPT REFERENCE (R161). -/
def adoptReference (id : Nat) (s : State) : Reply :=
  if id = 0 then s.refuse .badKey
  else
    match s.edition? id with
    | none => s.refuse .unknownEdition
    | some e =>
      if e.state ≠ .proving then s.refuse .wrongState
      else if s.liveJobs id ≠ 0 then s.refuse .busy
      else
        match e.provisional with
        | none => s.refuse .noReference
        | some p =>
          ⟨(s.setEdition { e with reference := some p.reference, provisional := none, state := .opened }).commit [.edition id],
            .ok, .reference p.reference⟩

/-- Command ADOPT_REFERENCE. -/
def execAdoptReference (seq id : Nat) (s : State) : Host.Outcome State Fault Refusal :=
  .next (s.request 0x51 seq (adoptReference id))

/-- REJECT REFERENCE (R162). -/
def rejectReference (id : Nat) (s : State) : Reply :=
  if id = 0 then s.refuse .badKey
  else
    match s.edition? id with
    | none => s.refuse .unknownEdition
    | some e =>
      if e.state ≠ .proving then s.refuse .wrongState
      else if e.provisional = none then s.refuse .noReference
      else ⟨(s.setEdition { e with provisional := none }).commit [.edition id], .ok, .empty⟩

/-- Command REJECT_REFERENCE. -/
def execRejectReference (seq id : Nat) (s : State) : Host.Outcome State Fault Refusal :=
  .next (s.request 0x52 seq (rejectReference id))

/-- CLOSE EDITION (R168). -/
def closeEdition (id : Nat) (s : State) : Reply :=
  if id = 0 then s.refuse .badKey
  else
    match s.edition? id with
    | none => s.refuse .unknownEdition
    | some e =>
      if e.state = .closed then s.refuse .wrongState
      else if s.liveJobs id ≠ 0 then s.refuse .busy
      else ⟨(s.setEdition { e with state := .closed }).commit [.edition id], .ok, .edition { e with state := .closed }⟩

/-- Command CLOSE_EDITION. -/
def execCloseEdition (seq id : Nat) (s : State) : Host.Outcome State Fault Refusal :=
  .next (s.request 0x53 seq (closeEdition id))

/-- RETIRE EDITION (R169). -/
def retireEdition (id : Nat) (s : State) : Reply :=
  if id = 0 then s.refuse .badKey
  else
    match s.edition? id with
    | none => s.refuse .unknownEdition
    | some e =>
      if e.state ≠ .closed then s.refuse .wrongState
      else if s.jobs.any fun j => j.names id then s.refuse .editionReferenced
      else ⟨(s.removeEdition id).commit [.edition id], .ok, .empty⟩

/-- Command RETIRE_EDITION. -/
def execRetireEdition (seq id : Nat) (s : State) : Host.Outcome State Fault Refusal :=
  .next (s.request 0x54 seq (retireEdition id))

/-- READ EDITION (R170). -/
def readEdition (id : Nat) (s : State) : Reply :=
  if id = 0 then ⟨s, .ok, .editionList (s.editions.map fun e => (e.id, e.state, e.limit, e.issued))⟩
  else
    match s.edition? id with
    | some e => ⟨s, .ok, .editionView e (s.freeSlots e) (s.liveJobs id)⟩
    | none => s.refuse .unknownEdition

/-- Command READ_EDITION. -/
def execReadEdition (seq id : Nat) (s : State) : Host.Outcome State Fault Refusal :=
  .next (s.request 0x55 seq (readEdition id))

end Sys2Proof.Machine
end

