-- ==== Sys2Proof/Machine/Layout.lean ====
section
/-! DEFINITION. Bytes and checks: field bytes, the CRC-16 of frames (R222), the CRC-32 of the Price Table (R177), and
the layouts of section 11.7 that the manual gives: codes, the response header, the job record and the messages the part
sends. -/

namespace Sys2Proof.Machine

/-! ### Fields, least significant byte first (R222) -/

/-- The `k` bytes of a field, least significant first. -/
def fieldBytes : Nat → Nat → List Byte
  | 0, _ => []
  | k + 1, n => BitVec.ofNat 8 n :: fieldBytes k (n / 256)

/-- The value of field bytes, least significant first. -/
def fieldValue : List Byte → Nat
  | [] => 0
  | b :: bs => b.toNat + 256 * fieldValue bs

/-- The field of `k` bytes at an offset. -/
def field (l : List Byte) (offset k : Nat) : Nat := fieldValue ((l.drop offset).take k)

/-- A field of `8 * k` bits read in two's complement. -/
def signedField (l : List Byte) (offset k : Nat) : Int := (BitVec.ofNat (8 * k) (field l offset k)).toInt

/-- The bytes of a truth value. -/
def flagByte (b : Bool) : List Byte := fieldBytes 1 (if b then 1 else 0)

/-- A flag field is clear at 0 and set at any other value (section 11.7). -/
def flagAt (l : List Byte) (offset : Nat) : Bool := field l offset 1 != 0

/-! ### CRC-16 (R222) and CRC-32 (R177) -/

/-- One bit of the CRC-16, most significant bit first, generator 0x1021 (R222). -/
def crc16Bit (r : BitVec 16) : BitVec 16 := if r.msb then (r <<< 1) ^^^ 0x1021#16 else r <<< 1

/-- One byte of the CRC-16. -/
def crc16Byte (r : BitVec 16) (b : Byte) : BitVec 16 :=
  (List.range 8).foldl (fun r _ => crc16Bit r) (r ^^^ (b.zeroExtend 16 <<< 8))

/-- The CRC-16 of a byte string: initial value 0xFFFF, no final inversion (R222). -/
def crc16 (l : List Byte) : BitVec 16 := l.foldl crc16Byte 0xFFFF#16

/-- A byte string with its CRC-16 behind it (R222). -/
def sealed (l : List Byte) : List Byte := l ++ fieldBytes 2 (crc16 l).toNat

/-- A byte string ends in the CRC-16 of what stands before it (R222). -/
def crcGood (l : List Byte) : Bool := decide (2 ≤ l.length) && l == sealed (l.take (l.length - 2))

/-- One bit of the CRC-32, least significant bit first: generator 0x04C11DB7 reflected (R177). -/
def crc32Bit (r : BitVec 32) : BitVec 32 := if r.getLsbD 0 then (r >>> 1) ^^^ 0xEDB88320#32 else r >>> 1

/-- One byte of the CRC-32. -/
def crc32Byte (r : BitVec 32) (b : Byte) : BitVec 32 :=
  (List.range 8).foldl (fun r _ => crc32Bit r) (r ^^^ b.zeroExtend 32)

/-- The CRC-32 of a byte string: initial value 0xFFFFFFFF, all bits inverted at the end (R177). -/
def crc32 (l : List Byte) : BitVec 32 := ~~~(l.foldl crc32Byte 0xFFFFFFFF#32)

/-- The image of a price entry (section 11.7). -/
def PriceEntry.bytes (e : PriceEntry) : List Byte :=
  fieldBytes 1 e.cls.code ++ flagByte e.protect ++ fieldBytes 2 e.code ++ fieldBytes 4 e.price

/-- The checksum over the entries present, in their order (R177). -/
def checksumOf (l : List PriceEntry) : Nat := (crc32 (l.flatMap PriceEntry.bytes)).toNat

/-! ### Codes of section 11.7 -/

/-- Job kind code. -/
def JobKind.byte : JobKind → Nat
  | .edition => 0
  | .proof => 1
  | .check => 2

/-- Job state code. -/
def JobState.byte : JobState → Nat
  | .admitted => 0
  | .deferred => 1
  | .printing => 2
  | .finishing => 3
  | .settled => 4
  | .voided => 5

/-- Swath kind code. -/
def SwathKind.byte : SwathKind → Nat
  | .image => 0
  | .strip => 1

/-- Strip state code. -/
def StripState.byte : StripState → Nat
  | .none => 0
  | .planned => 1
  | .printed => 2
  | .resolved => 3

/-- Cut state code. -/
def CutState.byte : CutState → Nat
  | .none => 0
  | .pending => 1
  | .done => 2
  | .uncut => 3

/-- Void cause code. -/
def VoidCause.byte : VoidCause → Nat
  | .cancelled => 0
  | .aborted => 1
  | .fail => 2
  | .mediaEnd => 3
  | .interrupted => 4

/-- Verdict code. -/
def Verdict.byte : Verdict → Nat
  | .pass => 0
  | .drift => 1
  | .fail => 2

/-- Store state code; the part sends nothing without power. -/
def Phase.byte : Phase → Nat
  | .off => 0
  | .restore => 0
  | .run => 1
  | .flush => 2

/-- Status code. -/
def Status.byte : Status → Nat
  | .ok => 0x00
  | .okClamped => 0x01
  | .inkShort => 0x02
  | .mediaShort => 0x03
  | .badFrame => 0x10
  | .unknownRequest => 0x11
  | .notReady => 0x12
  | .badKey => 0x20
  | .badParam => 0x21
  | .tagExists => 0x22
  | .tableFull => 0x23
  | .unknownTag => 0x24
  | .unknownRoll => 0x25
  | .unknownEdition => 0x26
  | .unknownPrice => 0x27
  | .unknownLot => 0x28
  | .wrongState => 0x29
  | .busy => 0x2A
  | .notLoaded => 0x30
  | .editionClosed => 0x31
  | .provingBusy => 0x32
  | .editionFull => 0x33
  | .mediaNotReady => 0x34
  | .cutBacklog => 0x35
  | .locked => 0x36
  | .rowFault => 0x37
  | .expired => 0x38
  | .mismatch => 0x40
  | .slotOccupied => 0x41
  | .slotEmpty => 0x42
  | .lotInUse => 0x43
  | .lotReferenced => 0x44
  | .noMedia => 0x45
  | .rollInUse => 0x46
  | .rollReferenced => 0x47
  | .noSpare => 0x48
  | .editionExists => 0x49
  | .noReference => 0x4A
  | .editionReferenced => 0x4B
  | .priceProtected => 0x4C

/-- Notice kind code (R219). -/
def NoticeKind.byte : NoticeKind → Nat
  | .jobState => 0x01
  | .withdrawn => 0x02
  | .channelLow => 0x03
  | .channelOut => 0x04
  | .lotChange => 0x05
  | .lotExpired => 0x06
  | .rowFault => 0x07
  | .cutJam => 0x08
  | .rollEnd => 0x09
  | .checkResult => 0x0A
  | .editionLocked => 0x0B
  | .editionUnlocked => 0x0C
  | .pricesBad => 0x0D
  | .uncertainRecords => 0x0E
  | .storeFault => 0x0F
  | .restarted => 0x10
  | .overflow => 0x11

/-- Region code: 1..7 in the order of R191. -/
def Region.byte : Region → Nat
  | .config => 1
  | .lots => 2
  | .rolls => 3
  | .editions => 4
  | .prices => 5
  | .jobs => 6
  | .counters => 7

/-- The six subject bytes of a notice entry (section 11.7): channel in byte 2 of the entry, segment in byte 3. -/
def Subject.bytes : Subject → List Byte
  | .num n => fieldBytes 6 n
  | .segment c i => fieldBytes 1 c.val ++ fieldBytes 5 i.val
  | .region r => fieldBytes 6 r.byte
  | .store => fieldBytes 6 8

/-! ### The job record (READ JOB, section 11.7) -/

/-- Bit `i` of a bit field, set when the condition holds. -/
def bitIf (i : Nat) (b : Bool) : Nat := if b then 2 ^ i else 0

/-- The presence bits of a job record. -/
def Job.presence (j : Job) : Nat :=
  bitIf 0 j.spec.edition.isSome + bitIf 1 j.lastKind.isSome + bitIf 2 j.lastStrip.isSome + bitIf 3 j.seqNo.isSome +
    bitIf 4 j.gains.isSome + bitIf 5 j.handling.isSome + bitIf 6 j.pLead.isSome + bitIf 7 j.plannedEnd.isSome +
    bitIf 8 j.generation.isSome + bitIf 9 j.check.isSome + bitIf 10 j.cost.isSome + bitIf 11 j.number.isSome +
    bitIf 12 j.cause.isSome

/-- The flag bits of a job record. -/
def JobFlags.bits (f : JobFlags) : Nat :=
  bitIf 0 f.overrunInk + bitIf 1 f.overrunMedia + bitIf 2 f.inkAtRisk + bitIf 3 f.lotChanged + bitIf 4 f.rowFaultDuring +
    bitIf 5 f.uncut + bitIf 6 f.unchecked + bitIf 7 f.unpriced + bitIf 8 f.priceMerged + bitIf 9 f.uncertain +
    bitIf 10 f.abortPending + bitIf 11 f.voidOnSettle

/-- Twelve fields of `k` bytes, in channel order. -/
def vecBytes (k : Nat) (v : Vec12) : List Byte := Chan.list.flatMap fun c => fieldBytes k (v.get c)

/-- A field of `k` bytes, 0 where it is absent. -/
def optBytes (k : Nat) (n : Option Nat) : List Byte := fieldBytes k (n.getD 0)

/-- A draw list entry (15 bytes). -/
def DrawEntry.bytes (d : DrawEntry) : List Byte :=
  fieldBytes 1 d.channel.val ++ fieldBytes 6 d.lot ++ fieldBytes 4 d.image ++ fieldBytes 4 d.strip

/-- The job record of READ JOB: 238 bytes and 15 for each draw list entry. -/
def Job.bytes (j : Job) : List Byte :=
  fieldBytes 4 j.tag ++ fieldBytes 1 j.spec.kind.byte ++ fieldBytes 1 j.state.byte ++ fieldBytes 2 j.presence ++
    optBytes 4 j.spec.edition ++ fieldBytes 4 j.spec.roll ++ fieldBytes 4 j.spec.lead ++ fieldBytes 4 j.spec.image ++
    fieldBytes 4 j.spec.tail ++ fieldBytes 2 j.spec.swaths ++ fieldBytes 2 j.swathsLeft ++ fieldBytes 1 j.stripLeft ++
    flagByte j.toggle ++ optBytes 1 (j.lastKind.map SwathKind.byte) ++ flagByte (j.lastStrip.getD false) ++
    fieldBytes 1 j.strip.byte ++ fieldBytes 1 j.cut.byte ++ flagByte j.separated ++
    optBytes 1 (j.cause.map VoidCause.byte) ++ fieldBytes 2 j.flags.bits ++ vecBytes 4 j.spec.estimates ++
    vecBytes 4 j.ink ++ fieldBytes 4 j.rollRes ++ optBytes 4 j.seqNo ++ vecBytes 2 (j.gains.getD (Vec12.all 0)) ++
    optBytes 4 j.handling ++ optBytes 4 j.pLead ++ optBytes 4 j.plannedEnd ++ optBytes 2 j.generation ++
    optBytes 1 (j.check.map fun r => r.verdict.byte) ++ optBytes 2 (j.check.map CheckResult.worst) ++
    vecBytes 2 ((j.check.map CheckResult.densities).getD (Vec12.all 0)) ++ fieldBytes 4 j.printPiece ++
    fieldBytes 4 j.stripPiece ++ optBytes 4 (j.cost.map CostRecord.ink) ++ optBytes 4 (j.cost.map CostRecord.media) ++
    optBytes 4 (j.cost.map CostRecord.handling) ++ optBytes 4 (j.cost.map CostRecord.total) ++ optBytes 2 j.number ++
    fieldBytes 1 j.draws.length ++ j.draws.flatMap DrawEntry.bytes

/-- The bytes of a response body, for the bodies whose layout section 11.7 gives: the empty body, the job record and the
job list. The layout of the other bodies is not in the manual (DESIGN CHOICE, log 24). -/
def Body.bytes : Body → Option (List Byte)
  | .empty => some []
  | .job j => some j.bytes
  | .jobList l =>
    some (fieldBytes 1 l.length ++
      l.flatMap fun e => fieldBytes 4 e.1 ++ fieldBytes 1 e.2.1.byte ++ fieldBytes 1 e.2.2.byte)
  | _ => none

/-! ### Frames and messages the part sends -/

/-- The response header of section 11.7, for a body of `n` bytes. -/
def headerBytes (code seq status state : Nat) (p : Phase) (queued dropped : Nat) (dropping : Bool) (n : Nat) : List Byte :=
  fieldBytes 1 code ++ fieldBytes 1 seq ++ fieldBytes 1 status ++ fieldBytes 1 state ++ fieldBytes 1 p.byte ++
    fieldBytes 1 queued ++ fieldBytes 1 dropped ++ flagByte dropping ++ fieldBytes 2 n

/-- Bytes that the manual gives. -/
def given (l : List Byte) : List (Option Byte) := l.map some

/-- A field of `k` bytes whose bytes the manual does not give where the field is absent (DESIGN CHOICE, log 24). -/
def optGiven (k : Nat) (n : Option Nat) : List (Option Byte) :=
  match n with
  | some v => given (fieldBytes k v)
  | none => List.replicate k none

/-- The fault state of a row, coded as in ROW_STATUS. -/
def RowFault.byte : RowFault → Nat
  | .ok => 0
  | .missing => 1
  | .weeping => 2

/-- Cut kind code of CUT. -/
def CutKind.byte : CutKind → Nat
  | .leadTrim => 1
  | .separate => 2
  | .stripEnd => 3

/-- The detail of a notice entry: its leading fields as far as the manual gives their widths and codes, and whether that
is the whole detail. A field is as wide as the manual makes the same figure elsewhere (DEDUCED, log 52). -/
structure DetailImage where
  bytes : List (Option Byte)
  whole : Bool

/-- A record key as it is sent (section 4.3): the width of each key but a channel number's is given there, and a channel
number is one byte in every layout (DEDUCED, log 52). A record that is the only one of its kind has no key of a given width
(DESIGN CHOICE, log 24). -/
def RecKey.bytes : RecKey → List Byte
  | .job n | .roll n | .edition n => fieldBytes 4 n
  | .lot n => fieldBytes 6 n
  | .channel c | .slots c => fieldBytes 1 c.val
  | .plan | .geometry | .stripMode | .prices | .counters => []

/-- The resource of WITHDRAWN: a channel, or a roll id (R219, section 4.3; DEDUCED, log 52). -/
def Resource.bytes : Resource → List Byte
  | .channel c => fieldBytes 1 c.val
  | .roll id => fieldBytes 4 id

/-- The detail of a notice, each field at its own width (section 11.7). Sections 4.2 and 4.3 give the widths of volumes,
lengths, days and keys, the job record those of a job's fields, R164 that of a generation, R177 that of a checksum, and
R216 the largest dropped count. No width is given for a spare state, a cause, a count of records or a worst patch, nor a
code for MISSED (DESIGN CHOICE, log 24). -/
def Detail.image : Detail → DetailImage
  | .jobState st cause flags =>
    ⟨given (fieldBytes 1 st.byte) ++ optGiven 1 (cause.map VoidCause.byte) ++ given (fieldBytes 2 flags.bits), true⟩
  | .withdrawn r => ⟨given r.bytes, true⟩
  | .channelLow remaining reserve => ⟨given (fieldBytes 4 remaining ++ fieldBytes 4 reserve), true⟩
  | .channelOut remaining reserve => ⟨given (fieldBytes 4 remaining ++ fieldBytes 4 reserve), true⟩
  | .lotChange left taken => ⟨given (fieldBytes 6 left ++ fieldBytes 6 taken), true⟩
  | .lotExpired c day => ⟨given (fieldBytes 1 c.val ++ fieldBytes 2 day), true⟩
  | .rowFault fault _ => ⟨given (fieldBytes 1 fault.byte), false⟩
  | .cutJam k owner target _ => ⟨given (fieldBytes 1 k.byte) ++ optGiven 4 owner ++ given (fieldBytes 4 target), false⟩
  | .rollEnd fed _ _ => ⟨given (fieldBytes 4 fed), false⟩
  | .checkVerdict v worst _ _ _ => ⟨given (fieldBytes 1 v.byte ++ fieldBytes 2 worst), false⟩
  | .checkMissed _ => ⟨[], false⟩
  | .editionLocked _ _ _ _ => ⟨[], false⟩
  | .editionUnlocked generation job => ⟨given (fieldBytes 2 generation ++ fieldBytes 4 job), true⟩
  | .pricesBad committed recomputed => ⟨given (fieldBytes 4 committed ++ fieldBytes 4 recomputed), true⟩
  | .uncertainRecords _ _ => ⟨[], false⟩
  | .writeFault key _ => ⟨given ((key.map RecKey.bytes).getD []), false⟩
  | .recordsLost _ => ⟨[], false⟩
  | .restarted _ _ _ _ => ⟨[], false⟩
  | .overflow dropped => ⟨given (fieldBytes 2 dropped), true⟩

/-- The detail length byte and the 22 detail bytes behind it, unused bytes 0; behind the last field whose width the
manual gives, and for the length of such a detail, `none` (DESIGN CHOICE, log 24). -/
def DetailImage.length (d : DetailImage) : Option Byte := if d.whole then some (BitVec.ofNat 8 d.bytes.length) else none

/-- The 22 detail bytes of an entry. -/
def DetailImage.padded (d : DetailImage) : List (Option Byte) :=
  d.bytes ++ List.replicate (22 - d.bytes.length) (if d.whole then some 0 else none)

/-- The image of a notice entry, 32 bytes (section 11.7): kind code, detail length, subject, raise number and detail. -/
def Notice.bytes (n : Notice) : List (Option Byte) :=
  given (fieldBytes 1 n.detail.kind.byte) ++ [n.detail.image.length] ++ given n.subject.bytes ++
    given (fieldBytes 2 n.raiseNo) ++ n.detail.image.padded

/-- What a READ transfer clocks out, as far as the manual gives it: the first eight header bytes; the rest of the frame,
where the layout of its body is given; and the images of the notice entries the body returns, oldest first. -/
structure ReadOut where
  header : List Byte
  rest : Option (List Byte)
  entries : List (List (Option Byte))
deriving DecidableEq, Repr

/-- A frame as it is clocked out: eight header bytes, then the rest. -/
def readOut (l : List Byte) : ReadOut := { header := l.take 8, rest := some (l.drop 8), entries := [] }

/-- The notice entries a body returns (R217). -/
def Body.noticeList : Body → List Notice
  | .notices l _ _ => l
  | _ => []

/-- The frame a READ transfer clocks out (R209, R211): a header and an empty body while NONE or PENDING, the response
while DONE. Where the layout of the body is not in the manual its length and its bytes are not either (DESIGN CHOICE,
log 24). R213 puts the store state and the number of notices queued into every header. R211 says of a NONE header that its
other fields are as they stand, and says it of no PENDING one: the drop counter and the queue state are as they stand
there too (DESIGN CHOICE, log 49). It changes nothing. -/
def State.readTransfer (s : State) : ReadOut :=
  match s.port.buffer with
  | .none =>
    readOut (sealed (headerBytes 0 0 0 0 s.phase s.notices.entries.length s.port.dropped s.notices.dropping 0))
  | .pending code seq _ _ _ =>
    readOut (sealed (headerBytes code seq 0 1 s.phase s.notices.entries.length s.port.dropped s.notices.dropping 0))
  | .done r =>
    let head := headerBytes r.code r.seq r.status.byte 2 r.phase r.queued r.dropped r.dropping
    match r.body.bytes with
    | some b => readOut (sealed (head b.length ++ b))
    | none => { header := (head 0).take 8, rest := none, entries := r.body.noticeList.map Notice.bytes }

/-- Strip indication code of ACCEPT. -/
def StripInd.byte : StripInd → Nat
  | .none => 0
  | .no => 1
  | .yes => 2

/-- The cause and channel bytes of HOLD. -/
def HoldCause.bytes : HoldCause → List Byte
  | .notBegun => fieldBytes 2 1
  | .power => fieldBytes 2 2
  | .jammed => fieldBytes 2 3
  | .inkOut c => fieldBytes 1 4 ++ fieldBytes 1 c.val

/-- BLOCK cause code. -/
def BlockCause.byte : BlockCause → Nat
  | .unknownTag => 1
  | .notLive => 2
  | .aborted => 3
  | .mediaEnd => 4
  | .sequence => 5
  | .noImage => 6
  | .noStrip => 7

/-- ACK result code. -/
def AckResult.byte : AckResult → Nat
  | .taken => 0
  | .badField => 1
  | .notReady => 2

/-- The 48-bit row map: bit 4c + s set for SPARE (section 11.7). -/
def mapBits : List Bool → Nat
  | [] => 0
  | b :: bs => (if b then 1 else 0) + 2 * mapBits bs

/-- The frame of a Head Link answer. -/
def HeadAnswer.bytes : HeadAnswer → List Byte
  | .accept i => sealed (fieldBytes 1 0x81 ++ fieldBytes 1 i.byte)
  | .hold c => sealed (fieldBytes 1 0x82 ++ c.bytes)
  | .block c => sealed (fieldBytes 1 0x83 ++ fieldBytes 1 c.byte)
  | .crcBad => sealed (fieldBytes 1 0x84)
  | .rowMap m => sealed (fieldBytes 1 0x85 ++ fieldBytes 6 (mapBits m))
  | .ack r => sealed (fieldBytes 1 0x86 ++ fieldBytes 1 r.byte)

/-- The frame of a message the part sends. Section 11.7 gives STOP_AT four target bytes and R114 no target to send with
NONE: they are a free value there (DESIGN CHOICE, log 51). -/
def Output.bytes : Output → List Byte
  | .head a => a.bytes
  | .stopAt none => sealed (fieldBytes 1 0xA1 ++ fieldBytes 1 0 ++ fieldBytes 4 Config.stopNone)
  | .stopAt (some t) => sealed (fieldBytes 1 0xA1 ++ fieldBytes 1 1 ++ fieldBytes 4 t)
  | .cut k t => sealed (fieldBytes 1 0xA2 ++ fieldBytes 1 k.byte ++ fieldBytes 4 t)
  | .arm n p => sealed (fieldBytes 1 0x11 ++ fieldBytes 1 n ++ fieldBytes 1 p)

end Sys2Proof.Machine
end

