-- ==== Sys2Proof/Machine/Prices.lean ====
section
/-! DEFINITION. The price and overhead requests (spec/09_costing_and_prices.md): WRITE PRICE, REMOVE PRICE, LOCK PRICES,
UNLOCK PRICES, READ PRICES, SET STRIP ACCOUNTING, READ OVERHEAD, CLEAR OVERHEAD. -/

namespace Sys2Proof.Machine

/-- The place of an entry in the order of R177: by class, and within a class by code. -/
def PriceEntry.place (e : PriceEntry) : Nat := e.cls.code * 65536 + e.code

/-- The table with other entries and the checksum over them (R177). -/
def PriceTable.withEntries (t : PriceTable) (l : List PriceEntry) : PriceTable :=
  { t with entries := l, checksum := checksumOf l }

/-- PRICE_LOCK and the protect bit of the entry present forbid a change of it (R176). -/
def PriceTable.guards (t : PriceTable) (c : PriceClass) (code : Nat) : Bool :=
  t.lock && ((t.entry? c code).map PriceEntry.protect).getD false

/-! ### WRITE PRICE (R174) -/

/-- The refusal of WRITE PRICE for a valid class and code, the first condition of R174 that holds. -/
def State.writePriceRefused (s : State) (c : PriceClass) (code : Nat) : Option Status :=
  if s.prices.guards c code then some .priceProtected
  else if (s.prices.entry? c code).isNone && decide (Config.priceCapacity ≤ s.prices.entries.length) then some .tableFull
  else none

/-- The entry WRITE PRICE writes: a price above the maximum of its class is written as the maximum (R174). -/
def priceEntryOf (c : PriceClass) (r : PriceReq) : PriceEntry :=
  { cls := c, code := r.code, price := min r.price c.maxPrice, protect := r.protect }

/-- WRITE PRICE (R174); the first one taken clears PRICES_BAD (R178). -/
def writePrice (r : PriceReq) (s : State) : Reply :=
  match classOf r.cls with
  | none => s.refuse .badParam
  | some c =>
    if !priceKeyOk c r.code then s.refuse .badParam
    else
      match s.writePriceRefused c r.code with
      | some st => s.refuse st
      | none =>
        let e := priceEntryOf c r
        let t := s.prices.withEntries (insertBy PriceEntry.place e s.prices.entries)
        ⟨({ s.setPrices t with pricesBad := false }).commit [.prices],
          if c.maxPrice < r.price then .okClamped else .ok, .price e t.checksum⟩

/-- Command WRITE_PRICE. -/
def execWritePrice (seq : Nat) (r : PriceReq) (s : State) : Host.Outcome State Fault Refusal :=
  .next (s.request 0x60 seq (writePrice r))

/-! ### REMOVE PRICE (R175) -/

/-- REMOVE PRICE (R175). -/
def removePrice (cls code : Nat) (s : State) : Reply :=
  match classOf cls with
  | none => s.refuse .badParam
  | some c =>
    if !priceKeyOk c code then s.refuse .badParam
    else
      match s.prices.entry? c code with
      | none => s.refuse .unknownPrice
      | some e =>
        if s.prices.guards c code then s.refuse .priceProtected
        else
          let t := s.prices.withEntries (removeBy PriceEntry.place e.place s.prices.entries)
          ⟨(s.setPrices t).commit [.prices], .ok, .checksum t.checksum⟩

/-- Command REMOVE_PRICE. -/
def execRemovePrice (seq cls code : Nat) (s : State) : Host.Outcome State Fault Refusal :=
  .next (s.request 0x61 seq (removePrice cls code))

/-! ### PRICE_LOCK and READ PRICES (R176, R180) -/

/-- Write PRICE_LOCK and commit the table (R176). -/
def State.putLock (s : State) (b : Bool) : Reply :=
  ⟨(s.setPrices { s.prices with lock := b }).commit [.prices], .ok, .lock b⟩

/-- LOCK PRICES (R176). -/
def lockPrices (s : State) : Reply := s.putLock true

/-- Command LOCK_PRICES. -/
def execLockPrices (seq : Nat) (s : State) : Host.Outcome State Fault Refusal := .next (s.request 0x62 seq lockPrices)

/-- UNLOCK PRICES (R176). -/
def unlockPrices (s : State) : Reply := s.putLock false

/-- Command UNLOCK_PRICES. -/
def execUnlockPrices (seq : Nat) (s : State) : Host.Outcome State Fault Refusal := .next (s.request 0x63 seq unlockPrices)

/-- READ PRICES (R180). -/
def readPrices (s : State) : Reply := ⟨s, .ok, .prices s.prices s.pricesBad s.prices.entries.length⟩

/-- Command READ_PRICES. -/
def execReadPrices (seq : Nat) (s : State) : Host.Outcome State Fault Refusal := .next (s.request 0x64 seq readPrices)

/-! ### Strip accounting and the Overhead Account (R181, R187, R188) -/

/-- SET STRIP ACCOUNTING (R181). A mode out of range is answered BAD_PARAM also while a job is PRINTING or FINISHING: R181
gives the two conditions no order (DESIGN CHOICE, log 61). -/
def setStripAccounting (mode : Nat) (s : State) : Reply :=
  match stripModeOf mode with
  | none => s.refuse .badParam
  | some m => if s.underWay then s.refuse .busy else ⟨(s.setStripMode m).commit [.stripMode], .ok, .stripMode m⟩

/-- Command SET_STRIP_ACCOUNTING. -/
def execSetStripAccounting (seq mode : Nat) (s : State) : Host.Outcome State Fault Refusal :=
  .next (s.request 0x65 seq (setStripAccounting mode))

/-- The four accumulators in cost units, rounded half up (R188). -/
def Overhead.rounded (o : Overhead) : Overhead :=
  { maintenance := roundDiv o.maintenance 1000000, trims := roundDiv o.trims 100000000,
    houseChecks := roundDiv o.houseChecks 1000000, strips := roundDiv o.strips 100000000 }

/-- READ OVERHEAD (R188). -/
def readOverhead (s : State) : Reply := ⟨s, .ok, .overhead s.overhead s.overhead.rounded⟩

/-- Command READ_OVERHEAD. -/
def execReadOverhead (seq : Nat) (s : State) : Host.Outcome State Fault Refusal := .next (s.request 0x66 seq readOverhead)

/-- CLEAR OVERHEAD (R188). -/
def clearOverhead (s : State) : Reply :=
  ⟨(s.setOverhead {}).commit [.counters], .ok, .overhead s.overhead s.overhead.rounded⟩

/-- Command CLEAR_OVERHEAD. -/
def execClearOverhead (seq : Nat) (s : State) : Host.Outcome State Fault Refusal :=
  .next (s.request 0x67 seq clearOverhead)

end Sys2Proof.Machine
end

