-- ==== Sys2Proof/Machine/Frames.lean ====
section
/-! DEFINITION. Reading the frames the part receives (section 11.7): which command the body of a request frame or a Head
Link frame spells, and the length its fields require. -/

namespace Sys2Proof.Machine

/-! ### Request frames (R209, R210, section 11.7) -/

/-- The parts of a request frame; `sound` says that test 1 of R210 does not hold. -/
structure RequestFrame where
  code : Nat
  seq : Nat
  body : List Byte
  sound : Bool
deriving DecidableEq, Repr

/-- Read a request frame from the bytes after the transfer code; `none` when fewer bytes arrived than its body length
asks for. Bytes after its end are ignored (R209). -/
def readRequestFrame (l : List Byte) : Option RequestFrame :=
  let n := field l 2 2
  if l.length < 4 ∨ l.length < n + 6 then none
  else
    some { code := field l 0 1, seq := field l 1 1, body := (l.drop 4).take n,
           sound := crcGood (l.take (n + 6)) && decide (n ≤ 256) }

/-- Twelve fields of `k` bytes in channel order, from an offset. -/
def vecField (l : List Byte) (offset k : Nat) : Vec12 := Vector.ofFn fun c => field l (offset + k * c.val) k

/-- `n` Lab patches from an offset, each of L, a and b in signed 16 bits. -/
def labField (l : List Byte) (offset n : Nat) : List Lab :=
  (List.range n).map fun i =>
    ⟨signedField l (offset + 6 * i) 2, signedField l (offset + 6 * i + 2) 2, signedField l (offset + 6 * i + 4) 2⟩

/-- The body length the fields of a request require; `none` where the code names no request (section 11.7). -/
def requestLength (code : Nat) (b : List Byte) : Option Nat :=
  match code with
  | 0x10 => some 76
  | 0x11 | 0x12 | 0x14 | 0x15 => some 4
  | 0x13 => some 5
  | 0x20 => some 19
  | 0x21 => some 1
  | 0x22 => some 16
  | 0x23 => some 2
  | 0x24 => some 10
  | 0x25 | 0x26 => some 6
  | 0x27 => some 2
  | 0x28 => some 4
  | 0x29 => some 3
  | 0x30 => some 13
  | 0x31 | 0x32 | 0x33 | 0x34 => some 4
  | 0x35 => some 0
  | 0x36 => some 24
  | 0x37 => some 1
  | 0x40 => some (30 + 6 * field b 29 1)
  | 0x41 | 0x42 => some 0
  | 0x50 => some (if flagAt b 12 then 62 + 6 * field b 61 1 else 13)
  | 0x51 | 0x52 | 0x53 | 0x54 | 0x55 => some 4
  | 0x60 => some 8
  | 0x61 => some 3
  | 0x62 | 0x63 | 0x64 => some 0
  | 0x65 => some 1
  | 0x66 | 0x67 => some 0
  | 0x70 | 0x71 | 0x72 => some 0
  | _ => none

/-- The fields of SUBMIT JOB. -/
def submitFields (b : List Byte) : SubmitReq :=
  { kind := field b 0 1, editionSupplied := flagAt b 1, tag := field b 2 4, edition := field b 6 4, roll := field b 10 4,
    lead := field b 14 4, image := field b 18 4, tail := field b 22 4, swaths := field b 26 2,
    estimates := vecField b 28 4 }

/-- The fields of SET CHANNEL. -/
def channelFields (b : List Byte) : ChannelReq :=
  { channel := field b 0 1, product := field b 1 2, vS := field b 3 1, vM := field b 4 1, vL := field b 5 1,
    weight := field b 6 2, gain := field b 8 2, margin := field b 10 1, allowance := field b 11 4,
    reserve := field b 15 4 }

/-- The fields of INSTALL LOT. -/
def installFields (b : List Byte) : InstallReq :=
  { channel := field b 0 1, slot := field b 1 1, code := field b 2 6, product := field b 8 2, fill := field b 10 4,
    expiry := field b 14 2 }

/-- The fields of LOAD ROLL. -/
def loadRollFields (b : List Byte) : LoadRollReq :=
  { slot := field b 0 1, product := field b 1 2, width := field b 3 2, id := field b 5 4, length := field b 9 4 }

/-- The fields of SET MEDIA GEOMETRY. -/
def geometryFields (b : List Byte) : Geometry :=
  { sensorOffset := field b 0 4, cutterOffset := field b 4 4, stripGap := field b 8 4, stripLength := field b 12 4,
    leadTrim := field b 16 4, cutTimeout := field b 20 4 }

/-- The fields of SET CHECK PLAN. -/
def planFields (b : List Byte) : PlanReq :=
  { interval := field b 0 1, cadence := field b 1 1, stripSwaths := field b 2 1, tolerance := field b 3 2,
    densities := vecField b 5 2, labs := labField b 30 (field b 29 1) }

/-- The fields of CREATE EDITION. -/
def editionFields (b : List Byte) : EditionReq :=
  { id := field b 0 4, limit := field b 4 2, mask := field b 6 2, tolerance := field b 8 2, band := field b 10 2,
    reference :=
      if flagAt b 12 then
        some { gains := vecField b 13 2, densities := vecField b 37 2, labs := labField b 62 (field b 61 1) }
      else none }

/-- The fields of WRITE PRICE: the price entry image, its protect bit read as a flag. -/
def priceFields (b : List Byte) : PriceReq :=
  { cls := field b 0 1, protect := flagAt b 1, code := field b 2 2, price := field b 4 4 }

/-- The command a request frame's code and body spell. CLEAR JAM with an action that is neither RETRY nor SKIP spells
none of the commands (R121). -/
def requestCommand (code n : Nat) (b : List Byte) : Option Instr :=
  match code with
  | 0x10 => some (.submitJob n (submitFields b))
  | 0x11 => some (.admitJob n (field b 0 4))
  | 0x12 => some (.beginJob n (field b 0 4))
  | 0x13 => some (.cancelJob n (field b 0 4) (field b 4 1))
  | 0x14 => some (.readJob n (field b 0 4))
  | 0x15 => some (.retireJob n (field b 0 4))
  | 0x20 => some (.setChannel n (channelFields b))
  | 0x21 => some (.readChannel n (field b 0 1))
  | 0x22 => some (.installLot n (installFields b))
  | 0x23 => some (.removeLot n (field b 0 1) (field b 1 1))
  | 0x24 => some (.amendLot n (field b 0 6) (field b 6 4))
  | 0x25 => some (.retireLot n (field b 0 6))
  | 0x26 => some (.readLot n (field b 0 6))
  | 0x27 => some (.setDay n (field b 0 2))
  | 0x28 => some (.setRowMask n (field b 0 1) (field b 1 1) (flagAt b 2) (flagAt b 3))
  | 0x29 => some (.substituteRow n (field b 0 1) (field b 1 1) (field b 2 1))
  | 0x30 => some (.loadRoll n (loadRollFields b))
  | 0x31 => some (.selectRoll n (field b 0 4))
  | 0x32 => some (.unloadRoll n (field b 0 4))
  | 0x33 => some (.retireRoll n (field b 0 4))
  | 0x34 => some (.readRoll n (field b 0 4))
  | 0x35 => some (.readMedia n)
  | 0x36 => some (.setMediaGeometry n (geometryFields b))
  | 0x37 =>
    match field b 0 1 with
    | 0 => some (.clearJamRetry n)
    | 1 => some (.clearJamSkip n)
    | _ => none
  | 0x40 => some (.setCheckPlan n (planFields b))
  | 0x41 => some (.forceCheck n)
  | 0x42 => some (.readCheckState n)
  | 0x50 => some (.createEdition n (editionFields b))
  | 0x51 => some (.adoptReference n (field b 0 4))
  | 0x52 => some (.rejectReference n (field b 0 4))
  | 0x53 => some (.closeEdition n (field b 0 4))
  | 0x54 => some (.retireEdition n (field b 0 4))
  | 0x55 => some (.readEdition n (field b 0 4))
  | 0x60 => some (.writePrice n (priceFields b))
  | 0x61 => some (.removePrice n (field b 0 1) (field b 1 2))
  | 0x62 => some (.lockPrices n)
  | 0x63 => some (.unlockPrices n)
  | 0x64 => some (.readPrices n)
  | 0x65 => some (.setStripAccounting n (field b 0 1))
  | 0x66 => some (.readOverhead n)
  | 0x67 => some (.clearOverhead n)
  | 0x70 => some (.readNotices n)
  | 0x71 => some (.identify n)
  | 0x72 => some (.readStatus n)
  | _ => none

/-! ### Head Link frames (R72, section 11.7) -/

/-- The drop counts of a frame: 24-bit counts in the order nS, nM, nL, channel by channel. -/
def dropFields (l : List Byte) (offset : Nat) : DropCounts :=
  Vector.ofFn fun c =>
    ⟨field l (offset + 9 * c.val) 3, field l (offset + 9 * c.val + 3) 3, field l (offset + 9 * c.val + 6) 3⟩

/-- A toggle byte: 0 or 1; the spec gives no reading of any other value (DESIGN CHOICE, log 8). -/
def toggleByte (n : Nat) : Bool := if n = 0 then false else if n = 1 then true else Config.toggleOf n

/-- The command a Head Link frame spells; `none` when its CRC fails or it is malformed: a kind that is none of the four,
a length that is not its kind's, or a SWATH of no swath kind (R72). -/
def headCommand (l : List Byte) : Option Instr :=
  if !crcGood l then none
  else
    match field l 0 1, l.length with
    | 1, 117 =>
      (swathKindOf (field l 5 1)).map fun k =>
        .swath (field l 1 4) k.byte (toggleByte (field l 6 1)) (dropFields l 7)
    | 2, 112 => some (.purge (toggleByte (field l 1 1)) (dropFields l 2))
    | 3, 6 => some (.rowStatus (field l 1 1) (field l 2 1) (field l 3 1))
    | 4, 3 => some .rowMapQuery
    | _, _ => none

/-! ### Media Link and Sensor Link messages (R110, R136), SPI transactions (R209) -/

/-- The command a Media Link message spells; `none` where its CRC fails or its kind or length is wrong, and it is
discarded (R110). A field outside its range is left to the message's own meaning. -/
def mediaCommand (l : List Byte) : Option Instr :=
  if !crcGood l then none
  else
    match field l 0 1, l.length with
    | 0x21, 7 => some (.feed (signedField l 1 4))
    | 0x22, 3 => some .cutDone
    | 0x23, 4 => some (.cutFault (field l 1 1))
    | 0x24, 5 => some (.rollPresent (field l 1 1) (field l 2 1))
    | 0x25, 4 => some (.rollEnd (field l 1 1))
    | _, _ => none

/-- The command a Sensor Link message spells; `none` where its CRC fails, it is no READING, or its length is not the one
its Lab patch count gives, and it is discarded (R136). -/
def sensorCommand (l : List Byte) : Option Instr :=
  if !crcGood l then none
  else if field l 0 1 = 0x12 ∧ l.length = 30 + 6 * field l 27 1 then
    some (.reading { seq := field l 1 1, status := field l 2 1, densities := vecField l 3 2
                     labs := labField l 28 (field l 27 1) })
  else none

/-- The command an SPI transaction spells: a WRITE is a request frame, given raw; a READ and a transaction with another
first byte change nothing (R209). -/
def transferCommand (l : List Byte) : Option Instr :=
  if field l 0 1 = 0x01 ∧ l ≠ [] then some (.requestFrameRefused (l.drop 1)) else none

end Sys2Proof.Machine
end

