-- ==== Sys2Proof/Machine/Port.lean ====
section
/-! DEFINITION. The Request Port's own commands (spec/11): READ NOTICES, IDENTIFY, READ STATUS, and the request frames
that the port answers or drops by itself (R210, R212). -/

namespace Sys2Proof.Machine

/-! ### READ NOTICES (R217) -/

/-- READ NOTICES removes up to 8 of the oldest entries; removing one or more returns the queue to ACCEPTING (R216,
R217). Its body holds the queue state before the request. -/
def readNotices (s : State) : Reply :=
  let q := s.notices
  let later := q.later.map fun (n : LateNotice) => { n with place := n.place - 8 }
  let q' := { q with entries := q.entries.drop 8, dropping := q.dropping && q.entries.isEmpty, later := later }
  ⟨{ s with notices := q' }, .ok, .notices (q.entries.take 8) q'.entries.length q.dropping⟩

/-- Command READ_NOTICES. -/
def execReadNotices (seq : Nat) (s : State) : Host.Outcome State Fault Refusal :=
  .next (s.request 0x70 seq readNotices)

/-! ### IDENTIFY and READ STATUS (R220, R221) -/

/-- The fixed figures of the part (R220). -/
def identityFigures : Identity :=
  { vendor := 0x0E2A, part := 0x1240, revision := 1, layout := 1, capacities := [12, 4, 48, 32, 16, 12, 64, 24, 32] }

/-- IDENTIFY (R220). -/
def identify (s : State) : Reply := ⟨s, .ok, .identity identityFigures⟩

/-- Command IDENTIFY. -/
def execIdentify (seq : Nat) (s : State) : Host.Outcome State Fault Refusal := .next (s.request 0x71 seq identify)

/-- The number of unsaved records in a region (R198, R221). -/
def Store.unsavedIn (st : Store) (r : Region) : Nat := (st.unsaved.filter fun k => regionOf k == r).length

/-- The state of the part as READ STATUS returns it (R221). -/
def State.statusView (s : State) : StatusView :=
  { phase := s.phase, pfail := s.pfail, marker := s.store.marker, unsaved := Region.list.map s.store.unsavedIn,
    lastGroup := s.store.lastDone, notices := s.notices.entries.length, dropping := s.notices.dropping,
    raised := s.notices.raised, episode := s.notices.episode, dropCount := s.port.dropped, day := s.day,
    activeRoll := (s.activeRoll.map Roll.id).getD 0, printing := (s.printing?.map Job.tag).getD 0,
    cutter := s.media.cutter, feedHold := s.feedHold, forced := s.check.forced, priceLock := s.prices.lock,
    pricesBad := s.pricesBad,
    counts := [s.jobs.length, s.lots.length, s.rolls.length, s.editions.length, s.prices.entries.length] }

/-- READ STATUS (R221). -/
def readStatus (s : State) : Reply := ⟨s, .ok, .status s.statusView⟩

/-- Command READ_STATUS. -/
def execReadStatus (seq : Nat) (s : State) : Host.Outcome State Fault Refusal := .next (s.request 0x72 seq readStatus)

/-! ### Request frames (R209, R210, R212) -/

/-- The code, the sequence number and the handler of a host request; `none` for a command that is no request. -/
def requestParts : Instr → Option (Nat × Nat × (State → Reply))
  | .submitJob n r => some (0x10, n, Sys2Proof.Machine.submitJob r)
  | .admitJob n t => some (0x11, n, Sys2Proof.Machine.admitJob t)
  | .beginJob n t => some (0x12, n, Sys2Proof.Machine.beginJob t)
  | .cancelJob n t r => some (0x13, n, Sys2Proof.Machine.cancelJob t r)
  | .readJob n t => some (0x14, n, Sys2Proof.Machine.readJob t)
  | .retireJob n t => some (0x15, n, Sys2Proof.Machine.retireJob t)
  | .setChannel n r => some (0x20, n, Sys2Proof.Machine.setChannel r)
  | .readChannel n c => some (0x21, n, Sys2Proof.Machine.readChannel c)
  | .installLot n r => some (0x22, n, Sys2Proof.Machine.installLot r)
  | .removeLot n c t => some (0x23, n, Sys2Proof.Machine.removeLot c t)
  | .amendLot n c v => some (0x24, n, Sys2Proof.Machine.amendLot c v)
  | .retireLot n c => some (0x25, n, Sys2Proof.Machine.retireLot c)
  | .readLot n c => some (0x26, n, Sys2Proof.Machine.readLot c)
  | .setDay n d => some (0x27, n, Sys2Proof.Machine.setDay d)
  | .setRowMask n c i m w => some (0x28, n, Sys2Proof.Machine.setRowMask c i m w)
  | .substituteRow n c i k => some (0x29, n, Sys2Proof.Machine.substituteRow c i k)
  | .loadRoll n r => some (0x30, n, Sys2Proof.Machine.loadRoll r)
  | .selectRoll n i => some (0x31, n, Sys2Proof.Machine.selectRoll i)
  | .unloadRoll n i => some (0x32, n, Sys2Proof.Machine.unloadRoll i)
  | .retireRoll n i => some (0x33, n, Sys2Proof.Machine.retireRoll i)
  | .readRoll n i => some (0x34, n, Sys2Proof.Machine.readRoll i)
  | .readMedia n => some (0x35, n, Sys2Proof.Machine.readMedia)
  | .setMediaGeometry n g => some (0x36, n, Sys2Proof.Machine.setMediaGeometry g)
  | .clearJamRetry n => some (0x37, n, Sys2Proof.Machine.clearJamRetry)
  | .clearJamSkip n => some (0x37, n, Sys2Proof.Machine.clearJamSkip)
  | .setCheckPlan n r => some (0x40, n, Sys2Proof.Machine.setCheckPlan r)
  | .forceCheck n => some (0x41, n, Sys2Proof.Machine.forceCheck)
  | .readCheckState n => some (0x42, n, Sys2Proof.Machine.readCheckState)
  | .createEdition n r => some (0x50, n, Sys2Proof.Machine.createEdition r)
  | .adoptReference n i => some (0x51, n, Sys2Proof.Machine.adoptReference i)
  | .rejectReference n i => some (0x52, n, Sys2Proof.Machine.rejectReference i)
  | .closeEdition n i => some (0x53, n, Sys2Proof.Machine.closeEdition i)
  | .retireEdition n i => some (0x54, n, Sys2Proof.Machine.retireEdition i)
  | .readEdition n i => some (0x55, n, Sys2Proof.Machine.readEdition i)
  | .writePrice n r => some (0x60, n, Sys2Proof.Machine.writePrice r)
  | .removePrice n c k => some (0x61, n, Sys2Proof.Machine.removePrice c k)
  | .lockPrices n => some (0x62, n, Sys2Proof.Machine.lockPrices)
  | .unlockPrices n => some (0x63, n, Sys2Proof.Machine.unlockPrices)
  | .readPrices n => some (0x64, n, Sys2Proof.Machine.readPrices)
  | .setStripAccounting n m => some (0x65, n, Sys2Proof.Machine.setStripAccounting m)
  | .readOverhead n => some (0x66, n, Sys2Proof.Machine.readOverhead)
  | .clearOverhead n => some (0x67, n, Sys2Proof.Machine.clearOverhead)
  | .readNotices n => some (0x70, n, Sys2Proof.Machine.readNotices)
  | .identify n => some (0x71, n, Sys2Proof.Machine.identify)
  | .readStatus n => some (0x72, n, Sys2Proof.Machine.readStatus)
  | _ => none

/-- Take a request whose frame passed tests 1 to 4 of R210: it is handed on to the owning block. A code of CLEAR JAM
with another action is refused BAD_PARAM (R121). -/
def State.handOn (s : State) (f : RequestFrame) : State :=
  match (requestCommand f.code f.seq f.body).bind requestParts with
  | some p => s.request p.1 p.2.1 p.2.2
  | none => s.request f.code f.seq fun s => s.refuse .badParam

/-- Tests 1 to 4 of R210 on a complete frame received while BUSY is deasserted, in table order. -/
def State.testFrame (s : State) (f : RequestFrame) : State :=
  if !f.sound then s.quiet.respond f.code f.seq .badFrame .empty
  else if s.phase ≠ .run then s.quiet.respond f.code f.seq .notReady .empty
  else
    match requestLength f.code f.body with
    | none => s.quiet.respond f.code f.seq .unknownRequest .empty
    | some n => if f.body.length ≠ n then s.quiet.respond f.code f.seq .badFrame .empty else s.handOn f

/-- Take the bytes of a WRITE transfer: an incomplete frame is discarded whole (R209), a complete one is discarded and
counted while BUSY (R212) and tested otherwise (R210). With no power nothing is received (DEDUCED, log 10). -/
def State.takeFrame (s : State) (l : List Byte) : State :=
  if s.phase = .off then s.quiet
  else
    match readRequestFrame l with
    | none => s.quiet
    | some f => if s.busy then s.quiet.dropFrame else s.testFrame f

/-- Command REQUEST_FRAME_REFUSED: the bytes of a WRITE transfer, given raw. -/
def execRequestFrameRefused (frame : List Byte) (s : State) : Host.Outcome State Fault Refusal := .next (s.takeFrame frame)

/-- Command REQUEST_FRAME_DROPPED: the bytes of a WRITE transfer, given raw; dropped while BUSY is asserted (R212). -/
def execRequestFrameDropped (frame : List Byte) (s : State) : Host.Outcome State Fault Refusal := .next (s.takeFrame frame)

end Sys2Proof.Machine
end

