-- ==== Sys2Proof/Machine/HeadLink.lean ====
section
/-! DEFINITION. The Head Link (spec/04_the_head_link.md): SWATH, PURGE, ROW_STATUS, ROW_MAP_QUERY, and a frame that
fails its checks. -/

namespace Sys2Proof.Machine

/-! ### The Job Unit's verdict on a swath (R74, R75, R78, R79) -/

/-- The verdict of tests 3 to 11 of section 4.2. -/
inductive SwathVerdict where
  | block (c : BlockCause)
  | notBegun
  | repeated (i : StripInd)
  | go (j : Job)
deriving DecidableEq, Repr

/-- The strip indication a repeat carries again (R78). -/
def Job.indication (j : Job) : StripInd :=
  if j.lastKind = some .image ∧ j.swathsLeft = 0 then
    match j.lastStrip with
    | some true => .yes
    | some false => .no
    | none => .none
  else .none

/-- A STRIP swath is due (R79). -/
def Job.stripDue (j : Job) : Bool := j.strip == .planned && decide (0 < j.stripLeft)

/-- Tests 6 to 11 on a PRINTING or FINISHING job (R74). -/
def Job.sequenceVerdict (j : Job) (k : SwathKind) (toggle : Bool) : SwathVerdict :=
  if j.flags.abortPending then .block .aborted
  else if j.cause = some .mediaEnd then .block .mediaEnd
  else if toggle ≠ j.toggle ∧ j.lastKind = some k then .repeated j.indication
  else if toggle ≠ j.toggle then .block .sequence
  else if k = .image ∧ j.swathsLeft = 0 then .block .noImage
  else if k = .strip ∧ j.stripDue = false then .block .noStrip
  else .go j

/-- The Job Unit's verdict on a swath (R74). A job restored VOIDED with the cause MEDIA_END it had before the loss (R27) is
answered MEDIA_END, by R74, where R88 says NOT_LIVE of every job that was PRINTING or FINISHING at the loss (DESIGN CHOICE,
log 53). -/
def State.swathVerdict (s : State) (tag : Nat) (k : SwathKind) (toggle : Bool) : SwathVerdict :=
  match s.job? tag with
  | none => .block .unknownTag
  | some j =>
    match j.state with
    | .deferred | .settled => .block .notLive
    | .voided => if j.cause = some .mediaEnd then .block .mediaEnd else .block .notLive
    | .admitted => .notBegun
    | .printing | .finishing => j.sequenceVerdict k toggle

/-! ### Accepting a swath (R80, R81, R14) -/

/-- The job record advanced by an accepted swath: toggle, last accepted kind and the count for its kind; the last strip
swath makes the strip PRINTED (R14, R77). -/
def Job.advance (j : Job) (k : SwathKind) : Job :=
  match k with
  | .image => { j with toggle := !j.toggle, lastKind := some .image, swathsLeft := j.swathsLeft - 1 }
  | .strip =>
    { j with
      toggle := !j.toggle
      lastKind := some .strip
      stripLeft := j.stripLeft - 1
      strip := if j.stripLeft - 1 = 0 then .printed else j.strip }

/-- The job record after its strip decision (R135). -/
def Job.decide (j : Job) (yes : Bool) (swaths : Nat) : Job :=
  if yes then { j with lastStrip := some true, strip := .planned, stripLeft := swaths } else { j with lastStrip := some false }

/-- The Check Unit's counter after a strip decision (R133, R135). -/
def State.countPrint (s : State) (yes : Bool) : State :=
  if yes then s else { s with check := { s.check with counter := satAdd 255 s.check.counter 1 } }

/-- What the last image swath does after its draws: the strip decision, the job's cuts, and FINISHING when no strip
follows (R14, R15, R80). -/
def State.lastImage (s : State) (j : Job) : State × HeadAnswer :=
  let yes := s.stripWanted j
  let s1 := ((s.setJob (j.decide yes s.check.plan.stripSwaths)).countPrint yes).planJobCuts j.tag
    (imageCuts s.media.geometry j yes)
  if yes then (s1, .accept .yes) else (s1.finishAndTest j.tag, .accept .no)

/-- Advance the job after the draws of an accepted swath, and end its printing where the swath ends it (R80). -/
def State.advanceSwath (s : State) (tag : Nat) (k : SwathKind) : State × HeadAnswer :=
  match s.job? tag with
  | none => (s, .accept .none)
  | some j0 =>
    let j := j0.advance k
    let s1 := s.setJob j
    match k with
    | .image => if j.swathsLeft = 0 then s1.lastImage j else (s1, .accept .none)
    | .strip => if j.stripLeft = 0 then (s1.finishAndTest tag, .accept .none) else (s1, .accept .none)

/-- A swath whose verdict is GO: metered speculatively, tested against the HOLD causes, and applied when none holds
(R76, R80): the commits its steps call for are made behind them. The notices of a failed coverage test are raised
whatever the answer. -/
def State.takeGo (s : State) (tag : Nat) (k : SwathKind) (counts : DropCounts) : State × HeadAnswer :=
  let v := s.draws counts
  let short := s.uncovered v
  let s1 := s.raiseUncovered short
  if s.phase = .flush then (s1, .hold .power)
  else if s.media.cutter = .jammed then (s1, .hold .jammed)
  else
    match short with
    | c :: _ => (s1, .hold (.inkOut c))
    | [] =>
      let r := (s.gather.applyFrame (some (tag, k)) v (s.candidates counts)).advanceSwath tag k
      (r.1.handGathered, r.2)

/-- A SWATH handled to its answer by the tests of section 4.2 in their order. In FLUSH a swath for an ADMITTED job is held
with NOT_BEGUN, by R74 and the order of those tests, where R200's table says POWER (DESIGN CHOICE, log 55). -/
def State.takeSwath (s : State) (tag kind : Nat) (toggle : Bool) (counts : DropCounts) : State × HeadAnswer :=
  match swathKindOf kind with
  | none => (s, .crcBad)
  | some k =>
    if s.phase = .restore then (s, .hold .power)
    else
      match s.swathVerdict tag k toggle with
      | .block c => (s, .block c)
      | .notBegun => (s, .hold .notBegun)
      | .repeated i => (s, .accept i)
      | .go _ => s.takeGo tag k counts

/-- Command SWATH. -/
def execSwath (tag kind : Nat) (toggle : Bool) (counts : DropCounts) (s : State) : Host.Outcome State Fault Refusal :=
  .next (s.headFrame fun s => s.takeSwath tag kind toggle counts)

/-! ### PURGE (R82, R83, R68) -/

/-- The purge is a repeat of the last accepted one (R82). -/
def State.purgeRepeat (s : State) (toggle : Bool) : Bool := s.head.purgeToggle == some (!toggle)

/-- An accepted new purge: metered to maintenance, and the expected purge toggle set (R68, R82, R83). Its commits are
made behind its effects, as a swath's are (DESIGN CHOICE, log 39). -/
def State.applyPurge (s : State) (toggle : Bool) (counts : DropCounts) : State :=
  let s' := (s.gather.applyFrame none (s.draws counts) (s.candidates counts)).handGathered
  { s' with head := { s'.head with purgeToggle := some (!toggle) } }

/-- A PURGE handled to its answer (R73, R82, R83). -/
def State.takePurge (s : State) (toggle : Bool) (counts : DropCounts) : State × HeadAnswer :=
  if s.phase = .restore then (s, .hold .power)
  else if s.purgeRepeat toggle then (s, .accept .none)
  else if s.phase = .flush then (s, .hold .power)
  else
    match s.uncovered (s.draws counts) with
    | c :: cs => (s.raiseUncovered (c :: cs), .hold (.inkOut c))
    | [] => (s.applyPurge toggle counts, .accept .none)

/-- Command PURGE. -/
def execPurge (toggle : Bool) (counts : DropCounts) (s : State) : Host.Outcome State Fault Refusal :=
  .next (s.headFrame fun s => s.takePurge toggle counts)

/-! ### ROW_STATUS and ROW_MAP_QUERY (R84 to R86) -/

/-- The PRINTING job that uses the channel is flagged ROW_FAULT_DURING (R85). The flag waits for the job's next commit
(DEDUCED, log 40). -/
def State.flagRowFault (s : State) (c : Chan) : State :=
  match s.printing? with
  | some j => if j.uses c then s.setJob { j with flags := { j.flags with rowFaultDuring := true } } else s
  | none => s

/-- The effects of a taken ROW_STATUS (R85). -/
def State.writeFault (s : State) (c : Chan) (i : Fin 4) (f : RowFault) : State :=
  let g := s.segment c i
  let g' := { g with fault := f }
  let s1 := s.setSegment c i g'
  if f = .ok then s1
  else
    let s2 := s1.flagRowFault c
    if f ≠ g.fault ∧ g'.masked = false then s2.raiseRowFault c i else s2

/-- A ROW_STATUS handled to its answer (R73, R84). -/
def State.takeRowStatus (s : State) (channel segment fault : Nat) : State × HeadAnswer :=
  if s.phase = .restore then (s, .ack .notReady)
  else
    match chanOf channel, segmentOf segment, rowFaultOf fault with
    | some c, some i, some f => (s.writeFault c i f, .ack .taken)
    | _, _, _ => (s, .ack .badField)

/-- Command ROW_STATUS. -/
def execRowStatus (channel segment fault : Nat) (s : State) : Host.Outcome State Fault Refusal :=
  .next (s.headFrame fun s => s.takeRowStatus channel segment fault)

/-- The row map: 48 entries in the order channel 0 segment 0 to channel 11 segment 3, true for SPARE (R86). -/
def State.rowMap (s : State) : List Bool :=
  Chan.list.flatMap fun c => (List.finRange 4).map fun i => (s.segment c i).spare != .unused

/-- A ROW_MAP_QUERY handled to its answer (R73, R86). -/
def State.takeRowMapQuery (s : State) : State × HeadAnswer :=
  if s.phase = .restore then (s, .ack .notReady) else (s, .rowMap s.rowMap)

/-- Command ROW_MAP_QUERY. -/
def execRowMapQuery (s : State) : Host.Outcome State Fault Refusal := .next (s.headFrame State.takeRowMapQuery)

/-! ### Frames given raw (R72) -/

/-- A frame whose bytes are given: CRC_BAD when its CRC fails or it is malformed, else handled as the frame it spells
(R72). -/
def State.takeHeadBytes (s : State) (l : List Byte) : State × HeadAnswer :=
  match headCommand l with
  | some (.swath tag k t d) => s.takeSwath tag k t d
  | some (.purge t d) => s.takePurge t d
  | some (.rowStatus c i f) => s.takeRowStatus c i f
  | some .rowMapQuery => s.takeRowMapQuery
  | _ => (s, .crcBad)

/-- Command HEAD_FRAME_CRC_BAD: the bytes of a Head Link frame, given raw. -/
def execHeadFrameCrcBad (frame : List Byte) (s : State) : Host.Outcome State Fault Refusal :=
  .next (s.headFrame fun s => s.takeHeadBytes frame)

end Sys2Proof.Machine
end

