-- ==== Sys2Proof/Machine/MediaLink.lean ====
section
/-! DEFINITION. The Media Link (spec/06, R110 to R126): FEED, CUT_DONE, CUT_FAULT, ROLL_PRESENT, ROLL_END, and the
expiry of the cut timer. -/

namespace Sys2Proof.Machine

/-! ### Handling one message -/

/-- FEED (R110, R111): discarded with a delta outside its range or while no roll is ACTIVE. -/
def State.takeFeed (s : State) (delta : Int) : State :=
  if delta < -2000000 ∨ 2000000 < delta then s
  else
    match s.activeRoll with
    | some r => s.applyFeed r delta
    | none => s

/-- CUT_DONE (R118): ignored unless CUTTING (R123). -/
def State.takeCutDone (s : State) : State := if s.media.cutter = .cutting then s.endCut false else s

/-- CUT_FAULT (R120): ignored unless CUTTING (R123). -/
def State.takeCutFault (s : State) (code : Nat) : State :=
  if s.media.cutter = .cutting then s.jam (.fault code) else s

/-- Write the recorded presence of a slot (R113). -/
def Media.setPresence (m : Media) (p : RollSlot) (v : Presence) : Media :=
  match p with
  | .upper => { m with upper := v }
  | .lower => { m with lower := v }

/-- An ABSENT report takes the roll in the slot out, by its state (R113, R107, R126). -/
def State.absent (s : State) (r : Roll) : State :=
  match r.state with
  | .active => s.endActiveRoll r true
  | .loaded => s.takeOutRoll r
  | .ended => (s.setRoll { r with slot := none }).commit [.roll r.id]
  | .shelved => s

/-- ROLL_PRESENT (R113); a slot or presence outside its range is discarded (R110). -/
def State.takeRollPresent (s : State) (slot presence : Nat) : State :=
  match rollSlotOf slot, presenceOf presence with
  | some p, some v =>
    let s' := s.setMedia fun m => m.setPresence p v
    match v, s.rollIn p with
    | .absent, some r => s'.absent r
    | _, _ => s'
  | _, _ => s

/-- ROLL_END of a LOADED roll (R126): ENDED with its length set to its fed length, the roll law tested, ROLL_END raised
and the roll committed, behind the withdrawn jobs and the notice (DESIGN CHOICE, log 58). -/
def State.endLoadedRoll (s : State) (r : Roll) : State :=
  let s1 := (s.setRoll { r with length := r.fed, state := .ended }).enforceRoll r.id
  (s1.raise (.num r.id) (.rollEnd r.fed 0 false)).commit [.roll r.id]

/-- ROLL_END (R125, R126): ignored for an empty slot or an ENDED roll. -/
def State.takeRollEnd (s : State) (slot : Nat) : State :=
  match (rollSlotOf slot).bind s.rollIn with
  | some r =>
    match r.state with
    | .active => s.endActiveRoll r false
    | .loaded => s.endLoadedRoll r
    | .shelved | .ended => s
  | none => s

/-- Handle one Media Link message. -/
def State.handleMedia (m : MediaMsg) (s : State) : State :=
  match m with
  | .feed d => s.takeFeed d
  | .cutDone => s.takeCutDone
  | .cutFault c => s.takeCutFault c
  | .rollPresent p v => s.takeRollPresent p v
  | .rollEnd p => s.takeRollEnd p

/-! ### Arrival -/

/-- A Media Link message arrives: discarded in RESTORE and without power (R200), held while the commit groups of the
message before it are not complete (R194), and handled at once otherwise. -/
def State.mediaArrives (s : State) (m : MediaMsg) : State :=
  let s := s.quiet
  if !s.takesMessages then s
  else if s.media.waiting.isEmpty && s.media.held.isEmpty then s.takeMedia (State.handleMedia m)
  else s.setMedia fun u => { u with held := u.held ++ [m] }

/-- Command FEED. -/
def execFeed (delta : Int) (s : State) : Host.Outcome State Fault Refusal := .next (s.mediaArrives (.feed delta))

/-- Command CUT_DONE. -/
def execCutDone (s : State) : Host.Outcome State Fault Refusal := .next (s.mediaArrives .cutDone)

/-- Command CUT_FAULT. -/
def execCutFault (code : Nat) (s : State) : Host.Outcome State Fault Refusal := .next (s.mediaArrives (.cutFault code))

/-- Command ROLL_PRESENT. -/
def execRollPresent (slot presence : Nat) (s : State) : Host.Outcome State Fault Refusal :=
  .next (s.mediaArrives (.rollPresent slot presence))

/-- Command ROLL_END. -/
def execRollEnd (slot : Nat) (s : State) : Host.Outcome State Fault Refusal := .next (s.mediaArrives (.rollEnd slot))

/-- Command CUT_TIMEOUT: the cut timer of the part itself expires, which is no message of the link and waits for nothing
(R120, R123). -/
def execCutTimeout (s : State) : Host.Outcome State Fault Refusal :=
  .next
    (if s.takesMessages && s.media.cutter == .cutting then (s.quiet.beginHandling.jam .timeout).endHandling s.handling
     else s.quiet)

end Sys2Proof.Machine
end

