-- ==== Sys2Proof/Machine/SensorLink.lean ====
section
/-! DEFINITION. The Sensor Link (spec/07, R136): READING. -/

namespace Sys2Proof.Machine

/-- A READING arrives: discarded in RESTORE and without power (R136, R200), held while the commit groups of the one
before it are not complete (R194), and handled at once otherwise. -/
def State.readingArrives (s : State) (m : ReadingMsg) : State :=
  let s := s.quiet
  if !s.takesMessages then s
  else if s.check.waiting.isEmpty && s.check.held.isEmpty then s.takeSensor fun s => s.takeReading m
  else { s with check := { s.check with held := s.check.held ++ [m] } }

/-- Command READING. -/
def execReading (m : ReadingMsg) (s : State) : Host.Outcome State Fault Refusal := .next (s.readingArrives m)

end Sys2Proof.Machine
end

