-- ==== Sys2Proof/Machine/StoreOps.lean ====
section
/-! DEFINITION. What follows the writes of the Record Store: a commit group completes or fails (R193, R197), the dirty
marks it erases (R195), the parties that waited for it go on (R194, R211), and the flush goes on (R201). -/

namespace Sys2Proof.Machine

/-! ### Groups and copies -/

/-- The group in the store's queue that carries a number, alone or joined (R193). -/
def Store.openGroup (st : Store) (n : Nat) : Option OpenGroup := st.groups.find? fun g => g.nums.contains n

/-- The copy an image write makes (R192). -/
def Write.copy (w : Write) (sound : Bool) : Copy := ⟨w.group, w.image, sound⟩

/-- Write the images of a list that are not written yet; `sound` says for each whether its check reads back (R193,
R197). -/
def writeImages (closed : List Nat) (sound : Write → Bool) (ws : List Write) (l : List StoredRecord) : List StoredRecord :=
  ws.foldl (fun l w => if w.stage = .written then l else writeCopy closed w.key (w.copy (sound w)) l) l

/-- The record has not changed since its image was taken into a group (R195). -/
def State.unmoved (s : State) (w : Write) : Bool := w.image == s.image w.key && !s.store.changed.contains w.key

/-- The dirty marks left when a group completes: it erases those of its records that have not changed since (R195). -/
def State.marksLeft (s : State) (ws : List Write) : List RecKey :=
  s.store.dirty.filter fun k => !ws.any fun w => w.key == k && s.unmoved w

/-- The groups `done` have ended and left `rest` and `unsaved`: the next write is started, and the commit points that wait
for no group any more hand theirs (R193, R194). -/
def State.follow (s : State) (done : List Nat) (rest : List OpenGroup) (unsaved : List RecKey) : State :=
  let left := s.store.behind.map fun (p : CommitPoint) => { p with after := p.after.filter fun n => !done.contains n }
  State.placeThose (fun p => p.after.isEmpty)
    { s with store := { s.store with groups := startWrite rest, behind := left, unsaved := unsaved } }

/-- A group's close entry is written: its copies become valid, the records it has taken off the unsaved list leave it,
and its unmoved records become CLEAR (R193, R195, R199). It is the last completed group (R221); of joined groups, whose
one close entry closes them all, the highest number is (DESIGN CHOICE, log 50). A record that became unsaved after the
group was handed stays unsaved (DESIGN CHOICE, log 59). -/
def State.closeGroup (s : State) (g : OpenGroup) : State :=
  let st := s.store
  { s with store :=
      { st with
        records := writeImages st.closed (fun _ => true) g.writes st.records
        closed := st.closed ++ g.nums
        dirty := s.marksLeft g.writes
        lastDone := g.nums.foldl max 0 } }.follow g.ids (st.groups.filter fun x => x != g)
    (st.unsaved.filter fun k => !(g.writes.any fun w => w.key == k && w.retry))

/-- A newer image of a record has failed: a group that took the record off the unsaved list with an older one no longer
saves it (R199; DEDUCED, log 41). -/
def OpenGroup.outdated (g : OpenGroup) (failed : List Write) : OpenGroup :=
  { g with writes := g.writes.map fun w =>
      { w with retry := w.retry && !failed.any fun v => v.key == w.key && decide (w.group < v.group) } }

/-- A group ends without a close entry: every record of it is unsaved (R197). An image that is held back is not written
over the copy of the group it waits for (R193; DEDUCED, log 41). -/
def State.dropGroup (s : State) (g : OpenGroup) (sound : Write → Bool) : State :=
  let st := s.store
  { s with store :=
      { st with
        records := writeImages st.closed sound (g.writes.filter fun w => !heldBack st.groups g w.key) st.records } }.follow
    g.ids ((st.groups.filter fun x => x != g).map fun (x : OpenGroup) => x.outdated g.writes)
    (st.unsaved ++ g.writes.map Write.key).dedup

/-! ### The parties that wait (R194, R211) -/

/-- A request that waits for no group any more is answered (R211). -/
def State.freePort (s : State) (done : List Nat) : State :=
  match s.port.buffer with
  | .pending code seq st b groups =>
    let left := groups.filter fun n => !done.contains n
    if left.isEmpty then s.respond code seq st b
    else { s with port := { s.port with buffer := .pending code seq st b left } }
  | _ => s

/-- A Head Link answer that waits for no group any more is sent (R71, R194). -/
def State.freeHead (s : State) (done : List Nat) : State :=
  match s.head.forming with
  | some a =>
    let left := a.groups.filter fun n => !done.contains n
    if left.isEmpty then { s with head := { s.head with forming := none } }.send (.head a.answer)
    else { s with head := { s.head with forming := some { a with groups := left } } }
  | none => s

/-- Take the held Media Link messages, one after the other, until one has to be waited for (R194). -/
def State.drainMedia : Nat → State → State
  | 0, s => s
  | n + 1, s =>
    match s.media.waiting, s.media.held with
    | [], m :: ms => State.drainMedia n ((s.setMedia fun u => { u with held := ms }).takeMedia (State.handleMedia m))
    | _, _ => s

/-- Take the held READING messages, one after the other, until one has to be waited for (R194). -/
def State.drainSensor : Nat → State → State
  | 0, s => s
  | n + 1, s =>
    match s.check.waiting, s.check.held with
    | [], m :: ms =>
      State.drainSensor n ({ s with check := { s.check with held := ms } }.takeSensor fun s => s.takeReading m)
    | _, _ => s

/-- The groups a link still waits for. -/
def State.freeLinks (s : State) (done : List Nat) : State :=
  { s with
    media := { s.media with waiting := s.media.waiting.filter fun n => !done.contains n }
    check := { s.check with waiting := s.check.waiting.filter fun n => !done.contains n } }

/-- The notices that waited for the groups are raised (R194). -/
def State.freeNotices (s : State) (done : List Nat) : State := { s with notices := s.notices.release done }

/-- Every party that waited for the groups goes on (R194): the handlings' notices first, then the response, the answer
and the next messages. -/
def State.releaseWaiting (s : State) (done : List Nat) : State :=
  let s1 := (((s.freeNotices done).freePort done).freeHead done).freeLinks done
  let s2 := s1.drainMedia s1.media.held.length
  s2.drainSensor s2.check.held.length

/-! ### The flush (R201) -/

/-- The flush once a group has ended (R201). No record of the group is left unsaved by the flush any more. The end of the
flush's own group takes it out of hand; after a failure its records are handed once more, and after the failure of that
further group they, with every other unsaved record, are left unsaved. -/
def Flush.ended (f : Flush) (g : OpenGroup) (ok : Bool) (unsaved : List RecKey) : Flush :=
  let f' := { f with givenUp := f.givenUp.filter fun k => !g.writes.any fun w => w.key == k }
  if (f.group.map fun n => g.ids.contains n).getD false = false then f'
  else if ok then { f' with group := none, retried := false }
  else if f.retried then { f' with group := none, retried := false, givenUp := unsaved }
  else { f' with group := none, retried := true }

/-- A group has ended, with a close entry or without one: the flush in hand follows it (R201). -/
def State.flushEnded (s : State) (g : OpenGroup) (ok : Bool) : State :=
  { s with store := { s.store with flush := s.store.flush.ended g ok s.store.unsaved } }

/-- A commit group completes (R193): its copies become valid, the waiting parties go on, and the flush goes on. -/
def State.completeGroup (s : State) (g : OpenGroup) : State :=
  (((s.closeGroup g).flushEnded g true).releaseWaiting g.ids).advanceFlush

/-- A commit group fails (R197): the notices `faults` are raised, the waiting parties go on as if it had completed
(R198), and the flush goes on. -/
def State.failGroup (s : State) (g : OpenGroup) (sound : Write → Bool) (faults : State → State) : State :=
  (((faults (s.dropGroup g sound)).flushEnded g false).releaseWaiting g.ids).advanceFlush

/-! ### Write failures (R197, R198) -/

/-- The STORE_FAULT notice of a failed image write (R198). -/
def State.raiseWriteFault (s : State) (k : RecKey) : State :=
  s.raise (.region (regionOf k)) (.writeFault (some k) (s.store.unsavedIn (regionOf k)))

/-- Image writes of a group fail (R197): only images not written yet can. -/
def State.failImages (s : State) (g : OpenGroup) (keys : List RecKey) : State :=
  let bad := g.writes.filter fun w => keys.contains w.key && w.stage != .written
  if bad.isEmpty then s
  else
    s.failGroup g (fun w => !keys.contains w.key) fun s => bad.foldl (fun s w => s.raiseWriteFault w.key) s

/-- The subject a subject code of STORE_FAULT stands for: a region, or STORE. -/
def faultSubject (n : Nat) : Subject :=
  match Region.list[n]? with
  | some r => .region r
  | none => .store

/-- The subject of the notice for a failed close entry: the manual names no region for it (DESIGN CHOICE, log 7). -/
def closeSubject (n : Nat) : Subject := faultSubject (Config.closeFaultSubject n % 8)

/-- The STORE_FAULT notice of a failed close entry: its subject and its unsaved count are free values (DESIGN CHOICE, log
7). -/
def State.raiseCloseFault (s : State) (n : Nat) : State :=
  s.raise (closeSubject n) (.writeFault none (Config.faultCount n))

/-- The close entry of a group fails (R197). -/
def State.failClose (s : State) (g : OpenGroup) : State :=
  s.failGroup g (fun _ => true) fun s => (s.raiseCloseFault s.fresh).freshen

/-- A dirty mark written just before fails (R195, R198): the mark state stays CLEAR. -/
def State.failMark (s : State) (k : RecKey) : State :=
  if s.store.dirty.contains k then
    { s with store := { s.store with dirty := s.store.dirty.erase k } }.raise .store
      (.writeFault (some k) (s.store.unsavedIn (regionOf k)))
  else s

/-- The clean marker written just before fails (R198). The unsaved count of its notice belongs to no region: a free
value (DESIGN CHOICE, log 7). -/
def State.failMarker (s : State) : State :=
  if s.store.marker then
    ({ s with store := { s.store with marker := false } }.raise .store (.writeFault none (Config.faultCount s.fresh))).freshen
  else s

/-- A write failure of the store while it is at work (R197, R198). -/
def State.failedWrite (s : State) : FailedWrite → State
  | .images n keys =>
    match s.store.openGroup n with
    | some g => s.failImages g keys
    | none => s
  | .close n =>
    match s.store.openGroup n with
    | some g => s.failClose g
    | none => s
  | .mark k => s.failMark k
  | .marker => s.failMarker

/-- A write failure (R197, R198). In RESTORE and without power no group is open and no mark or marker is being written:
the event has no meaning there (DESIGN CHOICE, log 19). -/
def State.writeFails (s : State) (w : FailedWrite) : State := if s.takesMessages then s.failedWrite w else s

/-! ### The store at work (R193, DESIGN CHOICE, log 1) -/

/-- The image being written, if one is. -/
def Store.inFlight (st : Store) : Option Write :=
  (st.groups.flatMap OpenGroup.writes).find? fun w => w.stage == .writing

/-- The image being written is written, and the next one is started (R193). -/
def State.endImage (s : State) (w : Write) : State :=
  let st := s.store
  { s with store :=
      { st with
        records := writeCopy st.closed w.key (w.copy true) st.records
        groups := startWrite (takeTurns st.groups) } }

/-- No image can be written, because the open groups wait for each other: they are joined, and one close entry closes
them all, so that each takes effect whole (R193; DESIGN CHOICE, log 41). -/
def State.joinGroups (s : State) : State :=
  let all := s.store.groups
  let joined : OpenGroup :=
    { ids := all.flatMap OpenGroup.ids, nums := all.flatMap OpenGroup.nums,
      writes := newestWrites (all.flatMap OpenGroup.writes) }
  if all.isEmpty then s else { s with store := { s.store with groups := startWrite [joined] } }

/-- One write of the store at work in RUN and FLUSH: the close entry of a group whose images are all written, or the
image being written (DESIGN CHOICE, log 1). -/
def State.storeWork (s : State) : State :=
  match s.store.groups.find? OpenGroup.allWritten with
  | some g => s.completeGroup g
  | none =>
    match s.store.inFlight with
    | some w => s.endImage w
    | none => s.joinGroups

end Sys2Proof.Machine
end

