-- ==== Sys2Proof/Machine/Restore.lean ====
section
/-! DEFINITION. The restore (R204 to R208): what stands in the store, the working records rebuilt from it in stages, the
commit of what the restore changed, and its notices. -/

namespace Sys2Proof.Machine

/-! ### What stands in the store (R192, R205) -/

/-- The copies of a stored record that are there. -/
def StoredRecord.copies (r : StoredRecord) : List Copy := r.copyA.toList ++ r.copyB.toList

/-- A record is lost: none of its copies is valid, and a closed group wrote one of them (R205). -/
def Store.lost (st : Store) (r : StoredRecord) : Bool :=
  (r.standing st.closed).isNone && r.copies.any fun c => st.closed.contains c.group

/-- The number of records lost in a region (R205). -/
def Store.lostIn (st : Store) (g : Region) : Nat :=
  (st.records.filter fun r => regionOf r.key == g && st.lost r).length

/-- The highest group number on any copy or close entry (R205). -/
def Store.highest (st : Store) : Nat :=
  ((st.records.flatMap StoredRecord.copies).map Copy.group ++ st.closed).foldl max 0

/-- The images that stand for records of the store, in the store's order. -/
def Store.images (st : Store) : List (RecKey × Image) :=
  st.records.filterMap fun r => (r.standing st.closed).map fun c => (r.key, c.image)

/-- A lot or roll found with its dirty mark and no clean marker is UNCERTAIN (R206). -/
def Store.flags (st : Store) (k : RecKey) : Bool := !st.marker && st.dirty.contains k

/-! ### Stages 1 to 4: CONFIG, LOTS, ROLLS, PRICES, COUNTERS, EDITIONS -/

/-- A segment restored from its committed part (R100). -/
def SegmentImage.restore (g : SegmentImage) : Segment :=
  { fault := .ok, maskMissing := g.maskMissing, maskWeeping := g.maskWeeping, spare := if g.hard then .hard else .unused }

/-- A channel's fixed fields, gain, segments and slot fields as the store holds them, or the defaults (R49, R100). -/
def Store.channel (st : Store) (c : Chan) : Channel :=
  let base : Channel :=
    match st.standing (.channel c) with
    | some (.channel cfg segs) => { cfg := cfg, segments := Vector.ofFn fun i => (segs.get i).restore }
    | _ => {}
  match st.standing (.slots c) with
  | some (.slots r) => { base with slots := r }
  | _ => base

/-- A lot as restored, with the flag of R206 (R50). -/
def Store.restoreLot (st : Store) (l : Lot) : Lot := { l with uncertain := l.uncertain || st.flags (.lot l.code) }

/-- The lots as restored (R50). -/
def Store.restoreLots (st : Store) : List Lot :=
  st.images.foldl
    (fun l p =>
      match p.2 with
      | .lot x => insertBy Lot.code (st.restoreLot x) l
      | _ => l)
    []

/-- A roll as restored: ACTIVE becomes LOADED, the reserved total is 0, with the flag of R206 (R128). -/
def Store.restoreRoll (st : Store) (r : Roll) : Roll :=
  { r with
    state := if r.state = .active then .loaded else r.state
    reserved := 0
    uncertain := r.uncertain || st.flags (.roll r.id) }

/-- The rolls as restored (R128). -/
def Store.restoreRolls (st : Store) : List Roll :=
  st.images.foldl
    (fun l p =>
      match p.2 with
      | .roll x => insertBy Roll.id (st.restoreRoll x) l
      | _ => l)
    []

/-- The editions as restored, with the proving stale mark cleared (R172). -/
def Store.restoreEditions (st : Store) : List Edition :=
  st.images.foldl
    (fun l p =>
      match p.2 with
      | .edition e => insertBy Edition.id { e with stale := false } l
      | _ => l)
    []

/-- A slot that names a lot that is absent is empty (R205). -/
def keepPresent (lots : List Lot) (code : Option Nat) : Option Nat :=
  code.filter fun n => lots.any fun l => l.code == n

/-- A slot holds a LOADED lot. -/
def holdsLoaded (lots : List Lot) (code : Option Nat) : Bool :=
  (code.map fun n => lots.any fun l => l.code == n && l.state == .loaded).getD false

/-- The slot fields of a channel once the lots are known: an active slot that names an absent lot moves to the other
slot where it holds a LOADED lot, and to none otherwise (R205). -/
def SlotRecord.restore (lots : List Lot) (r : SlotRecord) : SlotRecord :=
  let r' : SlotRecord := { r with slotA := keepPresent lots r.slotA, slotB := keepPresent lots r.slotB }
  match r.active with
  | some t =>
    if (r'.at t).isSome then r'
    else { r' with active := if holdsLoaded lots (r'.at t.other) then some t.other else none }
  | none => r'

/-- The value of a fixed record, or of a region that holds none. -/
def Store.fixed (st : Store) (k : RecKey) (base : Image) : Image := (st.standing k).getD base

/-- The part before the restore reads a record: every working record at its start-up value (R49, R128, R153, R190,
R213). -/
def State.blank (s : State) : State :=
  { pending := s.pending, phase := s.phase, cause := s.cause, pfail := s.pfail, port := s.port, store := s.store,
    out := s.out, fresh := s.fresh }

/-- Stages 1 to 4 (R207). Stored jobs are put in as they stand. -/
def State.rebuildRecords (s : State) : State :=
  let st := s.store
  let lots := st.restoreLots
  let s1 : State :=
    { s.blank with
      lots := lots
      rolls := st.restoreRolls
      editions := st.restoreEditions
      channels := Vector.ofFn fun c =>
        let ch := st.channel c
        { ch with slots := ch.slots.restore lots }
      jobs := st.images.foldl
        (fun l p =>
          match p.2 with
          | .job j => insertBy Job.tag j l
          | _ => l)
        [] }
  let s2 : State := match st.standing .plan with
    | some (.plan p) => { s1 with check := { s1.check with plan := p } }
    | _ => s1
  let s3 : State := match st.standing .geometry with
    | some (.geometry g) => { s2 with media := { s2.media with geometry := g } }
    | _ => s2
  let s4 : State := match st.standing .stripMode with
    | some (.stripMode m) => { s3 with stripMode := m }
    | _ => s3
  let s5 : State := match st.standing .prices with
    | some (.prices t) => { s4 with prices := t, pricesBad := decide (checksumOf t.entries ≠ t.checksum) }
    | _ => s4
  match st.standing .counters with
  | some (.counters n d o) => { s5 with seqCounter := n, day := d, overhead := o }
  | _ => s5

/-- The channel states and expired flags found at restore, without notices (R49). -/
def State.rebuildChannels (s : State) : State :=
  { s with channels := Vector.ofFn fun c =>
      { s.chan c with
        state := channelStateOf (s.remainingTotal c) (s.chan c).cfg.reserve
        expired := ((s.activeLot c).map Lot.expired).getD false } }

/-! ### Stage 5: jobs (R27) -/

/-- A job voided at restore, before it is costed; a void cause it has stays (R27; log 53). -/
def State.interrupted (s : State) (j : Job) : Job :=
  { (j.unheld.doom .interrupted) with
    state := .voided
    flags := { j.flags with uncertain := j.flags.uncertain || s.uncertainIn j } }

/-- Take one job record into its state after start-up; a voided one is costed and carried (R27). -/
def State.restoreJob (s : State) (j : Job) : State :=
  match j.state with
  | .admitted => s.setJob { j.unheld with state := .deferred, seqNo := none }
  | .printing | .finishing => s.costAndCarry (s.interrupted j)
  | .deferred | .settled | .voided => s

/-- The jobs of the store that the restore voids. -/
def State.interruptedJobs (s : State) : List Job := s.jobs.filter fun j => j.state == .printing || j.state == .finishing

/-! ### Stage 6: the commit of what the restore changed -/

/-- The records a restore may change (R207). -/
def State.restoreKeys (s : State) : List RecKey :=
  Chan.list.map RecKey.slots ++ s.lots.map (fun l => .lot l.code) ++ s.rolls.map (fun r => .roll r.id) ++
    s.editions.map (fun e => .edition e.id) ++ s.jobs.map (fun j => .job j.tag) ++ [.counters]

/-- The records stages 1 to 5 changed: their image differs from the one that stands, or from that of a region that holds
none (R207). -/
def State.restoreChanged (s : State) : List RecKey :=
  s.restoreKeys.filter fun k => s.image k != s.store.fixed k (({} : State).image k)

/-- What stage 6 leaves: the state, the images that failed, and the index of the free values of a failed close entry. -/
structure RestoreCommit where
  state : State
  failed : List RecKey
  closeFault : Option Nat

/-- Stage 6 (R207): one commit group of every changed record; with success the dirty marks and the clean marker are
erased; with failing images, or a failing close entry (R197), its records are unsaved and marks and marker stay. -/
def State.restoreCommit (s : State) (failed : List RecKey) (closeFails : Bool) : RestoreCommit :=
  let st := s.store
  let num := st.highest + 1
  let ws := s.restoreChanged.map fun k => ({ key := k, image := s.image k, group := num, stage := .waiting } : Write)
  let bad := (ws.map Write.key).filter fun k => failed.contains k
  let records := writeImages st.closed (fun w => !bad.contains w.key) ws st.records
  let clear : Store := { st with records := records, count := num, changed := [], groups := [], behind := [] }
  let left : State := { s with store := { clear with unsaved := ws.map Write.key, lastDone := st.closed.foldl max 0 } }
  if !bad.isEmpty then ⟨left, bad, none⟩
  else if closeFails && !ws.isEmpty then ⟨left.freshen, [], some s.fresh⟩
  else
    ⟨{ s with store :=
        { clear with closed := st.closed ++ [num], dirty := [], marker := false, unsaved := [], lastDone := num } }, [], none⟩

/-! ### Stages 1 to 6 together -/

/-- The number of lots that this restore flags (R206). -/
def Store.lotsFlagged (st : Store) : Nat := (st.restoreLots.filter fun l => st.flags (.lot l.code)).length

/-- The number of rolls that this restore flags (R206). -/
def Store.rollsFlagged (st : Store) : Nat := (st.restoreRolls.filter fun r => st.flags (.roll r.id)).length

/-- The regions with lost records, one entry for each record (R205). -/
def Store.lostRegions (st : Store) : List Region := Region.list.flatMap fun g => List.replicate (st.lostIn g) g

/-- Stages 1 to 6 of the restore: the working records rebuilt, the jobs voided and costed, the changed records
committed, and the report for stage 7 (R207). -/
def State.rebuild (s : State) (failed : List RecKey) (closeFails : Bool) : State :=
  let st := s.store
  let s1 := s.rebuildRecords.rebuildChannels
  let s2 := s1.jobs.foldl (fun s j => s.restoreJob j) s1
  let r := ({ s2 with store := st }).restoreCommit failed closeFails
  let report : RestoreReport :=
    { markerFound := st.marker, voided := s1.interruptedJobs.length, lost := st.lostRegions,
      lotsFlagged := st.lotsFlagged, rollsFlagged := st.rollsFlagged,
      pricesBad := if s2.pricesBad then some (s2.prices.checksum, checksumOf s2.prices.entries) else none,
      failed := r.failed, closeFault := r.closeFault }
  { r.state with store := { r.state.store with restored := some report } }

/-! ### Stage 7 and the end of the restore -/

/-- The STORE_FAULT notice of a failed close entry of stage 6, where its subject is the one given (DESIGN CHOICE, log
7). -/
def State.raiseRestoreClose (s : State) (r : RestoreReport) (u : Subject) : State :=
  match r.closeFault with
  | some n => if closeSubject n = u then s.raiseCloseFault n else s
  | none => s

/-- The STORE_FAULT notices of the restore for one region: its lost records, then its failed images of stage 6, then the
failed close entry (R205, R207). -/
def State.raiseRestoreFaults (s : State) (r : RestoreReport) (g : Region) : State :=
  let n := (r.lost.filter fun x => x == g).length
  let s1 := if n = 0 then s else s.raise (.region g) (.recordsLost n)
  ((r.failed.filter fun k => regionOf k == g).foldl (fun s k => s.raiseWriteFault k) s1).raiseRestoreClose r (.region g)

/-- The notices of the restore, in the order of R207. -/
def State.restoreNotices (s : State) (r : RestoreReport) : State :=
  let s1 := s.raise (.num 0) (.restarted s.cause r.markerFound r.voided r.lost.length)
  let s2 :=
    if r.lotsFlagged + r.rollsFlagged = 0 then s1 else s1.raise (.num 0) (.uncertainRecords r.lotsFlagged r.rollsFlagged)
  let s3 := match r.pricesBad with
    | some p => s2.raise (.num 0) (.pricesBad p.1 p.2)
    | none => s2
  (Region.list.foldl (fun s g => s.raiseRestoreFaults r g) s3).raiseRestoreClose r .store

/-- The restore ends: stage 7, STOP_AT NONE, and RUN, or FLUSH with PFAIL asserted (R128, R207, R208). -/
def State.endRestore (s : State) (r : RestoreReport) : State :=
  let s1 := (s.restoreNotices r).send (.stopAt none)
  let s2 : State := { s1 with phase := .run, store := { s1.store with restored := none } }
  if s.pfail then s2.startFlush else s2

/-- The whole restore, or what is left of it when stages 1 to 6 are done already (R207). -/
def State.restore (s : State) (failed : List RecKey) (closeFails : Bool) : State :=
  match s.store.restored with
  | some r => s.endRestore r
  | none =>
    let s' := s.rebuild failed closeFails
    match s'.store.restored with
    | some r => s'.endRestore r
    | none => s'

end Sys2Proof.Machine
end

