-- ==== Sys2Proof/Machine/Power.lean ====
section
/-! DEFINITION. The events of the supply, the RESET input and the store (spec/10): PFAIL, power-on, RESET, the end of
the restore, a commit group's completion, a write failure, a power loss, and the idle step. -/

namespace Sys2Proof.Machine

/-! ### PFAIL (R201, R203, R208) -/

/-- Command PFAIL_ASSERT: in RUN the flush starts; elsewhere the level is recorded (R201, R203, R208). -/
def execPfailAssert (s : State) : Host.Outcome State Fault Refusal :=
  let s' : State := { s.quiet with pfail := true }
  .next (if s.phase = .run then s'.startFlush else s')

/-- Command PFAIL_DEASSERT: in FLUSH the flush is finished and the store enters RUN (R203). -/
def execPfailDeassert (s : State) : Host.Outcome State Fault Refusal :=
  let s' : State := { s.quiet with pfail := false }
  .next s'.advanceFlush

/-! ### Losing and regaining the working records (R192, R204, R208) -/

/-- The stored records when a write in flight is torn: its copy fails its check (R192). -/
def Store.torn (st : Store) : List StoredRecord :=
  match st.inFlight with
  | some w => writeCopy st.closed w.key (w.copy false) st.records
  | none => st.records

/-- Every working record is discarded; what the store holds stands (R204). A request in hand is abandoned without a
response (R213), and so is a Head Link answer still being formed (DEDUCED, log 48). The commands not taken yet and the
PFAIL level are outside the part. -/
def State.discard (s : State) (p : Phase) (cause : StartCause) : State :=
  { pending := s.pending, phase := p, cause := cause, pfail := s.pfail, fresh := s.fresh,
    store := { records := s.store.torn, closed := s.store.closed, dirty := s.store.dirty, marker := s.store.marker } }

/-- Command POWER_ON (R204). -/
def execPowerOn (s : State) : Host.Outcome State Fault Refusal := .next (s.discard .restore .powerOn)

/-- Command RESET (R204): without power it has no effect (DEDUCED, log 10). -/
def execReset (s : State) : Host.Outcome State Fault Refusal :=
  .next (if s.phase = .off then s.quiet else s.discard .restore .reset)

/-- Command POWER_LOSS (R193, R204, R208). -/
def execPowerLoss (s : State) : Host.Outcome State Fault Refusal := .next (s.discard .off s.cause)

/-! ### The restore and the store -/

/-- Command RESTORE_END: the restore runs to its end, with the images and the close entry that failed in its commit group
(R207). It has no meaning outside RESTORE (DESIGN CHOICE, log 19). -/
def execRestoreEnd (failed : FailedRestore) (s : State) : Host.Outcome State Fault Refusal :=
  .next (if s.phase = .restore then s.quiet.restore failed.images failed.close else s.quiet)

/-- Command COMMIT_GROUP_COMPLETE: the open group with this number completes (R193). -/
def execCommitGroupComplete (group : Nat) (s : State) : Host.Outcome State Fault Refusal :=
  let s := s.quiet
  .next
    (match s.store.openGroup group with
    | some g => s.completeGroup g
    | none => s)

/-- Command STORE_WRITE_FAILURE (R197, R198). -/
def execStoreWriteFailure (w : FailedWrite) (s : State) : Host.Outcome State Fault Refusal := .next (s.quiet.writeFails w)

/-! ### The idle step (DESIGN CHOICE, log 1) -/

/-- What the part does on an empty queue: in RUN and FLUSH the store makes one write; in RESTORE stages 1 to 6 are done;
without power nothing happens. -/
def State.idle (s : State) : State :=
  match s.phase with
  | .off => s.quiet
  | .restore => if s.store.restored.isNone then s.quiet.rebuild [] false else s.quiet
  | .run | .flush => s.quiet.storeWork

end Sys2Proof.Machine
end

