-- ==== Sys2Proof/Machine/Dispatch.lean ====
section
/-! DEFINITION. What each command does: one arm for each row of spec/opcode_table.json, each one call of its meaning. -/

namespace Sys2Proof.Machine

def exec (i : Instr) (s : State) : Host.Outcome State Fault Refusal :=
  match i with
  | .submitJob seq r => Sys2Proof.Machine.execSubmitJob seq r s
  | .admitJob seq tag => Sys2Proof.Machine.execAdmitJob seq tag s
  | .beginJob seq tag => Sys2Proof.Machine.execBeginJob seq tag s
  | .cancelJob seq tag reason => Sys2Proof.Machine.execCancelJob seq tag reason s
  | .readJob seq tag => Sys2Proof.Machine.execReadJob seq tag s
  | .retireJob seq tag => Sys2Proof.Machine.execRetireJob seq tag s
  | .setChannel seq r => Sys2Proof.Machine.execSetChannel seq r s
  | .readChannel seq channel => Sys2Proof.Machine.execReadChannel seq channel s
  | .installLot seq r => Sys2Proof.Machine.execInstallLot seq r s
  | .removeLot seq channel slot => Sys2Proof.Machine.execRemoveLot seq channel slot s
  | .amendLot seq code remaining => Sys2Proof.Machine.execAmendLot seq code remaining s
  | .retireLot seq code => Sys2Proof.Machine.execRetireLot seq code s
  | .readLot seq code => Sys2Proof.Machine.execReadLot seq code s
  | .setDay seq day => Sys2Proof.Machine.execSetDay seq day s
  | .setRowMask seq channel segment missing weeping => Sys2Proof.Machine.execSetRowMask seq channel segment missing weeping s
  | .substituteRow seq channel segment kind => Sys2Proof.Machine.execSubstituteRow seq channel segment kind s
  | .loadRoll seq r => Sys2Proof.Machine.execLoadRoll seq r s
  | .selectRoll seq id => Sys2Proof.Machine.execSelectRoll seq id s
  | .unloadRoll seq id => Sys2Proof.Machine.execUnloadRoll seq id s
  | .retireRoll seq id => Sys2Proof.Machine.execRetireRoll seq id s
  | .readRoll seq id => Sys2Proof.Machine.execReadRoll seq id s
  | .readMedia seq => Sys2Proof.Machine.execReadMedia seq s
  | .setMediaGeometry seq g => Sys2Proof.Machine.execSetMediaGeometry seq g s
  | .clearJamRetry seq => Sys2Proof.Machine.execClearJamRetry seq s
  | .clearJamSkip seq => Sys2Proof.Machine.execClearJamSkip seq s
  | .setCheckPlan seq r => Sys2Proof.Machine.execSetCheckPlan seq r s
  | .forceCheck seq => Sys2Proof.Machine.execForceCheck seq s
  | .readCheckState seq => Sys2Proof.Machine.execReadCheckState seq s
  | .createEdition seq r => Sys2Proof.Machine.execCreateEdition seq r s
  | .adoptReference seq id => Sys2Proof.Machine.execAdoptReference seq id s
  | .rejectReference seq id => Sys2Proof.Machine.execRejectReference seq id s
  | .closeEdition seq id => Sys2Proof.Machine.execCloseEdition seq id s
  | .retireEdition seq id => Sys2Proof.Machine.execRetireEdition seq id s
  | .readEdition seq id => Sys2Proof.Machine.execReadEdition seq id s
  | .writePrice seq r => Sys2Proof.Machine.execWritePrice seq r s
  | .removePrice seq cls code => Sys2Proof.Machine.execRemovePrice seq cls code s
  | .lockPrices seq => Sys2Proof.Machine.execLockPrices seq s
  | .unlockPrices seq => Sys2Proof.Machine.execUnlockPrices seq s
  | .readPrices seq => Sys2Proof.Machine.execReadPrices seq s
  | .setStripAccounting seq mode => Sys2Proof.Machine.execSetStripAccounting seq mode s
  | .readOverhead seq => Sys2Proof.Machine.execReadOverhead seq s
  | .clearOverhead seq => Sys2Proof.Machine.execClearOverhead seq s
  | .readNotices seq => Sys2Proof.Machine.execReadNotices seq s
  | .identify seq => Sys2Proof.Machine.execIdentify seq s
  | .readStatus seq => Sys2Proof.Machine.execReadStatus seq s
  | .requestFrameRefused frame => Sys2Proof.Machine.execRequestFrameRefused frame s
  | .requestFrameDropped frame => Sys2Proof.Machine.execRequestFrameDropped frame s
  | .swath tag kind toggle counts => Sys2Proof.Machine.execSwath tag kind toggle counts s
  | .purge toggle counts => Sys2Proof.Machine.execPurge toggle counts s
  | .rowStatus channel segment fault => Sys2Proof.Machine.execRowStatus channel segment fault s
  | .rowMapQuery => Sys2Proof.Machine.execRowMapQuery s
  | .headFrameCrcBad frame => Sys2Proof.Machine.execHeadFrameCrcBad frame s
  | .feed delta => Sys2Proof.Machine.execFeed delta s
  | .cutDone => Sys2Proof.Machine.execCutDone s
  | .cutFault code => Sys2Proof.Machine.execCutFault code s
  | .cutTimeout => Sys2Proof.Machine.execCutTimeout s
  | .rollPresent slot presence => Sys2Proof.Machine.execRollPresent slot presence s
  | .rollEnd slot => Sys2Proof.Machine.execRollEnd slot s
  | .reading m => Sys2Proof.Machine.execReading m s
  | .pfailAssert => Sys2Proof.Machine.execPfailAssert s
  | .pfailDeassert => Sys2Proof.Machine.execPfailDeassert s
  | .powerOn => Sys2Proof.Machine.execPowerOn s
  | .reset => Sys2Proof.Machine.execReset s
  | .restoreEnd failed => Sys2Proof.Machine.execRestoreEnd failed s
  | .commitGroupComplete group => Sys2Proof.Machine.execCommitGroupComplete group s
  | .storeWriteFailure w => Sys2Proof.Machine.execStoreWriteFailure w s
  | .powerLoss => Sys2Proof.Machine.execPowerLoss s

end Sys2Proof.Machine
end

