-- ==== Sys2Proof/Safety.lean ====
section
/-! DEFINITION. What a sound state of the part is, in the laws the chapters state for every moment. A step that stops
would be unsafe; no step of this model stops. -/

namespace Sys2Proof.Machine

/-- The step does not stop. -/
def State.runs (s : State) : Prop := ∃ s', step s = .next s'

/-- The notice queue law (R215): at most 32 entries, and no two with the same kind and subject. -/
def NoticeQueue.lawful (q : NoticeQueue) : Prop :=
  q.entries.length ≤ 32 ∧ (q.entries.map fun n => (n.detail.kind, n.subject)).Nodup

/-- The conservation law of a lot (R36): fill is remaining plus the three drawn totals. -/
def Lot.conserves (l : Lot) : Prop :=
  (l.fill : Int) = (l.remaining : Int) + (l.imageDrawn : Int) + (l.stripDrawn : Int) + l.maintDrawn

/-- A lot's state follows its remaining volume and its location (R35). -/
def Lot.stateFits (l : Lot) : Prop := l.state = lotStateOf l.remaining l.location

/-- A table's records stand in strictly ascending key order, so no two have the same key. -/
def ordered {α : Type} (key : α → Nat) (l : List α) : Prop := l.Pairwise fun x y => key x < key y

/-! ### Laws of the tables and of the group numbers -/

/-- The commit points not complete have different numbers, none above the last one made; no open group is numbered above
the last number given, and every image of an open group carries a number of the group (R192, R193). A commit point that
waits has images to hand, and waits for one that is not complete (R194). -/
def Store.sound (st : Store) : Prop :=
  st.openAbove st.called = [] ∧ (st.groups.flatMap OpenGroup.ids ++ st.behind.map CommitPoint.id).Nodup ∧
    (∀ g ∈ st.groups, g.ids ≠ [] ∧ g.nums ≠ [] ∧ (∀ n ∈ g.nums, n ≤ st.count) ∧ ∀ w ∈ g.writes, w.group ∈ g.nums) ∧
    ∀ p ∈ st.behind, p.writes ≠ [] ∧ p.after ≠ [] ∧
      ∀ n ∈ p.after, n ∈ st.groups.flatMap OpenGroup.ids ++ st.behind.map CommitPoint.id

/-- No two records of a table have the same key (R1, R34, R101, R154), at most one roll is ACTIVE (R102), the commit
groups fit the numbers given, and in RESTORE and without power no commit group is open and no commit point waits (R204).
-/
def State.sound (s : State) : Prop :=
  ordered Job.tag s.jobs ∧ ordered Lot.code s.lots ∧ ordered Roll.id s.rolls ∧ ordered Edition.id s.editions ∧
    (s.rolls.filter fun r => r.state == .active).length ≤ 1 ∧ s.store.sound ∧
    (s.phase = .restore ∨ s.phase = .off → s.store.groups = [] ∧ s.store.behind = [])

/-- At most one job is PRINTING (R13). -/
def State.onePrinting (s : State) : Prop := (s.jobs.filter fun j => j.state == .printing).length ≤ 1

/-- The images in commit groups not complete yet, those of the commit points that wait among them (R193, R194). -/
def Store.inHand (st : Store) : List Write := st.groups.flatMap OpenGroup.writes ++ st.behind.flatMap CommitPoint.writes

/-- Every lot record the part holds conserves its fill: those in working memory, those in the copies of the store and
those in commit groups not complete yet (R36). -/
def State.conserves (s : State) : Prop :=
  (∀ l ∈ s.lots, l.conserves) ∧
    (∀ r ∈ s.store.records, ∀ c, (r.copyA = some c ∨ r.copyB = some c) → ∀ l, c.image = .lot l → l.conserves) ∧
    ∀ w ∈ s.store.inHand, ∀ l, w.image = .lot l → l.conserves

/-- A Price Table holds at most 24 entries, in the order of R177 and so no two with one class and code, each code of 16
bits (R173). -/
def PriceTable.sound (t : PriceTable) : Prop :=
  ordered PriceEntry.place t.entries ∧ (∀ e ∈ t.entries, e.code < 65536) ∧ t.entries.length ≤ 24

/-- Every Price Table the part holds is sound: the working one, those in the copies of the store and those in commit
groups not complete yet (R173). -/
def State.pricesSound (s : State) : Prop :=
  s.prices.sound ∧
    (∀ r ∈ s.store.records, ∀ c, (r.copyA = some c ∨ r.copyB = some c) → ∀ t, c.image = .prices t → t.sound) ∧
    ∀ w ∈ s.store.inHand, ∀ t, w.image = .prices t → t.sound

/-- The subjects of the OVERFLOW entries of a queue, oldest first. -/
def NoticeQueue.overflows (q : NoticeQueue) : List Subject :=
  (q.entries.filter fun n => n.detail.kind == .overflow).map Notice.subject

/-- The OVERFLOW entries carry the latest episode numbers in rising order, modulo 256 (R216). -/
def NoticeQueue.episodesFit (q : NoticeQueue) : Prop :=
  q.episode < 256 ∧
    q.overflows =
      (List.range q.overflows.length).map fun i =>
        .num ((q.episode + 257 + i - q.overflows.length) % 256)

/-- The law of the notice queue as every step keeps it: R215's law, one entry free while ACCEPTING, R216's subjects, and
no OVERFLOW among the notices that wait for a commit group (R216: the queue makes it itself). -/
def NoticeQueue.sound (q : NoticeQueue) : Prop :=
  q.lawful ∧ (q.dropping = false → q.entries.length ≤ 31) ∧ q.episodesFit ∧ ∀ n ∈ q.later, n.detail.kind ≠ .overflow

/-! ### What a command does, in the terms the claims use -/

/-- No handling is in hand, as between two steps (R194; DESIGN CHOICE, log 39). -/
def State.atRest (s : State) : Prop := s.handling = {}

/-- The queue `q` with a notice that waits for no group: it is raised at once. What that does,
`Obligations.EveryStepKeepsNoticeQueueLaw` says. -/
def NoticeQueue.given (q : NoticeQueue) (u : Subject) (d : Detail) : NoticeQueue := q.take [] u d

/-- The queue `r` has taken the notices of `l` behind `q`, one after the other: each waits for the groups among the open
ones `opens` whose commit points are numbered up to its own number (R194). -/
def NoticeQueue.takes (q : NoticeQueue) (opens : List Nat) : List (Nat × Subject × Detail) → NoticeQueue → Prop
  | [], r => r = q
  | (n, u, d) :: l, r =>
    ∃ after : List Nat, (∀ k, k ∈ after ↔ k ∈ opens ∧ k ≤ n) ∧
      NoticeQueue.takes (q.take after u d) opens l r

/-- A command taken at `s` that leaves `t` has raised the notices of `l`, each with the number of commit points that its
handling made before it (R15, R23, R194, R215). -/
def State.noticed (s t : State) (l : List (Nat × Subject × Detail)) : Prop :=
  s.notices.takes (t.store.openAbove s.store.called) (l.map fun n => (s.store.called + n.1, n.2)) t.notices

/-- What the end of the groups of the commit points `done` leaves of the queue `q`: the held notices that wait for no
other group are raised, each in its place (R194, R215), and the others go on waiting for theirs. -/
def NoticeQueue.freed (q : NoticeQueue) (done : List Nat) (r : NoticeQueue) : Prop :=
  r = q.release done ∧
    (∀ n ∈ r.later, n.after ≠ [] ∧ (∀ k ∈ n.after, k ∉ done) ∧ ∃ m ∈ q.later, n.detail = m.detail ∧ n.subject = m.subject) ∧
    ((∀ n ∈ q.later, ∃ k ∈ n.after, k ∉ done) → r.entries = q.entries)

/-- A request is handed on to its block: the store is in RUN and BUSY is deasserted (R200, R210, R212). -/
def State.ready (s : State) : Prop := s.phase = .run ∧ s.busy = false

/-- The port after a request that hands no commit group: the formed response, its header taken from `t`, and the drop
counter cleared (R211, R213). -/
def State.formed (s t : State) (code seq : Nat) (st : Status) (b : Body) : Port :=
  { buffer := .done { code := code, seq := seq, status := st, phase := t.phase, queued := t.notices.entries.length,
                      dropped := s.port.dropped, dropping := t.notices.dropping, body := b }
    dropped := 0 }

/-- The port after a request taken at `s` that leaves `t`: the response is formed, or it is kept PENDING for the commit
groups handed between the two and not complete (R194, R211). -/
def State.answered (s t : State) (code seq : Nat) (st : Status) (b : Body) : Prop :=
  t.port =
    if t.store.openAbove s.store.called = [] then s.formed t code seq st b
    else { s.port with buffer := .pending code seq st b (t.store.openAbove s.store.called) }

/-- The state after a request that changes nothing but the port: a refusal or a reading (R213, R214). -/
def State.answerOnly (s : State) (code seq : Nat) (st : Status) (b : Body) : State :=
  { s with out := [], port := s.formed s code seq st b }

/-- Between two states of the store `n` commit points were made and nothing else was done: each has handed its group, which
took the next number, or waits for the groups before it in its handling (R192, R193, R194); every copy, dirty mark, unsaved
record and flush field is as before, and the clean marker is not written (R196). -/
def Store.hands (a b : Store) (n : Nat) : Prop :=
  b = { a with called := a.called + n, count := b.count, closed := b.closed, lastDone := b.lastDone, groups := b.groups,
               behind := b.behind, changed := b.changed, marker := b.marker } ∧
    b.count + b.behind.length = a.count + a.behind.length + n ∧ (b.marker = true → a.marker = true)

/-- A commit point that waits: its number, the groups it waits for, and the records it holds (R194). -/
def CommitPoint.waits (p : CommitPoint) : Nat × List Nat × List RecKey := (p.id, p.after, p.writes.map Write.key)

/-- Record `k` has no change that no commit point has taken (R193, R201). -/
def State.saved (s : State) (k : RecKey) : Prop := k ∉ s.store.changed

/-- A command taken at `s` that leaves `t` has committed record `k` (R193, R196, R199). Where the record had changed since
its last commit, a group not complete or a commit point that waits holds its image as it stands. Where no commit point
waits, the unsaved records of its region are handed too, each to leave the unsaved list with its group and, unless it has
changed behind that group, with its image as it stands. A change of the record has erased the clean marker. -/
def State.commits (s t : State) (k : RecKey) : Prop :=
  t.saved k ∧
    (k ∈ s.store.changed ∨ t.image k ≠ s.image k →
      (∃ w ∈ t.store.inHand, w.key = k ∧ w.image = t.image k) ∧
        (t.store.behind = [] → ∀ u ∈ s.store.unsaved, regionOf u = regionOf k →
          ∃ w ∈ t.store.inHand, w.key = u ∧ w.retry = true ∧ (u ∉ t.store.changed → w.image = t.image u))) ∧
    (t.image k ≠ s.image k → t.store.marker = false)

/-- The first condition of a table that holds gives this answer (R74, R214: the first in table order). -/
def firstOf {α : Type} : List (Prop × α) → α → Prop
  | [], _ => False
  | (c, a) :: l, x => (c ∧ x = a) ∨ (¬ c ∧ firstOf l x)

/-- No condition of a table holds. -/
def noneOf {α : Type} (l : List (Prop × α)) : Prop := ∀ p ∈ l, ¬ p.1

/-- A Head Link frame is taken: the part is powered and forms no answer (R71). -/
def State.takesFrame (s : State) : Prop := s.phase ≠ .off ∧ s.head.forming = none

/-- A frame taken at `s` is answered in `t`: the answer is the last message sent, or it is held for the commit groups
handed between the two and not complete (R71, R194). -/
def State.headAnswered (s t : State) (a : HeadAnswer) : Prop :=
  if t.store.openAbove s.store.called = [] then t.head.forming = none ∧ t.out.getLast? = some (.head a)
  else t.head.forming = some ⟨a, t.store.openAbove s.store.called⟩

/-- The store is at work, in RUN or in FLUSH (R200). -/
def State.atWork (s : State) : Prop := s.phase = .run ∨ s.phase = .flush

/-- A Media Link message is handled at once: the store is at work and the link waits for no commit group (R194, R200). -/
def State.mediaFree (s : State) : Prop := s.atWork ∧ s.media.waiting = [] ∧ s.media.held = []

/-- A READING is handled at once: the store is at work and the link waits for no commit group (R194, R200). -/
def State.sensorFree (s : State) : Prop := s.atWork ∧ s.check.waiting = [] ∧ s.check.held = []

/-- Media Link and Sensor Link messages are discarded: in RESTORE (R110, R128, R136, R200), and without power, where none is
received (DEDUCED, log 10). -/
def State.discardsMessages (s : State) : Prop := s.phase = .restore ∨ s.phase = .off

/-- A Media Link message has to wait: the link waits for a commit group, or an earlier message does (R194). -/
def State.mediaWaits (s : State) : Prop := s.atWork ∧ ¬ (s.media.waiting = [] ∧ s.media.held = [])

/-- A READING has to wait: the link waits for a commit group, or an earlier one does (R194). -/
def State.sensorWaits (s : State) : Prop := s.atWork ∧ ¬ (s.check.waiting = [] ∧ s.check.held = [])

/-- A Media Link message that has to wait is held, and nothing else changes (R194; DEDUCED, log 18). -/
def State.holdsMedia (s : State) (m : MediaMsg) : State :=
  { s with media := { s.media with held := s.media.held ++ [m] }, out := [] }

/-- The command by which a Media Link message arrives. -/
def MediaMsg.command : MediaMsg → Instr
  | .feed d => .feed d
  | .cutDone => .cutDone
  | .cutFault n => .cutFault n
  | .rollPresent p v => .rollPresent p v
  | .rollEnd p => .rollEnd p

/-- A READING that has to wait is held, and nothing else changes (R194; DEDUCED, log 18). -/
def State.holdsReading (s : State) (m : ReadingMsg) : State :=
  { s with check := { s.check with held := s.check.held ++ [m] }, out := [] }

/-- The end of the groups `done` lets no held message of a link be taken: none is held, or the link waits for another group
too (R194). -/
def linkStays {α : Type} (held : List α) (waiting done : List Nat) : Prop := held = [] ∨ ∃ k ∈ waiting, k ∉ done

/-- The state `t` that an event leaves, after which the flush goes on where the store is in FLUSH (R201, R202). -/
def State.thenFlush (t : State) : State := if t.phase = .flush then t.advanceFlush else t

/-- The draw of a channel for one frame (R51). -/
def Channel.drawOf (ch : Channel) (d : Drops) : Nat :=
  ((d.nS * ch.cfg.vS + d.nM * ch.cfg.vM + d.nL * ch.cfg.vL) * ch.cfg.weight + ch.residue) / 40960000

/-- The candidate residue of a channel for one frame (R51). -/
def Channel.residueOf (ch : Channel) (d : Drops) : Nat :=
  ((d.nS * ch.cfg.vS + d.nM * ch.cfg.vM + d.nL * ch.cfg.vL) * ch.cfg.weight + ch.residue) % 40960000

/-- A job's reservation on a channel: the estimate times gain and margin over 102,400, rounded up (R64), and the strip
allowance but for a CHECK job (R65). -/
def State.needOf (s : State) (sp : JobSpec) (c : Chan) : Nat :=
  (sp.estimates.get c * (s.chan c).cfg.gain * (s.chan c).cfg.margin + 102399) / 102400 +
    if sp.kind = .check then 0 else (s.chan c).cfg.allowance

/-- The media a job takes from its P_lead on: lead, image, tail, strip gap and strip, and for a CHECK job the last two
(R6, R13). -/
def State.mediaOf (s : State) (sp : JobSpec) : Nat :=
  (if sp.kind = .check then 0 else sp.lead + sp.image + sp.tail) + s.media.geometry.stripGap + s.media.geometry.stripLength

/-- The media a roll can still promise covers a length: it and the run-out length and the reserved total are at most the
remaining length (R6). -/
def State.mediaCovers (s : State) (r : Roll) (len : Nat) : Prop :=
  len + (s.media.geometry.cutterOffset + s.media.geometry.leadTrim) + r.reserved ≤ r.length - r.fed

/-- The strip ink and media of a job are set aside to overhead (R181). -/
def State.asideOf (s : State) (j : Job) : Prop := s.stripMode = .overhead ∧ j.spec.kind ≠ .check

/-- The captured price of a lot, 0 where the record is absent (R182). -/
def State.priceOf (s : State) (code : Nat) : Nat := ((s.lot? code).map Lot.price).getD 0

/-- The width of a roll times its captured price, 0 where the record is absent (R182, R184). -/
def State.rateOf (s : State) (id : Nat) : Nat := ((s.roll? id).map fun r => r.width * r.price).getD 0

/-- The cost record of a job: ink over 1,000,000, media over 100,000,000, each rounded half up, the captured handling and
their sum, each at most 4,294,967,295 (R183, R184, R185). -/
def State.figuresOf (s : State) (j : Job) (c : CostRecord) : Prop :=
  (s.asideOf j →
    c.ink = min 4294967295 (((j.draws.map fun d => d.image * s.priceOf d.lot).sum + 500000) / 1000000) ∧
    c.media = min 4294967295 ((j.printPiece * s.rateOf j.spec.roll + 50000000) / 100000000)) ∧
  (¬ s.asideOf j →
    c.ink = min 4294967295 (((j.draws.map fun d => (d.image + d.strip) * s.priceOf d.lot).sum + 500000) / 1000000) ∧
    c.media = min 4294967295 (((j.printPiece + j.stripPiece) * s.rateOf j.spec.roll + 50000000) / 100000000)) ∧
  c.handling = j.handling.getD 0 ∧ c.total = min 4294967295 (c.ink + c.media + c.handling)

/-- A sum added to a figure that saturates at `top`; a figure to which nothing is added stays as it is. -/
def addedUpTo (top base : Nat) (l : List Nat) : Nat := if l = [] then base else min top (base + l.sum)

/-- Job `a` is younger than job `b`: a higher sequence number, then a higher tag (R8, R10). -/
def Job.isYounger (a b : Job) : Prop :=
  b.seqNo.getD 0 < a.seqNo.getD 0 ∨ (a.seqNo.getD 0 = b.seqNo.getD 0 ∧ b.tag < a.tag)

/-- A withdrawn job: DEFERRED, without holdings or sequence number (R10). -/
def Job.afterWithdrawal (j : Job) : Job := { j with state := .deferred, ink := Vec12.all 0, rollRes := 0, seqNo := none }

/-- The jobs `w` are those that a withdrawal on a resource takes: ADMITTED jobs that hold on it, the youngest first, each
while the reserved total is above the limit, until it is not or none is left (R10). -/
def State.withdrawable (s : State) (w : List Job) (holds : Job → Nat) (reserved limit : Nat) : Prop :=
  (∀ j ∈ w, j ∈ s.jobs ∧ j.state = .admitted ∧ holds j ≠ 0) ∧ w.Pairwise Job.isYounger ∧
  (∀ j ∈ s.jobs, j.state = .admitted → holds j ≠ 0 → j ∈ w ∨ ∀ k ∈ w, k.isYounger j) ∧
  (∀ v k, w = v ++ [k] → limit < reserved - (v.map holds).sum) ∧
  (reserved - (w.map holds).sum ≤ limit ∨ ∀ j ∈ s.jobs, j.state = .admitted → holds j ≠ 0 → j ∈ w)

/-- The WITHDRAWN notices of the jobs `w`, each with the number of commit points made before it: every job withdrawn is
committed behind its notice (R10). -/
def withdrawnNotices (w : List Job) (why : Resource) : List (Nat × Subject × Detail) :=
  w.zipIdx.map fun p => (p.2, .num p.1.tag, .withdrawn why)

/-- A command taken at `s` that leaves `t` has withdrawn the jobs `w`: each is DEFERRED without holdings and committed,
and its ink reservations have left the reserved totals of all channels (R10). -/
def State.withdrew (s t : State) (w : List Job) : Prop :=
  (∀ j ∈ w, t.job? j.tag = some j.afterWithdrawal ∧ s.commits t (.job j.tag)) ∧
    ∀ c, t.chan c = { s.chan c with reserved := (s.chan c).reserved - (w.map fun j => j.ink.get c).sum }

/-- The jobs `w` are the ADMITTED jobs that hold a roll, the youngest first (R107, R113). -/
def State.holdersOf (s : State) (id : Nat) (w : List Job) : Prop :=
  w.Pairwise Job.isYounger ∧ ∀ j, j ∈ w ↔ j ∈ s.jobs ∧ j.state = .admitted ∧ j.spec.roll = id ∧ j.rollRes ≠ 0

/-- A job naming the edition is PRINTING or FINISHING with its strip not RESOLVED (R160). -/
def State.stripOut (s : State) (id : Nat) : Bool :=
  s.jobs.any fun j =>
    j.spec.edition == some id && (j.state == .printing || j.state == .finishing) && j.strip != .resolved

/-- What a lot change on a channel leaves of the editions: the OPEN and LOCKED ones over it are locked, the PROVING ones
lose their provisional reference and are marked stale where their strip is out, the others stay (R39, R160, R163). -/
def State.changedOver (s t : State) (c : Chan) : Prop :=
  ∀ e ∈ s.editions,
    (e.covers c = false ∨ e.state = .closed → t.edition? e.id = some e) ∧
    (e.covers c = true → e.state = .opened ∨ e.state = .locked →
      t.edition? e.id = some
        { e with state := .locked, causes := { e.causes with lotChange := true }
                 generation := (e.generation + 1) % 65536 }) ∧
    (e.covers c = true → e.state = .proving →
      t.edition? e.id = some { e with provisional := none, stale := e.stale || s.stripOut e.id })

/-- A request at `s` that leaves `t` has made a lot change on a channel, from lot `left` (0 for none) to lot `taken` (R39): the
editions over the channel are treated, the printing job that uses it is flagged LOT_CHANGED and committed with it (log 40),
and LOT_CHANGE is raised first, before any commit point, and behind it only locks, channel states and withdrawals. -/
def State.lotChangedTo (s t : State) (c : Chan) (left taken : Nat) : Prop :=
  s.changedOver t c ∧
    (∀ j, s.printing? = some j → ∃ j', t.job? j.tag = some j' ∧
      j'.flags.lotChanged = (j.flags.lotChanged || j.uses c) ∧
      (j.uses c = true → j.flags.lotChanged = false → s.commits t (.job j.tag))) ∧
    ∃ l, s.noticed t ((0, .num c.val, .lotChange left taken) :: l) ∧
      ∀ n ∈ l, n.2.2.kind ∈ [NoticeKind.editionLocked, .channelLow, .channelOut, .withdrawn]

/-- A request at `s` that leaves `t` has made no lot change: no edition changes, the printing job is not flagged, and only
channel states and withdrawals are noticed (R33). -/
def State.keptLot (s t : State) : Prop :=
  t.editions = s.editions ∧
    (∀ j, s.printing? = some j → ∃ j', t.job? j.tag = some j' ∧ j'.flags.lotChanged = j.flags.lotChanged) ∧
    ∃ l, s.noticed t l ∧ ∀ n ∈ l, n.2.2.kind ∈ [NoticeKind.channelLow, .channelOut, .withdrawn]

/-- A lot record with a volume taken by an image swath, a strip swath or a purge (R35, R36, R58). -/
def Lot.drawn (l : Lot) (k : Option SwathKind) (v : Nat) : Lot :=
  { l with
    remaining := l.remaining - v, state := lotStateOf (l.remaining - v) l.location
    imageDrawn := l.imageDrawn + if k = some .image then v else 0
    stripDrawn := l.stripDrawn + if k = some .strip then v else 0
    maintDrawn := l.maintDrawn + if k = none then (v : Int) else 0 }

/-- A draw list entry with a volume added to the column of the swath kind, at most 4,294,967,295 (R61). -/
def DrawEntry.plus (d : DrawEntry) (k : SwathKind) (v : Nat) : DrawEntry :=
  if k = .image then { d with image := min 4294967295 (d.image + v) }
  else { d with strip := min 4294967295 (d.strip + v) }

/-- The entries of a channel in a draw list, in list order (R61). -/
def entriesOn (l : List DrawEntry) (c : Chan) : List DrawEntry := l.filter fun d => d.channel == c

/-- Every nonzero draw of a frame is below the remaining volume of the channel's active lot, and no two channels draw
from one lot: the frame exhausts no lot (R57). -/
def State.drawsFit (s : State) (d : DropCounts) (lot : Chan → Lot) : Prop :=
  (∀ c, (s.chan c).drawOf (d.get c) ≠ 0 →
    s.activeLot c = some (lot c) ∧ (s.chan c).drawOf (d.get c) < (lot c).remaining) ∧
  ∀ c e, c ≠ e → (s.chan c).drawOf (d.get c) ≠ 0 → (s.chan e).drawOf (d.get e) ≠ 0 → (lot c).code ≠ (lot e).code

end Sys2Proof.Machine
end

