-- ==== Sys2Proof/WellFormed.lean ====
section
/-! DEFINITION. When a command's operands fit the fields that carry them (section 11.7 and the field tables of the
chapters). The meanings are total: a command that is not well formed has an effect too, and only no frame can carry it.
-/

namespace Sys2Proof

/-- A figure fits a field of `k` bytes. -/
def fits (k n : Nat) : Bool := decide (n < 256 ^ k)

/-- Twelve figures fit fields of `k` bytes. -/
def fitsAll (k : Nat) (v : Vec12) : Bool := Chan.list.all fun c => fits k (v.get c)

/-- A signed figure fits 16 bits. -/
def fits16 (n : Int) : Bool := decide (-32768 ≤ n ∧ n ≤ 32767)

/-- A Lab value fits three signed 16-bit fields. -/
def Lab.fits (v : Lab) : Bool := fits16 v.L && fits16 v.a && fits16 v.b

/-- A Lab set fits its patch count byte and its patches. -/
def labsFit (l : List Lab) : Bool := Sys2Proof.fits 1 l.length && l.all Lab.fits

/-- The drop counts fit 24 bits each (R51). -/
def dropsFit (d : DropCounts) : Bool :=
  Chan.list.all fun c => fits 3 (d.get c).nS && fits 3 (d.get c).nM && fits 3 (d.get c).nL

/-- The body of SUBMIT JOB fits its fields. -/
def SubmitReq.fits (r : SubmitReq) : Bool :=
  Sys2Proof.fits 1 r.kind && Sys2Proof.fits 4 r.tag && Sys2Proof.fits 4 r.edition && Sys2Proof.fits 4 r.roll &&
    Sys2Proof.fits 4 r.lead && Sys2Proof.fits 4 r.image && Sys2Proof.fits 4 r.tail && Sys2Proof.fits 2 r.swaths &&
    fitsAll 4 r.estimates

/-- The body of SET CHANNEL fits its fields. -/
def ChannelReq.fits (r : ChannelReq) : Bool :=
  Sys2Proof.fits 1 r.channel && Sys2Proof.fits 2 r.product && Sys2Proof.fits 1 r.vS && Sys2Proof.fits 1 r.vM &&
    Sys2Proof.fits 1 r.vL && Sys2Proof.fits 2 r.weight && Sys2Proof.fits 2 r.gain && Sys2Proof.fits 1 r.margin &&
    Sys2Proof.fits 4 r.allowance && Sys2Proof.fits 4 r.reserve

/-- The body of INSTALL LOT fits its fields. -/
def InstallReq.fits (r : InstallReq) : Bool :=
  Sys2Proof.fits 1 r.channel && Sys2Proof.fits 1 r.slot && Sys2Proof.fits 6 r.code && Sys2Proof.fits 2 r.product &&
    Sys2Proof.fits 4 r.fill && Sys2Proof.fits 2 r.expiry

/-- The body of LOAD ROLL fits its fields. -/
def LoadRollReq.fits (r : LoadRollReq) : Bool :=
  Sys2Proof.fits 1 r.slot && Sys2Proof.fits 2 r.product && Sys2Proof.fits 2 r.width && Sys2Proof.fits 4 r.id &&
    Sys2Proof.fits 4 r.length

/-- The body of SET MEDIA GEOMETRY fits its fields. -/
def Geometry.fits (g : Geometry) : Bool :=
  Sys2Proof.fits 4 g.sensorOffset && Sys2Proof.fits 4 g.cutterOffset && Sys2Proof.fits 4 g.stripGap &&
    Sys2Proof.fits 4 g.stripLength && Sys2Proof.fits 4 g.leadTrim && Sys2Proof.fits 4 g.cutTimeout

/-- The body of SET CHECK PLAN fits its fields. -/
def PlanReq.fits (r : PlanReq) : Bool :=
  Sys2Proof.fits 1 r.interval && Sys2Proof.fits 1 r.cadence && Sys2Proof.fits 1 r.stripSwaths &&
    Sys2Proof.fits 2 r.tolerance && fitsAll 2 r.densities && labsFit r.labs

/-- A supplied reference fits its fields. -/
def Reference.fits (r : Reference) : Bool := fitsAll 2 r.gains && fitsAll 2 r.densities && labsFit r.labs

/-- The body of CREATE EDITION fits its fields. -/
def EditionReq.fits (r : EditionReq) : Bool :=
  Sys2Proof.fits 4 r.id && Sys2Proof.fits 2 r.limit && Sys2Proof.fits 2 r.mask && Sys2Proof.fits 2 r.tolerance &&
    Sys2Proof.fits 2 r.band && (r.reference.map Reference.fits).getD true

/-- The body of WRITE PRICE fits its fields. -/
def PriceReq.fits (r : PriceReq) : Bool :=
  Sys2Proof.fits 1 r.cls && Sys2Proof.fits 2 r.code && Sys2Proof.fits 4 r.price

/-- A READING fits its fields; its Lab patch count is 0..8 (R136). -/
def ReadingMsg.fits (m : ReadingMsg) : Bool :=
  Sys2Proof.fits 1 m.seq && Sys2Proof.fits 1 m.status && fitsAll 2 m.densities && decide (m.labs.length ≤ 8) &&
    m.labs.all Lab.fits

/-- A command's operands fit the fields that carry them. -/
def Instr.wellFormed : Instr → Bool
  | .submitJob n r => fits 1 n && r.fits
  | .admitJob n t => fits 1 n && fits 4 t
  | .beginJob n t => fits 1 n && fits 4 t
  | .cancelJob n t r => fits 1 n && fits 4 t && fits 1 r
  | .readJob n t => fits 1 n && fits 4 t
  | .retireJob n t => fits 1 n && fits 4 t
  | .setChannel n r => fits 1 n && r.fits
  | .readChannel n c => fits 1 n && fits 1 c
  | .installLot n r => fits 1 n && r.fits
  | .removeLot n c t => fits 1 n && fits 1 c && fits 1 t
  | .amendLot n c v => fits 1 n && fits 6 c && fits 4 v
  | .retireLot n c => fits 1 n && fits 6 c
  | .readLot n c => fits 1 n && fits 6 c
  | .setDay n d => fits 1 n && fits 2 d
  | .setRowMask n c i _ _ => fits 1 n && fits 1 c && fits 1 i
  | .substituteRow n c i k => fits 1 n && fits 1 c && fits 1 i && fits 1 k
  | .loadRoll n r => fits 1 n && r.fits
  | .selectRoll n i => fits 1 n && fits 4 i
  | .unloadRoll n i => fits 1 n && fits 4 i
  | .retireRoll n i => fits 1 n && fits 4 i
  | .readRoll n i => fits 1 n && fits 4 i
  | .readMedia n => fits 1 n
  | .setMediaGeometry n g => fits 1 n && g.fits
  | .clearJamRetry n => fits 1 n
  | .clearJamSkip n => fits 1 n
  | .setCheckPlan n r => fits 1 n && r.fits
  | .forceCheck n => fits 1 n
  | .readCheckState n => fits 1 n
  | .createEdition n r => fits 1 n && r.fits
  | .adoptReference n i => fits 1 n && fits 4 i
  | .rejectReference n i => fits 1 n && fits 4 i
  | .closeEdition n i => fits 1 n && fits 4 i
  | .retireEdition n i => fits 1 n && fits 4 i
  | .readEdition n i => fits 1 n && fits 4 i
  | .writePrice n r => fits 1 n && r.fits
  | .removePrice n c k => fits 1 n && fits 1 c && fits 2 k
  | .lockPrices n => fits 1 n
  | .unlockPrices n => fits 1 n
  | .readPrices n => fits 1 n
  | .setStripAccounting n m => fits 1 n && fits 1 m
  | .readOverhead n => fits 1 n
  | .clearOverhead n => fits 1 n
  | .readNotices n => fits 1 n
  | .identify n => fits 1 n
  | .readStatus n => fits 1 n
  | .requestFrameRefused _ => true
  | .requestFrameDropped _ => true
  | .swath t k _ d => fits 4 t && fits 1 k && dropsFit d
  | .purge _ d => dropsFit d
  | .rowStatus c i f => fits 1 c && fits 1 i && fits 1 f
  | .rowMapQuery => true
  | .headFrameCrcBad _ => true
  | .feed d => decide (-2147483648 ≤ d ∧ d ≤ 2147483647)
  | .cutDone => true
  | .cutFault c => fits 1 c
  | .cutTimeout => true
  | .rollPresent p v => fits 1 p && fits 1 v
  | .rollEnd p => fits 1 p
  | .reading m => m.fits
  | .pfailAssert => true
  | .pfailDeassert => true
  | .powerOn => true
  | .reset => true
  | .restoreEnd f => decide f.images.Nodup
  | .commitGroupComplete _ => true
  | .storeWriteFailure w =>
    match w with
    | .images _ l => decide (l ≠ [] ∧ l.Nodup)
    | _ => true
  | .powerLoss => true

end Sys2Proof
end

