-- ==== Sys2Proof/Certificates/Slice0/Obligations.lean ====
section
/-! DEFINITION. What the part is claimed to do: one `Prop` for each obligation. A request that is `ready` is one the
Request Port hands on; `sound` is the law of the tables and of the group numbers, which
`Obligations.EveryStepKeepsTablesOrdered` says every step keeps. -/

open Sys2Proof Sys2Proof.Machine

/-! ### The step and the laws every step keeps -/

/-- The command at the front of the queue is taken with the queue's rest. On an empty queue the part idles: without
power, and in RUN and FLUSH with no open commit group, nothing changes; a group whose images are all written
completes; the image being written is written, which changes no record that
stands; and in RESTORE stages 1 to 6 are made, after which the end of the restore leaves what it leaves without them.
The queue and the idle step are the model's choice (log 1). -/
def Obligations.StepTakesTheFrontCommand : Prop :=
  (∀ (c : Instr) (rest : List Instr) (s : State),
    step { s with pending := c :: rest } = exec c { s with pending := rest }) ∧
  ∀ s : State, s.pending = [] →
    (s.phase = .off ∨ ((s.phase = .run ∨ s.phase = .flush) ∧ s.store.groups = []) → step s = .next { s with out := [] }) ∧
    (∀ g n, s.phase = .run ∨ s.phase = .flush → s.store.groups.find? OpenGroup.allWritten = some g →
      s.store.openGroup n = some g → step s = exec (.commitGroupComplete n) s) ∧
    (∀ w, s.phase = .run ∨ s.phase = .flush → s.store.groups.find? OpenGroup.allWritten = none →
      s.store.inFlight = some w → w.group ∉ s.store.closed →
      ∃ t : State, step s = .next t ∧ (∀ k, t.store.standing k = s.store.standing k) ∧
        (∃ r ∈ t.store.records, r.key = w.key ∧
          (r.copyA = some ⟨w.group, w.image, true⟩ ∨ r.copyB = some ⟨w.group, w.image, true⟩)) ∧
        t = { s with store := { s.store with records := t.store.records, groups := t.store.groups }, out := [] }) ∧
    (s.phase = .restore → s.store.restored = none → ∀ failed closeFails,
      ∃ t : State, step s = .next t ∧ t.phase = .restore ∧ t.store.restored ≠ none ∧
        exec (.restoreEnd ⟨failed, closeFails⟩) t = exec (.restoreEnd ⟨[], false⟩) s)

/-- R1, R34, R101, R154, R102: no two job, lot, roll or edition records have the same key, at most one roll is ACTIVE, no
open commit group is numbered above the last number given, every image of an open group carries one of its numbers, a
commit point that waits for groups of its handling waits for open ones (log 39), and in RESTORE and without power no group
is open and no commit point waits. Between two steps no handling is in hand. -/
def Obligations.EveryStepKeepsTablesOrdered : Prop :=
  (∀ s t : State, s.sound → step s = .next t → t.sound) ∧ ∀ s t : State, s.atRest → step s = .next t → t.atRest

/-- R13: every step keeps at most one job PRINTING. -/
def Obligations.EveryStepKeepsOneJobPrinting : Prop :=
  ∀ s t : State, s.sound → s.onePrinting → step s = .next t → t.onePrinting

/-- R36: every step conserves the fill of every lot, in working memory, in the store and in the groups being written. -/
def Obligations.EveryStepConservesLotFill : Prop :=
  ∀ s t : State, s.conserves → step s = .next t → t.conserves

/-- R173: every step that takes a well-formed command keeps every Price Table at 24 entries or fewer, no two with one
class and code, in the order of R177. -/
def Obligations.EveryStepKeepsPriceTableOrdered : Prop :=
  ∀ s t : State, (∀ c ∈ s.pending, c.wellFormed = true) → s.pricesSound → step s = .next t → t.pricesSound

/-- R215, R216: every step keeps the notice queue at 32 entries or fewer, no two with one kind and subject, and no
OVERFLOW among the notices that wait for a commit group. A notice raised replaces the detail of the entry with its kind and
subject in place; while DROPPING it is counted in the latest OVERFLOW entry; with fewer than 31 entries it stands at the
tail, and with 31 an OVERFLOW entry does and the queue becomes DROPPING. One past a commit point waits for its groups
(R194) and then stands in the place it had within its handling, so that the entries stand in the order of their events
(log 23). The raise number is the counter's value after its increment (log 12). -/
def Obligations.EveryStepKeepsNoticeQueueLaw : Prop :=
  (∀ s t : State, s.notices.sound → step s = .next t → t.notices.sound) ∧
  ∀ (q : NoticeQueue) (u : Subject) (d : Detail),
    let n := (q.raised + 1) % 65536
    let same : Notice → Bool := fun e => e.detail.kind == d.kind && e.subject == u
    let raisedAt (p : Nat) (r : NoticeQueue) : Prop :=
      r.later = [] ∧
      (q.entries.any same = true →
        r = { q with later := [], raised := n
                     entries := q.entries.map fun e => if same e then { e with detail := d, raiseNo := n } else e }) ∧
      (q.entries.any same = false → q.dropping = true →
        r = { q with later := [], entries := q.entries.map fun e =>
                match e.detail with
                | .overflow k => if e.subject = .num q.episode then { e with detail := .overflow (min (k + 1) 65535) } else e
                | _ => e }) ∧
      (q.entries.any same = false → q.dropping = false → q.entries.length < 31 →
        r = { q with later := [], raised := n, entries := q.entries.take p ++ ⟨u, d, n⟩ :: q.entries.drop p }) ∧
      (q.entries.any same = false → q.dropping = false → 31 ≤ q.entries.length →
        r = { q with later := [], raised := n, dropping := true, episode := (q.episode + 1) % 256
                     entries := q.entries ++ [⟨.num ((q.episode + 1) % 256), .overflow 1, n⟩] })
    (q.later = [] → raisedAt q.entries.length (q.given u d)) ∧
    (∀ after, after ≠ [] → q.take after u d = { q with later := q.later ++ [⟨after, q.entries.length, u, d⟩] }) ∧
    (∀ done after p, (∀ k ∈ after, k ∈ done) → raisedAt p (({ q with later := [⟨after, p, u, d⟩] }).release done)) ∧
    ∀ after v x, after ≠ [] → q.later = [] → q.dropping = false → q.entries.length < 30 → q.entries.any same = false →
      (∀ e ∈ q.entries, ¬ (e.detail.kind = x.kind ∧ e.subject = v)) → ¬ (d.kind = x.kind ∧ u = v) →
      (((q.take after u d).given v x).entries.map fun e => (e.subject, e.detail)) =
          (q.entries.map fun e => (e.subject, e.detail)) ++ [(v, x)] ∧
        ((((q.take after u d).given v x).release after).entries.map fun e => (e.subject, e.detail)) =
          (q.entries.map fun e => (e.subject, e.detail)) ++ [(u, d), (v, x)]

/-! ### The Request Port (R210 to R214, R217, R220, R221) -/

/-- R212: a request received while BUSY is asserted changes nothing but the drop counter, which saturates at 255. R210,
R213: in RESTORE and in FLUSH every request is answered NOT_READY and changes no record. That READ CHECK STATE is
answered so too in FLUSH, by R200 and R210 against the words of R152, is the model's choice (log 46). -/
def Obligations.RequestsWhileBusyOrOutsideRun : Prop :=
  (∀ (i : Instr) (p : Nat × Nat × (State → Reply)) (s : State),
    requestParts i = some p → s.phase ≠ .off → s.busy = true →
      exec i s = .next { s with out := [], port := { s.port with dropped := min (s.port.dropped + 1) 255 } }) ∧
  (∀ (i : Instr) (p : Nat × Nat × (State → Reply)) (s : State),
    requestParts i = some p → s.phase = .restore ∨ s.phase = .flush → s.busy = false →
      exec i s = .next (s.answerOnly p.1 p.2.1 .notReady .empty))

/-- R210: the four tests of a complete frame taken while BUSY is deasserted, in table order, and a frame past them runs
the command it spells. R212, R209: a complete frame received while BUSY is asserted is counted and nothing else; an
incomplete one leaves the response buffer, BUSY and the drop counter as they were. R72: a frame whose CRC fails or that
is malformed is answered CRC_BAD and no record changes; a sound one is handled as the frame it spells. R71: a Head Link
frame that arrives while an answer is being formed is discarded; that without power none is received is the model's reading
(log 10). That a READ CHECK STATE frame too is answered NOT_READY in FLUSH, against the words of R152, is the model's
choice (log 46). -/
def Obligations.FramesAreTestedBeforeTheyAreTaken : Prop :=
  (∀ (l : List Byte) (f : RequestFrame) (s : State), readRequestFrame l = some f → s.phase ≠ .off → s.busy = false →
    (f.sound = false → exec (.requestFrameRefused l) s = .next (s.answerOnly f.code f.seq .badFrame .empty)) ∧
    (f.sound = true → s.phase ≠ .run →
      exec (.requestFrameRefused l) s = .next (s.answerOnly f.code f.seq .notReady .empty)) ∧
    (f.sound = true → s.phase = .run → requestLength f.code f.body = none →
      exec (.requestFrameRefused l) s = .next (s.answerOnly f.code f.seq .unknownRequest .empty)) ∧
    (∀ n, f.sound = true → s.phase = .run → requestLength f.code f.body = some n → f.body.length ≠ n →
      exec (.requestFrameRefused l) s = .next (s.answerOnly f.code f.seq .badFrame .empty)) ∧
    (∀ n c, f.sound = true → s.phase = .run → requestLength f.code f.body = some n → f.body.length = n →
      requestCommand f.code f.seq f.body = some c → exec (.requestFrameRefused l) s = exec c s)) ∧
  (∀ (l : List Byte) (s : State), s.phase ≠ .off →
    (∀ f, readRequestFrame l = some f → s.busy = true →
      exec (.requestFrameDropped l) s =
        .next { s with out := [], port := { s.port with dropped := min (s.port.dropped + 1) 255 } }) ∧
    (readRequestFrame l = none → exec (.requestFrameDropped l) s = .next { s with out := [] })) ∧
  (∀ s : State, s.head.forming ≠ none ∨ s.phase = .off →
    (∀ tag kind toggle counts, exec (.swath tag kind toggle counts) s = .next { s with out := [] }) ∧
    (∀ toggle counts, exec (.purge toggle counts) s = .next { s with out := [] }) ∧
    (∀ channel segment fault, exec (.rowStatus channel segment fault) s = .next { s with out := [] }) ∧
    exec .rowMapQuery s = .next { s with out := [] } ∧ ∀ l, exec (.headFrameCrcBad l) s = .next { s with out := [] }) ∧
  (∀ (s : State) (l : List Byte), s.takesFrame → s.sound →
    (headCommand l = none →
      exec (.headFrameCrcBad l) s = .next (State.advanceFlush { s with out := [.head .crcBad] })) ∧
    (∀ c, headCommand l = some c → exec (.headFrameCrcBad l) s = exec c s))

/-- R217: READ NOTICES removes the oldest entries, up to 8, and returns them with the number left and the queue state
before the request; it returns the queue to ACCEPTING when it removes one (R216), and commits nothing. That the
response's header counts the queue after the removal is the model's choice (log 45). -/
def Obligations.ReadNoticesRemovesTheOldestEight : Prop :=
  ∀ (s : State) (seq : Nat), s.ready → s.sound →
    ∃ t : State, exec (.readNotices seq) s = .next t ∧
      t.notices.entries = s.notices.entries.drop 8 ∧
      t.notices.dropping = (if s.notices.entries = [] then s.notices.dropping else false) ∧
      t.notices.raised = s.notices.raised ∧ t.notices.episode = s.notices.episode ∧ 
      t.notices.later = s.notices.later.map (fun n => { n with place := n.place - 8 }) ∧
      t = { s with notices := t.notices, out := []
                   port := s.formed t 0x70 seq .ok
                     (.notices (s.notices.entries.take 8) (s.notices.entries.length - 8) s.notices.dropping) }

/-- R220: IDENTIFY returns the fixed figures of the part and changes nothing. R221: READ STATUS returns the state of the
part as it stands and changes nothing. -/
def Obligations.IdentifyAndReadStatusChangeNothing : Prop :=
  (∀ (s : State) (seq : Nat), s.ready → s.sound →
    exec (.identify seq) s =
      .next (s.answerOnly 0x71 seq .ok
        (.identity { vendor := 0x0E2A, part := 0x1240, revision := 1, layout := 1,
                     capacities := [12, 4, 48, 32, 16, 12, 64, 24, 32] }))) ∧
  (∀ (s : State) (seq : Nat), s.ready → s.sound →
    exec (.readStatus seq) s =
      .next (s.answerOnly 0x72 seq .ok
        (.status
          { phase := s.phase, pfail := s.pfail, marker := s.store.marker
            unsaved :=
              [.config, .lots, .rolls, .editions, .prices, .jobs, .counters].map fun r =>
                (s.store.unsaved.filter fun k => regionOf k == r).length
            lastGroup := s.store.lastDone, notices := s.notices.entries.length, dropping := s.notices.dropping
            raised := s.notices.raised, episode := s.notices.episode, dropCount := s.port.dropped, day := s.day
            activeRoll := (s.activeRoll.map Roll.id).getD 0, printing := (s.printing?.map Job.tag).getD 0
            cutter := s.media.cutter, feedHold := s.feedHold, forced := s.check.forced, priceLock := s.prices.lock
            pricesBad := s.pricesBad
            counts := [s.jobs.length, s.lots.length, s.rolls.length, s.editions.length, s.prices.entries.length] })))

/-! ### Print jobs (spec/01_print_jobs.md) -/

/-- R24: READ JOB returns the record, or with tag 0 the list of the jobs present in ascending tag order, and changes
nothing. R45: READ LOT returns a lot record, or with code 0 the list of the lots present in ascending code order; READ
CHANNEL returns the channel record with its segments, its remaining total and usable free volume and the lots in its
slots. Both change nothing. R170, R158: READ EDITION returns the record with its free slots and the number of live jobs
naming it, or with id 0 the list of the editions in ascending order, and changes nothing. -/
def Obligations.TableReadingsReturnTheRecord : Prop :=
  (∀ (s : State) (seq tag : Nat), s.ready → s.sound →
    (∀ j, tag ≠ 0 → s.job? tag = some j → exec (.readJob seq tag) s = .next (s.answerOnly 0x14 seq .ok (.job j))) ∧
    (tag ≠ 0 → s.job? tag = none → exec (.readJob seq tag) s = .next (s.answerOnly 0x14 seq .unknownTag .empty)) ∧
    (exec (.readJob seq 0) s =
      .next (s.answerOnly 0x14 seq .ok (.jobList (s.jobs.map fun j => (j.tag, j.spec.kind, j.state))))) ∧
    (s.jobs.map Job.tag).Pairwise (· < ·)) ∧
  (∀ (s : State) (seq n : Nat), s.ready → s.sound →
    (∀ l, n ≠ 0 → s.lot? n = some l → exec (.readLot seq n) s = .next (s.answerOnly 0x26 seq .ok (.lot l))) ∧
    (n ≠ 0 → s.lot? n = none → exec (.readLot seq n) s = .next (s.answerOnly 0x26 seq .unknownLot .empty)) ∧
    (exec (.readLot seq 0) s =
      .next (s.answerOnly 0x26 seq .ok (.lotList (s.lots.map fun l => (l.code, l.channel, l.state, l.location))))) ∧
    (s.lots.map Lot.code).Pairwise (· < ·) ∧
    (∀ c : Chan, exec (.readChannel seq c.val) s =
      .next (s.answerOnly 0x21 seq .ok
        (.channel { channel := s.chan c, remaining := s.slotVolume c .A + s.slotVolume c .B
                    usable := s.slotVolume c .A + s.slotVolume c .B - (s.chan c).cfg.reserve - (s.chan c).reserved
                    lotA := s.lotIn c .A, lotB := s.lotIn c .B }))) ∧
    (11 < n → exec (.readChannel seq n) s = .next (s.answerOnly 0x21 seq .badParam .empty))) ∧
  (∀ (s : State) (seq id : Nat), s.ready → s.sound →
    (∀ e, id ≠ 0 → s.edition? id = some e →
      let live := (s.jobs.filter fun j =>
        (j.state == .admitted || j.state == .printing || j.state == .finishing) && j.spec.edition == some id).length
      exec (.readEdition seq id) s =
        .next (s.answerOnly 0x55 seq .ok
          (.editionView e (if e.state = .closed then 0 else e.limit - e.issued - live) live))) ∧
    (id ≠ 0 → s.edition? id = none → exec (.readEdition seq id) s = .next (s.answerOnly 0x55 seq .unknownEdition .empty)) ∧
    (exec (.readEdition seq 0) s =
      .next (s.answerOnly 0x55 seq .ok (.editionList (s.editions.map fun e => (e.id, e.state, e.limit, e.issued))))) ∧
    (s.editions.map Edition.id).Pairwise (· < ·))

/-- R6: the admission test passes exactly when, on every channel with a nonzero reservation, the reservation is at most
the usable free volume, and the roll reservation is at most the remaining length less the run-out length less the
reserved total; a failing test names the ink part first, with the lowest-numbered channel that failed and its shortfall.
R64, R65: a job's reservation on a channel is its estimate times the gain and the margin over 102,400, rounded up, and
for an EDITION or PROOF job the strip allowance. The exact figure of the media shortfall is the model's reading (log
14). -/
def Obligations.AdmissionTestPassesWhenBothPartsFit : Prop :=
  ∀ (s : State) (sp : JobSpec) (r : Roll),
    let need : Chan → Nat := fun c =>
      (sp.estimates.get c * (s.chan c).cfg.gain * (s.chan c).cfg.margin + 102399) / 102400 +
        if sp.kind = .check then 0 else (s.chan c).cfg.allowance
    let free : Chan → Nat := fun c =>
      s.slotVolume c .A + s.slotVolume c .B - (s.chan c).cfg.reserve - (s.chan c).reserved
    let len := (if sp.kind = .check then 0 else sp.lead + sp.image + sp.tail) + s.media.geometry.stripGap +
      s.media.geometry.stripLength
    let claimed := len + (s.media.geometry.cutterOffset + s.media.geometry.leadTrim) + r.reserved
    let inkFits : Prop := ∀ c, need c ≠ 0 → need c ≤ free c
    let mediaFits : Prop := claimed ≤ r.length - r.fed
    ((inkFits ∧ mediaFits) ↔ s.admission sp r = .pass (Vector.ofFn need) len) ∧
    (∀ c n, s.admission sp r = .inkShort c n ↔
      (need c ≠ 0 ∧ free c < need c ∧ n = need c - free c ∧ ∀ d, d < c → need d = 0 ∨ need d ≤ free d)) ∧
    (∀ n, s.admission sp r = .mediaShort n ↔ inkFits ∧ ¬ mediaFits ∧ n = claimed - (r.length - r.fed))

/-- R5: SUBMIT JOB is refused, with no other state changed, when a condition of the table holds; the status is that of
the first in table order. That EDITION_FULL holds too where more jobs are live than the limit leaves free is the model's
reading of free slots 0 (log 29). -/
def Obligations.SubmitJobRefusesInTableOrder : Prop :=
  ∀ (s : State) (seq : Nat) (r : SubmitReq), s.ready → s.sound →
    let supplied : Prop := r.editionSupplied = true
    let table : List (Prop × Status) :=
      [ (r.tag = 0 ∨ r.roll = 0 ∨ (supplied ∧ r.edition = 0), .badKey),
        (2 < r.kind ∨ (r.kind = 0 ∧ ¬ supplied) ∨ (r.kind = 1 ∧ supplied) ∨
          (r.kind = 2 ∧ (r.lead ≠ 0 ∨ r.image ≠ 0 ∨ r.tail ≠ 0 ∨ r.swaths ≠ 0)) ∨
          (r.kind ≠ 2 ∧ (r.image = 0 ∨ r.lead + r.image + r.tail < 10000 ∨ 4294967295 < r.lead + r.image + r.tail ∨
            r.swaths < 1 ∨ 4095 < r.swaths)) ∨
          ∃ c, 1000000000 < r.estimates.get c, .badParam),
        ((s.job? r.tag).isSome = true, .tagExists),
        (32 ≤ s.jobs.length, .tableFull),
        (s.roll? r.roll = none, .unknownRoll),
        (∃ x, s.roll? r.roll = some x ∧ (x.state = .shelved ∨ x.state = .ended), .notLoaded),
        (supplied ∧ s.edition? r.edition = none, .unknownEdition),
        (supplied ∧ ∃ e, s.edition? r.edition = some e ∧ e.state = .closed, .editionClosed),
        (supplied ∧ ∃ e, s.edition? r.edition = some e ∧ e.state = .proving ∧
          ∃ j ∈ s.jobs, j.live = true ∧ j.spec.edition = some r.edition, .provingBusy),
        (supplied ∧ ∃ e, s.edition? r.edition = some e ∧
          e.limit ≤ e.issued + (s.jobs.filter fun j => j.live && j.spec.edition == some r.edition).length, .editionFull) ]
    (∀ st, firstOf table st → exec (.submitJob seq r) s = .next (s.answerOnly 0x10 seq st .empty)) ∧
    (noneOf table ↔ s.submitRefused r = none)

/-- R7, R8: a SUBMIT JOB that R5 does not refuse creates the record, ADMITTED with its holdings and a sequence number
when the admission test passes and DEFERRED without any when it fails, every other field at its initial value. The
record is committed, the response is formed after it, and nothing else changes but the reserved totals and the counter.
-/
def Obligations.SubmitJobAdmitsOrDefers : Prop :=
  ∀ (s : State) (seq : Nat) (r : SubmitReq) (k : JobKind) (x : Roll), s.ready → s.sound → s.submitRefused r = none →
    jobKindOf r.kind = some k → s.roll? r.roll = some x →
    let sp : JobSpec :=
      { kind := k, edition := if r.editionSupplied then some r.edition else none, roll := r.roll, lead := r.lead,
        image := r.image, tail := r.tail, swaths := r.swaths, estimates := r.estimates }
    let record : JobState → Vec12 → Nat → Option Nat → Job := fun st ink len n =>
      { tag := r.tag, spec := sp, state := st, swathsLeft := r.swaths, stripLeft := 0, toggle := false, lastKind := none,
        lastStrip := none, ink := ink, rollRes := len, seqNo := n, gains := none, handling := none, pLead := none,
        plannedEnd := none, generation := none, strip := .none, check := none, draws := [], printPiece := 0,
        stripPiece := 0, separated := false, cut := .none, cost := none, number := none, cause := none, flags := {} }
    let next := min (s.seqCounter + 1) 4294967295
    ∃ t : State, exec (.submitJob seq r) s = .next t ∧ (∀ n, n ≠ r.tag → t.job? n = s.job? n) ∧ s.commits t (.job r.tag) ∧
      s.store.hands t.store 1 ∧
      match s.admission sp x with
      | .pass ink len =>
        (∀ c, ink.get c = s.needOf sp c) ∧ len = s.mediaOf sp ∧ s.mediaCovers x len ∧
        t.job? r.tag = some (record .admitted ink len (some next)) ∧ s.answered t 0x10 seq .ok (.admitted next ink len) ∧
        t.seqCounter = next ∧ s.commits t .counters ∧
        (∀ c, t.chan c = { s.chan c with reserved := (s.chan c).reserved + ink.get c }) ∧
        t.roll? r.roll = some { x with reserved := x.reserved + len } ∧ (∀ id, id ≠ r.roll → t.roll? id = s.roll? id) ∧
        t = { s with jobs := t.jobs, channels := t.channels, rolls := t.rolls, seqCounter := t.seqCounter
                     store := t.store, port := t.port, out := [] }
      | .inkShort c n =>
        t.job? r.tag = some (record .deferred (Vec12.all 0) 0 none) ∧
        s.answered t 0x10 seq .inkShort (.inkShort c n) ∧
        t = { s with jobs := t.jobs, store := t.store, port := t.port, out := [] }
      | .mediaShort n =>
        t.job? r.tag = some (record .deferred (Vec12.all 0) 0 none) ∧
        s.answered t 0x10 seq .mediaShort (.mediaShort n) ∧
        t = { s with jobs := t.jobs, store := t.store, port := t.port, out := [] }

/-- R9: ADMIT JOB applies the admission test again to a DEFERRED job: a passing test makes it ADMITTED with a new
sequence number, a failing one or a refusal leaves it DEFERRED and changes nothing. -/
def Obligations.AdmitJobTestsADeferredJob : Prop :=
  ∀ (s : State) (seq tag : Nat), s.ready → s.sound →
    (s.job? tag = none → exec (.admitJob seq tag) s = .next (s.answerOnly 0x11 seq .unknownTag .empty)) ∧
    ∀ j, s.job? tag = some j →
      (j.state ≠ .deferred → exec (.admitJob seq tag) s = .next (s.answerOnly 0x11 seq .wrongState .empty)) ∧
      (∀ st, j.state = .deferred → s.claimRefused j.spec = some st →
        exec (.admitJob seq tag) s = .next (s.answerOnly 0x11 seq st .empty)) ∧
      ∀ x, j.state = .deferred → s.claimRefused j.spec = none → s.roll? j.spec.roll = some x →
        match s.admission j.spec x with
        | .pass ink len =>
          let next := min (s.seqCounter + 1) 4294967295
          (∀ c, ink.get c = s.needOf j.spec c) ∧ len = s.mediaOf j.spec ∧ s.mediaCovers x len ∧
          ∃ t : State, exec (.admitJob seq tag) s = .next t ∧
            t.job? tag = some { j with state := .admitted, ink := ink, rollRes := len, seqNo := some next } ∧
            (∀ n, n ≠ tag → t.job? n = s.job? n) ∧ t.seqCounter = next ∧ s.commits t (.job tag) ∧ s.commits t .counters ∧
            s.answered t 0x11 seq .ok (.admitted next ink len) ∧ s.store.hands t.store 1 ∧
            (∀ c, t.chan c = { s.chan c with reserved := (s.chan c).reserved + ink.get c }) ∧
            t.roll? j.spec.roll = some { x with reserved := x.reserved + len } ∧
            (∀ id, id ≠ j.spec.roll → t.roll? id = s.roll? id) ∧
            t = { s with jobs := t.jobs, channels := t.channels, rolls := t.rolls, seqCounter := t.seqCounter
                         store := t.store, port := t.port, out := [] }
        | .inkShort c n => exec (.admitJob seq tag) s = .next (s.answerOnly 0x11 seq .inkShort (.inkShort c n))
        | .mediaShort n => exec (.admitJob seq tag) s = .next (s.answerOnly 0x11 seq .mediaShort (.mediaShort n))

/-- R12: a refused BEGIN JOB answers the first condition of the table that fails and leaves the job as it was. -/
def Obligations.BeginJobRefusesInTableOrder : Prop :=
  ∀ (s : State) (seq tag : Nat), s.ready → s.sound →
    (s.job? tag = none → exec (.beginJob seq tag) s = .next (s.answerOnly 0x12 seq .unknownTag .empty)) ∧
    ∀ j, s.job? tag = some j →
      (j.state ≠ .admitted → exec (.beginJob seq tag) s = .next (s.answerOnly 0x12 seq .wrongState .empty)) ∧
      (j.state = .admitted →
        let ed (p : Edition → Prop) : Prop :=
          j.spec.kind = .edition ∧ ∃ id e, j.spec.edition = some id ∧ s.edition? id = some e ∧ p e
        let grows (c : Chan) : Prop := j.ink.get c + s.usableFree c < s.needOf j.spec c
        let table : List (Prop × Status) :=
          [ ((∃ k ∈ s.jobs, k.state = .printing), .busy),
            (¬ (∃ r, s.activeRoll = some r ∧ r.id = j.spec.roll) ∨ s.media.cutter = .jammed, .mediaNotReady),
            (12 < s.media.queue.length + 2, .cutBacklog),
            (ed fun e => e.state = .locked, .locked),
            (ed fun e => ∃ c i, e.covers c = true ∧ ((s.chan c).segments.get i).blocks = true, .rowFault),
            (ed fun e => ∃ c, e.covers c = true ∧ (s.chan c).expired = true, .expired),
            ((∃ c, grows c), .inkShort) ]
        (∀ st, firstOf table st →
          ∃ b, exec (.beginJob seq tag) s = .next (s.answerOnly 0x12 seq st b) ∧
            (st = .inkShort → ∃ c, grows c ∧ (∀ d, d < c → ¬ grows d) ∧
              b = .inkShort c (s.needOf j.spec c - j.ink.get c - s.usableFree c))) ∧
        (noneOf table ↔ s.beginRefused j = none))

/-- R13, R64, R65, R67: a BEGIN JOB that passes R12 computes the ink reservations anew from the gains as they stand,
takes the gain and handling snapshots, fixes P_lead, planned end, the counts and the toggle, and moves the job to
PRINTING, in one commit. R115, R114, R117: a CHECK job's strip is planned with its strip-end cut, unarmed and with its
strip start; an entry that becomes the head gets its STOP_AT and its cut start test. Stated where the roll law holds with
the new roll reservation; what R10 and R11 do where it fails is `Obligations.WithdrawalAndTrimmingRestoreTheLaws`. A media
figure beyond 32 bits is a free value (log 6). -/
def Obligations.BeginJobStartsPrinting : Prop :=
  ∀ (s : State) (seq tag : Nat) (j : Job) (r : Roll), s.ready → s.sound → s.job? tag = some j → j.state = .admitted →
    s.beginRefused j = none → s.activeRoll = some r →
    let g := s.media.geometry
    let isCheck := j.spec.kind = .check
    let pLead := max r.fed r.boundary
    let last := fit32 (pLead + s.mediaOf j.spec)
    let handling := s.capture .handling (match j.spec.kind with | .edition => 1 | .proof => 2 | .check => 3)
    r.reserved + (last - r.fed) - j.rollRes ≤ r.length - r.fed →
    ∃ t : State, exec (.beginJob seq tag) s = .next t ∧
      s.answered t 0x12 seq .ok (.gains (Vector.ofFn fun c => (s.chan c).cfg.gain)) ∧
      t.job? tag = some
        { j with
          state := .printing, ink := Vector.ofFn (s.needOf j.spec), rollRes := last - r.fed
          gains := some (Vector.ofFn fun c => (s.chan c).cfg.gain), handling := some handling.1
          flags := { j.flags with unpriced := j.flags.unpriced || handling.2 }
          pLead := some pLead, plannedEnd := some last, swathsLeft := j.spec.swaths, toggle := false, lastKind := none
          strip := if isCheck then .planned else j.strip
          stripLeft := if isCheck then s.check.plan.stripSwaths else j.stripLeft
          generation := if isCheck then (j.spec.edition.bind s.edition?).map Edition.generation else j.generation
          cut := if isCheck then .pending else j.cut } ∧
      (∀ n, n ≠ tag → t.job? n = s.job? n) ∧ s.commits t (.job tag) ∧ s.store.hands t.store 1 ∧
      (∀ c, t.chan c = { s.chan c with reserved := (s.chan c).reserved + s.needOf j.spec c - j.ink.get c }) ∧
      (∀ id, id ≠ r.id → t.roll? id = s.roll? id) ∧
      t.roll? r.id = some
        { r with reserved := r.reserved + (last - r.fed) - j.rollRes
                 boundary := if isCheck then fit32 (pLead + g.stripGap + g.stripLength) else r.boundary } ∧
      (¬ isCheck → t.media = s.media ∧ t.out = []) ∧
      (isCheck →
        let point := fit32 (pLead + g.stripGap + g.stripLength)
        let e : CutEntry :=
          { kind := .stripEnd, point := point, target := fit32 (point + g.cutterOffset), owner := some tag
            stripStart := some (fit32 (pLead + g.stripGap)), armed := false }
        let cuts : Prop := s.media.queue = [] ∧ s.media.cutter = .idle ∧ e.target ≤ r.fed
        t.media.queue = s.media.queue ++ [e] ∧
        (cuts → t.media.cutter = .cutting ∧ t.media.timer = some g.cutTimeout) ∧
        (¬ cuts → t.media.cutter = s.media.cutter ∧ t.media.timer = s.media.timer) ∧
        t.out = (if s.media.queue = [] then [.stopAt (some e.target)] else []) ++
          (if cuts then [.cut .stripEnd e.target] else []) ∧
        t.media = { s.media with queue := t.media.queue, cutter := t.media.cutter, timer := t.media.timer }) ∧
      t = { s with jobs := t.jobs, channels := t.channels, rolls := t.rolls, media := t.media, store := t.store
                   port := t.port, out := t.out }

/-- R17, R26: CANCEL JOB of an ADMITTED or DEFERRED job releases its holdings and removes the record; RETIRE JOB removes
a SETTLED or VOIDED one and changes no other record. The removal is committed and the response is OK. R19: a record in
another state is refused WRONG_STATE, and a tag that names no record UNKNOWN_TAG. -/
def Obligations.CancelAndRetireRemoveTheRecord : Prop :=
  (∀ (s : State) (seq tag reason : Nat), s.ready → s.job? tag = none →
    exec (.cancelJob seq tag reason) s = .next (s.answerOnly 0x13 seq .unknownTag .empty) ∧
    exec (.retireJob seq tag) s = .next (s.answerOnly 0x15 seq .unknownTag .empty)) ∧
  ∀ (s : State) (seq tag reason : Nat) (j : Job), s.ready → s.sound → s.job? tag = some j →
    (j.state = .admitted ∨ j.state = .deferred →
      ∃ t : State, exec (.cancelJob seq tag reason) s = .next t ∧ t.job? tag = none ∧ (∀ n, n ≠ tag → t.job? n = s.job? n) ∧
        (∀ c, t.chan c = { s.chan c with reserved := (s.chan c).reserved - j.ink.get c }) ∧
        (∀ r, s.roll? j.spec.roll = some r →
          t.roll? j.spec.roll = some { r with reserved := r.reserved - j.rollRes }) ∧
        (∀ id, id ≠ j.spec.roll → t.roll? id = s.roll? id) ∧ t.notices = s.notices ∧
        s.commits t (.job tag) ∧ s.store.hands t.store 1 ∧ s.answered t 0x13 seq .ok .empty ∧
        t = { s with jobs := t.jobs, channels := t.channels, rolls := t.rolls, store := t.store, port := t.port
                     out := [] }) ∧
    (j.state = .settled ∨ j.state = .voided →
      exec (.cancelJob seq tag reason) s = .next (s.answerOnly 0x13 seq .wrongState .empty) ∧
      ∃ t : State, exec (.retireJob seq tag) s = .next t ∧ t.job? tag = none ∧ (∀ n, n ≠ tag → t.job? n = s.job? n) ∧
        s.commits t (.job tag) ∧ s.store.hands t.store 1 ∧ s.answered t 0x15 seq .ok .empty ∧
        t = { s with jobs := t.jobs, store := t.store, port := t.port, out := [] }) ∧
    (¬ (j.state = .settled ∨ j.state = .voided) →
      exec (.retireJob seq tag) s = .next (s.answerOnly 0x15 seq .wrongState .empty))

/-- R18: CANCEL JOB of a PRINTING job sets ABORT_PENDING and the void cause, releases its holdings and moves it to
FINISHING with a JOB_STATE notice behind its commit. With image swaths remaining its SEPARATE cut is planned by R115,
at F plus the tail, or P_lead plus the tail with F below P_lead, raised to the last planned boundary plus 1; otherwise
its strip is RESOLVED and UNCHECKED, and where its cuts are through it settles VOIDED in the same handling (R15, R21,
R22). R19: CANCEL JOB of a FINISHING job sets VOID_ON_SETTLE and a void cause where none is present; where
ABORT_PENDING or VOID_ON_SETTLE is set already the record is left as it stands. A media figure beyond 32 bits is a
free value (log 6). -/
def Obligations.CancelOfAPrintingOrFinishingJob : Prop :=
  (∀ (s : State) (seq tag reason : Nat) (j : Job) (r : Roll), s.ready → s.sound → s.job? tag = some j →
    j.state = .printing → s.activeRoll = some r → j.spec.roll = r.id →
    let cause : VoidCause := j.cause.getD (if reason = 0 then .cancelled else .aborted)
    let lead := j.pLead.getD 0
    let planned := (if r.fed < lead then lead else r.fed) + j.spec.tail
    let point := fit32 (if r.boundary < planned then planned else r.boundary + 1)
    let image : Prop := j.spec.kind ≠ .check ∧ 0 < j.swathsLeft
    (¬ image → j.cut = .done ∨ j.cut = .uncut →
      ∃ (t : State) (j' : Job), exec (.cancelJob seq tag reason) s = .next t ∧ t.job? tag = some j' ∧
        j'.state = .voided ∧ j'.cause = some cause ∧ j'.strip = .resolved ∧ j'.flags.unchecked = true ∧
        (∃ x, j'.cost = some x ∧ s.figuresOf j x) ∧ (∀ c, j'.ink.get c = 0) ∧ j'.rollRes = 0 ∧
        (∀ n, n ≠ tag → t.job? n = s.job? n) ∧ s.commits t (.job tag) ∧ s.answered t 0x13 seq .ok .empty ∧
        (∀ c, t.chan c = { s.chan c with reserved := (s.chan c).reserved - j.ink.get c }) ∧
        t.roll? r.id = some { r with reserved := r.reserved - j.rollRes } ∧
        s.noticed t
          [(1, .num tag, .jobState .finishing (some cause) { j.flags with abortPending := true, unchecked := true }),
           (2, .num tag, .jobState .voided (some cause) j'.flags)] ∧
        t = { s with jobs := t.jobs, channels := t.channels, rolls := t.rolls, editions := t.editions
                     overhead := t.overhead, merged := t.merged, notices := t.notices, store := t.store, port := t.port
                     out := [] }) ∧
    ((image ∨ j.cut = .pending ∨ j.cut = .none) →
    ∃ (t : State) (j' : Job), exec (.cancelJob seq tag reason) s = .next t ∧ t.job? tag = some j' ∧
      j' = { j with
             state := .finishing, ink := Vec12.all 0, rollRes := 0, cause := some cause
             cut := if image then .pending else j.cut
             strip := if image then j.strip else .resolved
             flags := { j.flags with abortPending := true, unchecked := if image then j.flags.unchecked else true } } ∧
      (∀ n, n ≠ tag → t.job? n = s.job? n) ∧ s.commits t (.job tag) ∧ s.answered t 0x13 seq .ok .empty ∧
      s.noticed t [(1, .num tag, .jobState .finishing (some cause) j'.flags)] ∧
      (∀ c, t.chan c = { s.chan c with reserved := (s.chan c).reserved - j.ink.get c }) ∧
      t.roll? r.id = some { r with reserved := r.reserved - j.rollRes, boundary := if image then point else r.boundary } ∧
      (∀ id, id ≠ r.id → t.roll? id = s.roll? id) ∧
      (¬ image → t.media = s.media ∧ t.out = []) ∧
      (image → t.media.queue = s.media.queue ++
        [{ kind := .separate, point := point, target := fit32 (point + s.media.geometry.cutterOffset), owner := some tag,
           stripStart := none, armed := false }]) ∧
      t = { s with jobs := t.jobs, channels := t.channels, rolls := t.rolls, media := t.media, notices := t.notices
                   store := t.store, port := t.port, out := t.out })) ∧
  (∀ (s : State) (seq tag reason : Nat) (j : Job), s.ready → s.sound → s.job? tag = some j → j.state = .finishing →
    (j.flags.abortPending = true ∨ j.flags.voidOnSettle = true →
      exec (.cancelJob seq tag reason) s = .next (s.answerOnly 0x13 seq .ok .empty)) ∧
    (j.flags.abortPending = false → j.flags.voidOnSettle = false →
      ∃ t : State, exec (.cancelJob seq tag reason) s = .next t ∧
        t.job? tag = some
          { j with
            cause := some (j.cause.getD (if reason = 0 then .cancelled else .aborted))
            flags := { j.flags with voidOnSettle := true } } ∧
        (∀ n, n ≠ tag → t.job? n = s.job? n) ∧ s.commits t (.job tag) ∧ s.store.hands t.store 1 ∧
        s.answered t 0x13 seq .ok .empty ∧ t = { s with jobs := t.jobs, store := t.store, port := t.port, out := [] }))

/-- R8, R10, R11, R30: where the ink law fails on a channel, the ADMITTED jobs that hold on it are withdrawn, the
youngest first by sequence number and then by tag, each while the law still fails, until it holds or none is left; then
the printing job's reservation is trimmed by the excess and flagged INK_AT_RISK. A withdrawn job is DEFERRED without
holdings, which leave every reserved total, WITHDRAWN is raised, and its record is committed; no other job changes.
R103: the same on a roll, where the trimmed reservation is the roll's and the flag OVERRUN_MEDIA. Where the handling
gathers its commit points (R80), the commits are called for and made later; otherwise each is a commit point, and a
notice past one waits for its group (R194). That the trimmed job's record is committed is the model's reading (log 15),
and so is when a commit point hands its group (log 39). -/
def Obligations.WithdrawalAndTrimmingRestoreTheLaws : Prop :=
  let withdrawn (s t : State) (w : List Job) (why : Resource) : Prop :=
    (∀ j ∈ w, t.job? j.tag = some j.afterWithdrawal) ∧
    (∀ j ∈ s.jobs, j ∉ w → s.printing? ≠ some j → t.job? j.tag = some j) ∧
    s.notices.takes t.awaited ((withdrawnNotices w why).map fun n => (s.store.called + n.1, n.2)) t.notices ∧
    t = { s with jobs := t.jobs, channels := t.channels, rolls := t.rolls, notices := t.notices, store := t.store
                 handling := t.handling }
  let committed (s t : State) (tags : List Nat) : Prop :=
    match s.handling.gathered with
    | none => s.store.hands t.store tags.length ∧ (∀ n ∈ tags, s.commits t (.job n)) ∧ t.handling = s.handling
    | some l =>
      t.handling =
        { s.handling with gathered := some { l with points := l.points ++ tags.map fun n => [RecKey.job n] } } ∧
      s.store.hands t.store 0
  (∀ (s : State) (c : Chan), s.sound →
    let t := s.enforceInk c
    let holds : Job → Nat := fun j => j.ink.get c
    ∃ w, s.withdrawable w holds (s.chan c).reserved (s.remainingTotal c) ∧ withdrawn s t w (.channel c) ∧
      let rest := (s.chan c).reserved - (w.map holds).sum
      (∀ d, d ≠ c → t.chan d =
        { s.chan d with reserved := (s.chan d).reserved - (w.map fun j => j.ink.get d).sum }) ∧
      (∀ id x, s.roll? id = some x → t.roll? id = some
        { x with reserved := x.reserved - (w.map fun j => if j.spec.roll = id then j.rollRes else 0).sum }) ∧
      (s.printing? = none → t.chan c = { s.chan c with reserved := rest } ∧ committed s t (w.map Job.tag)) ∧
      ∀ j, s.printing? = some j →
        let cut := min (j.ink.get c) (rest - s.remainingTotal c)
        t.chan c = { s.chan c with reserved := rest - cut } ∧
        (cut = 0 → t.job? j.tag = some j ∧ committed s t (w.map Job.tag)) ∧
        (cut ≠ 0 → committed s t (w.map Job.tag ++ [j.tag]) ∧ t.job? j.tag = some
          { j with ink := j.ink.set c (j.ink.get c - cut), flags := { j.flags with inkAtRisk := true } })) ∧
  ∀ (s : State) (r : Roll), s.sound → s.roll? r.id = some r →
    let t := s.enforceRoll r.id
    let holds : Job → Nat := fun j => if j.spec.roll = r.id then j.rollRes else 0
    ∃ w, s.withdrawable w holds r.reserved (r.length - r.fed) ∧ withdrawn s t w (.roll r.id) ∧
      let rest := r.reserved - (w.map holds).sum
      (∀ d, t.chan d = { s.chan d with reserved := (s.chan d).reserved - (w.map fun j => j.ink.get d).sum }) ∧
      (∀ n, n ≠ r.id → t.roll? n = s.roll? n) ∧
      (s.printing? = none → t.roll? r.id = some { r with reserved := rest } ∧ committed s t (w.map Job.tag)) ∧
      ∀ j, s.printing? = some j →
        let cut := min (holds j) (rest - (r.length - r.fed))
        t.roll? r.id = some { r with reserved := rest - cut } ∧
        (cut = 0 → t.job? j.tag = some j ∧ committed s t (w.map Job.tag)) ∧
        (cut ≠ 0 → committed s t (w.map Job.tag ++ [j.tag]) ∧ t.job? j.tag = some
          { j with rollRes := j.rollRes - cut, flags := { j.flags with overrunMedia := true } })

/-! ### Ink channels and lots (spec/02_ink_channels_and_lots.md) -/

/-- R31, R29: SET CHANNEL is refused by its table, in table order; taken, it writes every fixed field brought to the
nearest limit, leaves the residue, slots and reservations, re-evaluates the channel state with its notice, and commits
the channel record before the response, which returns it with the remaining total, the usable free volume and the state.
That the table is read in its written order (log 56), and that a notice held since an earlier event stands before its
notice once raised (log 23), is the model's choice. -/
def Obligations.SetChannelWritesTheFixedFields : Prop :=
  ∀ (s : State) (seq : Nat) (r : ChannelReq), s.ready → s.sound →
    let limit : Nat → Nat → Nat → Nat := fun lo hi n => max lo (min hi n)
    let table : List (Prop × Status) :=
      [ (11 < r.channel, .badParam), ((∃ j ∈ s.jobs, j.state = .printing), .busy),
        ((∃ c : Chan, c.val = r.channel ∧ r.product ≠ (s.chan c).cfg.product ∧
          ((s.chan c).slots.slotA.isSome = true ∨ (s.chan c).slots.slotB.isSome = true)), .slotOccupied) ]
    (∀ st, firstOf table st → exec (.setChannel seq r) s = .next (s.answerOnly 0x20 seq st .empty)) ∧
    (noneOf table → ∀ c : Chan, c.val = r.channel →
      let given : ChannelConfig :=
        { product := r.product, vS := r.vS, vM := r.vM, vL := r.vL, weight := r.weight, gain := r.gain
          margin := r.margin, allowance := r.allowance, reserve := r.reserve }
      let cfg : ChannelConfig :=
        { product := r.product, vS := limit 5 200 r.vS, vM := limit 5 200 r.vM, vL := limit 5 200 r.vL
          weight := limit 3072 5120 r.weight, gain := limit 768 1280 r.gain, margin := limit 100 150 r.margin
          allowance := limit 0 1000000 r.allowance, reserve := limit 0 100000000 r.reserve }
      let rem := s.slotVolume c .A + s.slotVolume c .B
      let new : ChannelState := if rem = 0 then .out else if rem ≤ cfg.reserve then .low else .ready
      ∃ t : State, exec (.setChannel seq r) s = .next t ∧
        t.chan c = { s.chan c with cfg := cfg, state := new } ∧ (∀ d, d ≠ c → t.chan d = s.chan d) ∧
        t.notices =
          (if new = (s.chan c).state then s.notices
           else
            match new with
            | .ready => s.notices
            | .low => s.notices.given (.num c.val) (.channelLow rem cfg.reserve)
            | .out => s.notices.given (.num c.val) (.channelOut rem cfg.reserve)) ∧
        s.commits t (.channel c) ∧ s.store.hands t.store 1 ∧
        s.answered t 0x20 seq (if cfg = given then .ok else .okClamped)
          (.channelSet cfg (s.chan c).slots (s.chan c).residue (s.chan c).reserved (s.chan c).expired rem
            (rem - cfg.reserve - (s.chan c).reserved) new) ∧
        t = { s with channels := t.channels, notices := t.notices, store := t.store, port := t.port, out := [] })

/-- R37: the refusals of INSTALL LOT, the first condition of the table that holds; the request then changes nothing.
R37, R33, R39, R46: an INSTALL LOT that passes its table creates the record at the price of the Price Table, or resumes
a SHELVED one as it stands; evaluates its expiry and the channel state; and, where no slot was active, makes the slot
active with a lot change: editions over the channel are locked or lose their provisional reference (R160), the printing
job that uses the channel is flagged LOT_CHANGED, and LOT_CHANGE is raised. That LOT_CHANGE comes before the
EDITION_LOCKED notices, and that the job flagged is committed before the response, are the model's reading (logs 11,
40). -/
def Obligations.InstallLotRefusesOrPlacesTheLot : Prop :=
  (∀ (s : State) (seq : Nat) (r : InstallReq), s.ready → s.sound →
    let here (p : Chan → TankSlot → Prop) : Prop :=
      ∃ (c : Chan) (t : TankSlot), c.val = r.channel ∧ r.slot = (match t with | .A => 0 | .B => 1) ∧ p c t
    let known (p : Lot → Prop) : Prop := ∃ l, s.lot? r.code = some l ∧ p l
    let table : List (Prop × Status) :=
      [ (r.code = 0, .badKey),
        (11 < r.channel ∨ 1 < r.slot ∨ r.fill = 0 ∨ 1000000000 < r.fill ∨ r.product = 0, .badParam),
        ((here fun c _ => r.product ≠ (s.chan c).cfg.product ∨ (s.chan c).cfg.product = 0), .mismatch),
        ((here fun c t => ((s.chan c).slots.at t).isSome = true), .slotOccupied),
        ((known fun l => l.location.isSome = true), .lotInUse),
        ((known fun l => l.state = .exhausted), .wrongState),
        ((known fun l => l.fill ≠ r.fill ∨ l.product ≠ r.product), .mismatch),
        (s.lot? r.code = none ∧ 48 ≤ s.lots.length, .tableFull) ]
    (∀ st, firstOf table st → exec (.installLot seq r) s = .next (s.answerOnly 0x22 seq st .empty)) ∧
    (noneOf table ↔
      r.code ≠ 0 ∧ ¬ (r.fill = 0 ∨ 1000000000 < r.fill ∨ r.product = 0) ∧
        here fun c t => s.installRefused r c t = none)) ∧
  (∀ (s : State) (seq : Nat) (r : InstallReq) (c : Chan) (p : TankSlot), s.ready → s.sound →
    c.val = r.channel → r.slot = (match p with | .A => 0 | .B => 1) → r.code ≠ 0 →
    ¬ (r.fill = 0 ∨ 1000000000 < r.fill ∨ r.product = 0) → s.installRefused r c p = none →
    let price := s.capture .ink r.product
    let placed : Lot := (s.lot? r.code).elim
      { code := r.code, channel := c, product := r.product, fill := r.fill, remaining := r.fill, imageDrawn := 0
        stripDrawn := 0, maintDrawn := 0, price := price.1, expiry := r.expiry, location := some p, state := .loaded
        unpriced := price.2, uncertain := false, expired := false }
      fun l => { l with state := .loaded, location := some p, channel := c }
    let lot : Lot := { placed with expired := placed.expired || decide (placed.expiry < s.day) }
    let change : Prop := (s.chan c).slots.active = none
    ∃ t : State, exec (.installLot seq r) s = .next t ∧
      t.lot? r.code = some lot ∧ (∀ n, n ≠ r.code → t.lot? n = s.lot? n) ∧
      t.chan c =
        { s.chan c with
          slots := { (s.chan c).slots.put p (some r.code) with active := if change then some p else (s.chan c).slots.active }
          state := channelStateOf (t.remainingTotal c) (s.chan c).cfg.reserve
          expired := if change then lot.expired else (s.chan c).expired } ∧
      (∀ d, d ≠ c → t.chan d = s.chan d) ∧
      ((s.chan c).slots.at p.other ≠ some r.code → t.remainingTotal c = s.slotVolume c p.other + lot.remaining) ∧
      (¬ change → t.editions = s.editions ∧ t.jobs = s.jobs) ∧
      (change → s.changedOver t c ∧
        (∀ j, s.printing? = some j → j.uses c = true →
          t.job? j.tag = some { j with flags := { j.flags with lotChanged := true } } ∧
          (j.flags.lotChanged = false → s.commits t (.job j.tag))) ∧
        (∀ n, (∀ j, s.printing? = some j → j.tag ≠ n) → t.job? n = s.job? n) ∧
        ∃ before locks m, s.noticed t (before ++ (m, .num c.val, .lotChange 0 r.code) :: locks) ∧
          (∀ n ∈ before, n.2.2.kind = .lotExpired ∨ n.2.2.kind = .channelLow ∨ n.2.2.kind = .channelOut) ∧
          ∀ n ∈ locks, n.2.2.kind = .editionLocked) ∧
      s.commits t (.lot r.code) ∧ s.commits t (.slots c) ∧ (∃ n, s.store.hands t.store n) ∧
      s.answered t 0x22 seq .ok
        (.installed lot (t.remainingTotal c) (t.chan c).state (decide ((s.chan c).slots.active = none))) ∧
      t = { s with lots := t.lots, channels := t.channels, editions := t.editions, jobs := t.jobs, notices := t.notices
                   store := t.store, port := t.port, out := [] })

/-- R41, R33, R35, R39, R47, R160: REMOVE LOT empties the slot; the lot becomes SHELVED, or stays EXHAUSTED, with location
none; the active slot moves where the removed lot was active: to the other slot's LOADED lot, which is a lot change and
treats the editions over the channel, flags the printing job that uses it and raises LOT_CHANGE, or else to none, which is
none and changes no edition; the expired flag follows the active lot. The channel state follows, the ink law is restored
by R10 and R11, and the records are committed before the response. An empty slot answers SLOT_EMPTY and a channel or slot
out of range BAD_PARAM, and nothing changes. That LOT_CHANGE comes before the EDITION_LOCKED notices, and that the job
flagged is committed with the lot change, are the model's reading (logs 11, 40). -/
def Obligations.RemoveLotEmptiesTheSlot : Prop :=
  ∀ (s : State) (seq : Nat), s.ready → s.sound →
    (∀ channel slot, 11 < channel ∨ 1 < slot →
      exec (.removeLot seq channel slot) s = .next (s.answerOnly 0x23 seq .badParam .empty)) ∧
    ∀ (c : Chan) (p : TankSlot),
      let n := match p with | .A => 0 | .B => 1
      (s.lotIn c p = none → exec (.removeLot seq c.val n) s = .next (s.answerOnly 0x23 seq .slotEmpty .empty)) ∧
      ∀ l, s.lotIn c p = some l → (s.chan c).slots.at p.other ≠ some l.code →
        let l' : Lot := { l with location := none, state := if l.remaining = 0 then .exhausted else .shelved }
        let standby : Option Lot :=
          if (s.chan c).slots.active = some p then (s.lotIn c p.other).filter fun b => b.state == .loaded else none
        ∃ t : State, exec (.removeLot seq c.val n) s = .next t ∧
          t.lot? l.code = some l' ∧ (∀ k, k ≠ l.code → t.lot? k = s.lot? k) ∧
          t.chan c =
            { s.chan c with
              slots :=
                { (s.chan c).slots.put p none with
                  active :=
                    if (s.chan c).slots.active = some p then
                      if (s.lotIn c p.other).map Lot.state = some .loaded then some p.other else none
                    else (s.chan c).slots.active }
              state := channelStateOf (s.slotVolume c p.other) (s.chan c).cfg.reserve
              expired :=
                if (s.chan c).slots.active = some p then (standby.map Lot.expired).getD false else (s.chan c).expired
              reserved := (t.chan c).reserved } ∧
          (∀ b, standby = some b → s.lotChangedTo t c l.code b.code) ∧ (standby = none → s.keptLot t) ∧
          (∀ d, d ≠ c → t.chan d = { s.chan d with reserved := (t.chan d).reserved }) ∧
          ((t.chan c).reserved ≤ s.slotVolume c p.other ∨
            ((∀ j ∈ t.jobs, j.state = .admitted → j.ink.get c = 0) ∧ ∀ j, t.printing? = some j → j.ink.get c = 0)) ∧
          s.commits t (.lot l.code) ∧ s.commits t (.slots c) ∧ (∃ n, s.store.hands t.store n) ∧
          s.answered t 0x23 seq .ok (.lotAt l' (some (s.slotVolume c p.other, (t.chan c).state))) ∧
          t = { s with lots := t.lots, channels := t.channels, jobs := t.jobs, rolls := t.rolls, editions := t.editions
                       notices := t.notices, store := t.store, port := t.port, out := [] }

/-- R42, R35: AMEND LOT writes the new remaining, at most the fill, moves the maintenance-drawn total by the old
remaining less the new, clears UNCERTAIN, and gives the lot the state of its remaining and location; the fill and the
other drawn totals stay, so R36 goes on holding. Of a lot in no slot nothing else changes. R43, R33, R38, R39, R47: of a
lot in a slot the channel state follows, a channel without active slot takes it up with a lot change, the active lot
amended to 0 hands over to the LOADED lot of the other slot, which is a lot change, or leaves no active slot, which is
none, and the ink law is restored by R10 and R11 where the remaining fell. That LOT_CHANGE comes before the EDITION_LOCKED
notices, and that the job a lot change flags is committed with it, are the model's reading (logs 11, 40). -/
def Obligations.AmendLotBooksTheDifference : Prop :=
  ∀ (s : State) (seq code remaining : Nat), s.ready → s.sound →
    (exec (.amendLot seq 0 remaining) s = .next (s.answerOnly 0x24 seq .badKey .empty)) ∧
    (code ≠ 0 → s.lot? code = none →
      exec (.amendLot seq code remaining) s = .next (s.answerOnly 0x24 seq .unknownLot .empty)) ∧
    ∀ l, code ≠ 0 → s.lot? code = some l →
      let v := min remaining l.fill
      let l' : Lot :=
        { l with
          remaining := v, maintDrawn := l.maintDrawn + ((l.remaining : Int) - (v : Int)), uncertain := false
          state := if v = 0 then .exhausted else if l.location = none then .shelved else .loaded }
      ∃ t : State, exec (.amendLot seq code remaining) s = .next t ∧ t.lot? code = some l' ∧
        (∀ n, n ≠ code → t.lot? n = s.lot? n) ∧ s.commits t (.lot code) ∧ (∃ n, s.store.hands t.store n) ∧
        s.answered t 0x24 seq (if l.fill < remaining then .okClamped else .ok)
          (.lotAt l' (if l.location = none then none else some (t.remainingTotal l.channel, (t.chan l.channel).state))) ∧
        (l.location = none → t = { s with lots := t.lots, store := t.store, port := t.port, out := [] }) ∧
        (∀ p, l.location = some p →
          (t.chan l.channel).state = channelStateOf (t.remainingTotal l.channel) (s.chan l.channel).cfg.reserve ∧
          (let slots := (s.chan l.channel).slots
           (slots.active = none → 0 < v →
             (t.chan l.channel).slots = { slots with active := some p } ∧ s.lotChangedTo t l.channel 0 code ∧
             (slots.at p = some code → (t.chan l.channel).expired = l.expired)) ∧
           (slots.active = some p → v = 0 → slots.at p.other ≠ some code →
             (∀ b, s.lotIn l.channel p.other = some b → b.state = .loaded →
               (t.chan l.channel).slots = { slots with active := some p.other } ∧
               (t.chan l.channel).expired = b.expired ∧ s.lotChangedTo t l.channel code b.code) ∧
             ((∀ b, s.lotIn l.channel p.other = some b → b.state ≠ .loaded) →
               (t.chan l.channel).slots = { slots with active := none } ∧ (t.chan l.channel).expired = false ∧
               s.commits t (.slots l.channel) ∧ s.keptLot t)) ∧
           (¬ (slots.active = none ∧ 0 < v) → ¬ (slots.active = some p ∧ v = 0) →
             (t.chan l.channel).slots = slots ∧ (t.chan l.channel).expired = (s.chan l.channel).expired ∧ s.keptLot t)) ∧
          (v < l.remaining → (t.chan l.channel).reserved ≤ t.remainingTotal l.channel ∨
            ((∀ j ∈ t.jobs, j.state = .admitted → j.ink.get l.channel = 0) ∧
              ∀ j, t.printing? = some j → j.ink.get l.channel = 0)) ∧
          (l.remaining ≤ v → ∀ d, (t.chan d).reserved = (s.chan d).reserved)) ∧
        (∀ d, d ≠ l.channel → t.chan d = { s.chan d with reserved := (t.chan d).reserved }) ∧
        t = { s with lots := t.lots, channels := t.channels, jobs := t.jobs, rolls := t.rolls, editions := t.editions
                     notices := t.notices, store := t.store, port := t.port, out := [] }

/-- R44: RETIRE LOT removes the record of a lot in no slot that no PRINTING or FINISHING job drew from, and changes
nothing else; its refusals come in table order. R108, R109: RETIRE ROLL removes the record of a roll in no slot that no
PRINTING or FINISHING job names, its refusals in order; READ ROLL returns a record, or with id 0 the list of the rolls,
and changes nothing. -/
def Obligations.RetireLotRetireRollAndReadRoll : Prop :=
  (∀ (s : State) (seq code : Nat), s.ready → s.sound →
    let table : List (Prop × Status) :=
      [ (code = 0, .badKey), (s.lot? code = none, .unknownLot),
        ((∃ l, s.lot? code = some l ∧ l.location ≠ none), .lotInUse),
        ((∃ j ∈ s.jobs, (j.state = .printing ∨ j.state = .finishing) ∧ ∃ d ∈ j.draws, d.lot = code), .lotReferenced) ]
    (∀ st, firstOf table st → exec (.retireLot seq code) s = .next (s.answerOnly 0x25 seq st .empty)) ∧
    (noneOf table →
      ∃ t : State, exec (.retireLot seq code) s = .next t ∧ t.lot? code = none ∧ (∀ n, n ≠ code → t.lot? n = s.lot? n) ∧
        s.commits t (.lot code) ∧ s.store.hands t.store 1 ∧ s.answered t 0x25 seq .ok .empty ∧
        t = { s with lots := t.lots, store := t.store, port := t.port, out := [] })) ∧
  (∀ (s : State) (seq id : Nat), s.ready → s.sound →
    let table : List (Prop × Status) :=
      [ (id = 0, .badKey), (s.roll? id = none, .unknownRoll),
        ((∃ r, s.roll? id = some r ∧ r.slot ≠ none), .rollInUse),
        ((∃ j ∈ s.jobs, (j.state = .printing ∨ j.state = .finishing) ∧ j.spec.roll = id), .rollReferenced) ]
    (∀ st, firstOf table st → exec (.retireRoll seq id) s = .next (s.answerOnly 0x33 seq st .empty)) ∧
    (noneOf table →
      ∃ t : State, exec (.retireRoll seq id) s = .next t ∧ t.roll? id = none ∧ (∀ n, n ≠ id → t.roll? n = s.roll? n) ∧
        s.commits t (.roll id) ∧ s.store.hands t.store 1 ∧ s.answered t 0x33 seq .ok .empty ∧
        t = { s with rolls := t.rolls, store := t.store, port := t.port, out := [] }) ∧
    (∀ r, id ≠ 0 → s.roll? id = some r → exec (.readRoll seq id) s = .next (s.answerOnly 0x34 seq .ok (.roll r))) ∧
    (id ≠ 0 → s.roll? id = none → exec (.readRoll seq id) s = .next (s.answerOnly 0x34 seq .unknownRoll .empty)) ∧
    exec (.readRoll seq 0) s =
      .next (s.answerOnly 0x34 seq .ok (.rollList (s.rolls.map fun r => (r.id, r.state, r.slot, r.length - r.fed)))))

/-- R46, R47: SET DAY writes and commits the day number, flags every lot whose expiry day is less than it, keeps a flag
already set, raises LOT_EXPIRED and commits the record for each lot newly flagged, and answers their number; each
channel's expired flag is then that of its active lot. That the notices come in ascending lot code order (log 32) and
that the day and each lot make a commit group of their own (logs 17, 39) are the model's choice. -/
def Obligations.SetDayFlagsExpiredLots : Prop :=
  ∀ (s : State) (seq day : Nat), s.ready → s.sound →
    let late : Lot → Bool := fun l => decide (l.expiry < day)
    let flagged := s.lots.filter fun l => late l && !l.expired
    ∃ t : State, exec (.setDay seq day) s = .next t ∧ t.day = day ∧
      t.lots = s.lots.map (fun l => { l with expired := l.expired || late l }) ∧
      s.noticed t (flagged.zipIdx.map fun p => (p.2 + 2, .num p.1.code, .lotExpired p.1.channel p.1.expiry)) ∧
      (∀ c, t.chan c = { s.chan c with expired := ((t.activeLot c).map Lot.expired).getD false }) ∧
      s.commits t .counters ∧ (∀ l ∈ flagged, s.commits t (.lot l.code)) ∧ s.store.hands t.store (1 + flagged.length) ∧
      s.answered t 0x27 seq .ok (.lotsFlagged flagged.length) ∧
      t = { s with day := t.day, lots := t.lots, channels := t.channels, notices := t.notices, store := t.store
                   port := t.port, out := [] }

/-! ### Metering (spec/03_ink_metering_and_reservations.md) -/

/-- R51: the draw is the weighted total divided by 40,960,000, rounded down, and the candidate residue the remainder; a
frame without drops on a channel draws nothing from it and leaves its residue; the largest draw is 1,258,292 nL. -/
def Obligations.DrawIsWeightedTotalDivided : Prop :=
  ∀ (ch : Channel) (d : Drops),
    (ch.draw d * 40960000 + ch.candidate d =
      (d.nS * ch.cfg.vS + d.nM * ch.cfg.vM + d.nL * ch.cfg.vL) * ch.cfg.weight + ch.residue) ∧
    ch.candidate d < 40960000 ∧ ch.draw d = ch.drawOf d ∧ ch.candidate d = ch.residueOf d ∧
    (d = ⟨0, 0, 0⟩ → ch.residue < 40960000 → ch.draw d = 0 ∧ ch.candidate d = ch.residue) ∧
    (d.nS ≤ 16777215 → d.nM ≤ 16777215 → d.nL ≤ 16777215 → ch.cfg.vS ≤ 200 → ch.cfg.vM ≤ 200 → ch.cfg.vL ≤ 200 →
      ch.cfg.weight ≤ 5120 → ch.residue ≤ 40959999 → ch.draw d ≤ 1258292)

/-- R57, R58, R38: a draw that reaches the active lot's remaining takes all of it, exhausts it and takes the excess from
the lot in the other slot, which has become active; a draw equal to the remaining leaves nothing to take there. R33: where
the other slot holds no LOADED lot, a draw equal to the remaining leaves no active slot. The parts are booked to the
image, strip or maintenance total by what draws: an image swath, a strip swath or a purge. -/
def Obligations.SplitDrawTakesTheExcessFromTheStandbyLot : Prop :=
  (∀ (s : State) (c : Chan) (p : TankSlot) (a : Lot) (k : Option SwathKind), s.sound →
    (s.chan c).slots.active = some p → s.lotIn c p = some a → 0 < a.remaining → a.location = some p →
    (∀ b, s.lotIn c p.other = some b → b.state ≠ .loaded) →
    let r := s.drawChannel k c a.remaining
    r.2 = [(a.code, a.remaining)] ∧ r.1.lot? a.code = some (a.drawn k a.remaining) ∧
    (r.1.chan c).slots = { (s.chan c).slots with active := none } ∧ ∀ n, n ≠ a.code → r.1.lot? n = s.lot? n) ∧
  ∀ (s : State) (c : Chan) (p : TankSlot) (a b : Lot) (k : Option SwathKind) (v : Nat), s.sound →
    (s.chan c).slots.active = some p → s.lotIn c p = some a → s.lotIn c p.other = some b → a.code ≠ b.code →
    b.state = .loaded → 0 < a.remaining → 0 < b.remaining → a.location = some p → b.location = some p.other →
    a.remaining ≤ v → v - a.remaining ≤ b.remaining →
    let excess := v - a.remaining
    let r := s.drawChannel k c v
    let more (x : Lot) (n : Nat) (rest : Nat) (st : LotState) : Lot :=
      { x with remaining := rest, state := st
               imageDrawn := x.imageDrawn + if k = some .image then n else 0
               stripDrawn := x.stripDrawn + if k = some .strip then n else 0
               maintDrawn := x.maintDrawn + if k = none then (n : Int) else 0 }
    r.2 = (if excess = 0 then [(a.code, a.remaining)] else [(a.code, a.remaining), (b.code, excess)]) ∧
    r.1.lot? a.code = some (more a a.remaining 0 .exhausted) ∧
    r.1.lot? b.code = some
      (more b excess (b.remaining - excess) (if b.remaining = excess then .exhausted else .loaded)) ∧
    (r.1.chan c).slots = { (s.chan c).slots with active := if b.remaining = excess then none else some p.other } ∧
    ∀ n, n ≠ a.code → n ≠ b.code → r.1.lot? n = s.lot? n

/-- R57, R38, R39, R43, R60, R62, R82, R160, R163: a purge, or a swath of the printing job, whose draws on one or more
channels reach the active lot's remaining and not more than both lots' together, is accepted. On each such channel the
active lot is exhausted, the standby lot is active and gives the excess, which is 0 where the draw equals the remaining,
the channel state and expired flag follow, and the lots and the slot fields are committed; each lot drawn from has its dirty
mark, and the clean marker is erased (R195, R196); each lot change reaches the
editions over its channel and the printing job. Where no LOADED lot stands by, a draw equal to the remaining leaves no
active slot and makes no lot change (R33, R38). On every other channel drawn on the draw is booked to the active lot.
The job's list takes the parts; a purge is costed from them. That the commits of a purge are made behind its effects, as
R80 says of a swath, so that they hold both lots as the whole draw leaves them, is the model's choice (log 39). -/
def Obligations.ExhaustingFrameMovesToTheStandbyLot : Prop :=
  ∀ (s : State) (p : Chan → TankSlot) (a b : Chan → Lot) (standby : Chan → Bool) (counts : DropCounts),
    s.takesFrame → s.sound → s.phase = .run →
    let v : Chan → Nat := fun c => (s.chan c).drawOf (counts.get c)
    let out : Chan → Prop := fun c => v c ≠ 0 ∧ (a c).remaining ≤ v c
    let excess : Chan → Nat := fun c => v c - (a c).remaining
    let moves : Chan → Prop := fun c => out c ∧ standby c = true
    let left : Chan → Nat := fun c => if standby c then (b c).remaining - excess c else 0
    (∃ c, out c) →
    (∀ c, v c ≠ 0 → (s.chan c).slots.active = some (p c) ∧ s.lotIn c (p c) = some (a c) ∧ 0 < (a c).remaining ∧
      (a c).location = some (p c) ∧ ∀ d, d ≠ c → v d ≠ 0 → (a c).code ≠ (a d).code) →
    (∀ c, moves c → s.lotIn c (p c).other = some (b c) ∧ (b c).state = .loaded ∧ 0 < (b c).remaining ∧
      excess c ≤ (b c).remaining ∧ (b c).location = some (p c).other ∧ (a c).code ≠ 0 ∧
      (∀ d, v d ≠ 0 → (a d).code ≠ (b c).code) ∧ ∀ d, d ≠ c → moves d → (b c).code ≠ (b d).code) →
    (∀ c, out c → standby c = false → v c = (a c).remaining ∧
      ∀ l, s.lotIn c (p c).other = some l → l.state ≠ .loaded ∧ l.remaining = 0 ∧
        (∀ d, v d ≠ 0 → (a d).code ≠ l.code) ∧ ∀ d, moves d → (b d).code ≠ l.code) →
    let changes : Edition → Nat := fun e => (Chan.list.filter fun c => decide (moves c) && e.covers c).length
    let moved (t : State) (k : Option SwathKind) : Prop :=
      (∀ c, out c → t.lot? (a c).code = some ((a c).drawn k (a c).remaining)) ∧
      (∀ c, moves c → t.lot? (b c).code = some ((b c).drawn k (excess c))) ∧
      (∀ c, v c ≠ 0 → ¬ out c → t.lot? (a c).code = some ((a c).drawn k (v c))) ∧
      (∀ n, (∀ c, v c ≠ 0 → n ≠ (a c).code) → (∀ c, moves c → n ≠ (b c).code) → t.lot? n = s.lot? n) ∧
      (∀ c, out c → t.chan c =
        { s.chan c with
          slots := { (s.chan c).slots with active := if left c = 0 then none else some (p c).other }
          residue := (s.chan c).residueOf (counts.get c), reserved := (t.chan c).reserved
          state := if left c = 0 then .out else if left c ≤ (s.chan c).cfg.reserve then .low else .ready
          expired := if left c = 0 then false else (b c).expired }) ∧
      (∀ c, v c ≠ 0 → ¬ out c → t.chan c =
        { s.chan c with
          residue := (s.chan c).residueOf (counts.get c), reserved := (t.chan c).reserved
          state := if t.remainingTotal c = 0 then .out
                   else if t.remainingTotal c ≤ (s.chan c).cfg.reserve then .low else .ready }) ∧
      (∀ c, v c = 0 → t.chan c =
        { s.chan c with residue := (s.chan c).residueOf (counts.get c), reserved := (t.chan c).reserved }) ∧
      (∀ e ∈ s.editions,
        (changes e = 0 ∨ e.state = .closed → t.edition? e.id = some e) ∧
        (changes e ≠ 0 → e.state = .opened ∨ e.state = .locked → t.edition? e.id = some
          { e with state := .locked, causes := { e.causes with lotChange := true }
                   generation := (e.generation + changes e) % 65536 }) ∧
        (changes e ≠ 0 → e.state = .proving →
          t.edition? e.id = some { e with provisional := none, stale := e.stale || s.stripOut e.id })) ∧
      (∀ j, s.printing? = some j → ∃ j', t.job? j.tag = some j' ∧
        j'.flags.lotChanged = (j.flags.lotChanged || decide (∃ c, moves c ∧ j.uses c = true))) ∧
      (∀ c, out c → s.commits t (.lot (a c).code) ∧ s.commits t (.slots c)) ∧ (∀ c, moves c → s.commits t (.lot (b c).code)) ∧
      (∀ k, k ∈ t.store.dirty ↔ k ∈ s.store.dirty ∨ (∃ c, v c ≠ 0 ∧ k = .lot (a c).code) ∨
        ∃ c, moves c ∧ excess c ≠ 0 ∧ k = .lot (b c).code) ∧ t.store.marker = false ∧
      t = { s with channels := t.channels, lots := t.lots, jobs := t.jobs, rolls := t.rolls, media := t.media
                   check := t.check, editions := t.editions, overhead := t.overhead, merged := t.merged
                   notices := t.notices, head := t.head, store := t.store, out := t.out }
    (∀ toggle, s.head.purgeToggle ≠ some (!toggle) →
      let worth (l : Lot) (n : Nat) : Nat := if l.unpriced then 0 else n * l.price
      ∃ t : State, exec (.purge toggle counts) s = .next t ∧ s.headAnswered t (.accept .none) ∧ moved t none ∧
        t.head.purgeToggle = some (!toggle) ∧ t.media = s.media ∧ t.check = s.check ∧ t.merged = s.merged ∧
        t.overhead = { s.overhead with
          maintenance := min 18446744073709551615 (s.overhead.maintenance +
            (Chan.list.map fun c =>
              if v c = 0 then 0
              else if v c < (a c).remaining then worth (a c) (v c)
              else worth (a c) (a c).remaining + worth (b c) (excess c)).sum) }) ∧
    ∀ (tag kind : Nat) (k : SwathKind) (j : Job) (toggle : Bool), s.media.cutter ≠ .jammed → swathKindOf kind = some k →
      s.swathVerdict tag k toggle = .go j → s.printing? = some j →
      ∃ (t : State) (j' : Job) (i : StripInd), exec (.swath tag kind toggle counts) s = .next t ∧
        s.headAnswered t (.accept i) ∧ moved t (some k) ∧ t.overhead = s.overhead ∧ t.job? tag = some j' ∧
        j'.toggle = (!j.toggle) ∧
        j'.flags.overrunInk = (j.flags.overrunInk || decide (∃ c, v c ≠ 0 ∧ j.ink.get c < v c)) ∧
        (∀ c, v c = 0 → entriesOn j'.draws c = entriesOn j.draws c) ∧
        (∀ c, v c ≠ 0 → ¬ out c → entriesOn j.draws c = [] →
          entriesOn j'.draws c = [(⟨c, (a c).code, 0, 0⟩ : DrawEntry).plus k (v c)]) ∧
        ∀ c, out c → (entriesOn j.draws c).length ≤ 1 →
          (∀ d ∈ j.draws, d.channel = c → d.lot ≠ (a c).code ∧ d.lot ≠ (b c).code) →
          entriesOn j'.draws c = entriesOn j.draws c ++ [(⟨c, (a c).code, 0, 0⟩ : DrawEntry).plus k (a c).remaining] ++
            if excess c = 0 then [] else [(⟨c, (b c).code, 0, 0⟩ : DrawEntry).plus k (excess c)]

/-! ### The Head Link (spec/04_the_head_link.md) -/

/-- R74, R75, R78, R79 and section 4.2: a swath stopped by one of tests 1 to 11 is answered by the first that holds and
changes nothing. R76, R54, R55: a swath whose verdict is GO is held by the first of POWER, JAMMED and INK_OUT that
applies; the notices of a failed coverage test are raised whatever the answer, and no record changes. That several of
those notices are raised in ascending channel order (log 32) and that a notice held since an earlier event stands before
them once raised (log 23), that an ADMITTED job's swath is answered NOT_BEGUN in FLUSH too, against the table of R200
(log 55), and that a job restored VOIDED with MEDIA_END is answered MEDIA_END, against R88 (log 53), is the model's
choice. -/
def Obligations.SwathIsStoppedInTableOrder : Prop :=
  (∀ (s : State) (tag kind : Nat) (toggle : Bool) (counts : DropCounts), s.takesFrame → s.sound →
    let job (p : Job → Prop) : Prop := ∃ j, s.job? tag = some j ∧ p j
    let lastImage : Job → Bool := fun j => j.lastKind == some .image && j.swathsLeft == 0
    let again : StripInd :=
      (s.job? tag).elim .none fun j =>
        if lastImage j then (match j.lastStrip with | some true => .yes | some false => .no | none => .none) else .none
    let table : List (Prop × HeadAnswer) :=
      [ (1 < kind, .crcBad), (s.phase = .restore, .hold .power),
        (s.job? tag = none, .block .unknownTag),
        ((job fun j => j.state = .deferred ∨ j.state = .settled ∨ (j.state = .voided ∧ j.cause ≠ some .mediaEnd)),
          .block .notLive),
        ((job fun j => j.state = .voided), .block .mediaEnd),
        ((job fun j => j.state = .admitted), .hold .notBegun),
        ((job fun j => j.flags.abortPending = true), .block .aborted),
        ((job fun j => j.cause = some .mediaEnd), .block .mediaEnd),
        ((job fun j => toggle ≠ j.toggle ∧ j.lastKind = swathKindOf kind), .accept again),
        ((job fun j => toggle ≠ j.toggle), .block .sequence),
        ((job fun j => kind = 0 ∧ j.swathsLeft = 0), .block .noImage),
        ((job fun j => kind = 1 ∧ ¬ (j.strip = .planned ∧ 0 < j.stripLeft)), .block .noStrip) ]
    (∀ a, firstOf table a →
      exec (.swath tag kind toggle counts) s = .next (State.advanceFlush { s with out := [.head a] })) ∧
    (noneOf table ↔ s.phase ≠ .restore ∧ ∃ k j, swathKindOf kind = some k ∧ s.swathVerdict tag k toggle = .go j)) ∧
  (∀ (s : State) (tag kind : Nat) (k : SwathKind) (j : Job) (toggle : Bool) (counts : DropCounts),
    s.takesFrame → s.sound → s.phase ≠ .restore → swathKindOf kind = some k → s.swathVerdict tag k toggle = .go j →
    let short : Chan → Prop := fun c => s.remainingTotal c < (s.chan c).drawOf (counts.get c)
    let noticed := Chan.list.filter fun c =>
      decide (s.remainingTotal c < (s.chan c).drawOf (counts.get c)) && (s.chan c).state != .out
    let notices := noticed.foldl
      (fun q c => q.given (.num c.val) (.channelOut (s.remainingTotal c) (s.chan c).cfg.reserve)) s.notices
    let held (h : HoldCause) : Prop :=
      exec (.swath tag kind toggle counts) s =
        .next (State.advanceFlush { s with notices := notices, out := [.head (.hold h)] })
    (s.phase = .flush → held .power) ∧
    (s.phase = .run → s.media.cutter = .jammed → held .jammed) ∧
    (∀ c, s.phase = .run → s.media.cutter ≠ .jammed → short c → (∀ e, e < c → ¬ short e) → held (.inkOut c)))

/-- R80, R56, R53, R58, R14, R77, R81, R15: an accepted swath of the printing job writes every residue, books each draw
to its lot, with its dirty mark (R195), and its draw list, erases the clean marker (R196), sets it against its
reservation, flips the toggle, counts the swath, decides the strip at the last image swath and ends the printing where
it ends it; the answer carries the strip indication. R61, R62: a part goes into the entry of its channel and lot, into a
new one behind the list, or, with three entries on the channel, into the third of them, which flags PRICE_MERGED. R59,
R66: the reservation and the reserved total fall by the draw, to 0 at least; stated where the ink law then holds. R115,
R114, R117: at the last image swath the job's SEPARATE cut is planned at P_lead plus lead, image and tail, and with a
strip the STRIP_END cut behind it with its strip start; the cut state is PENDING, the entries join the Cut Queue, the
boundary moves, and an entry that becomes the head gets its STOP_AT and its cut start test. A media figure beyond 32
bits is a free value (log 6). No draw exhausts a lot here: `Obligations.ExhaustingFrameMovesToTheStandbyLot`. -/
def Obligations.AcceptedSwathMetersAndAdvances : Prop :=
  ∀ (s : State) (tag kind : Nat) (k : SwathKind) (j : Job) (toggle : Bool) (counts : DropCounts) (lot : Chan → Lot),
    s.takesFrame → s.sound → s.phase = .run → s.media.cutter ≠ .jammed → swathKindOf kind = some k →
    s.swathVerdict tag k toggle = .go j → j.state = .printing → s.drawsFit counts lot →
    let v : Chan → Nat := fun c => (s.chan c).drawOf (counts.get c)
    let last : Prop := k = .image ∧ j.swathsLeft = 1
    let proving : Prop := ∃ id e, j.spec.edition = some id ∧ s.edition? id = some e ∧ e.state = .proving
    let yes : Prop :=
      s.check.plan.effective ≤ s.check.counter + 1 ∨ s.check.forced = true ∨ j.flags.lotChanged = true ∨
        j.flags.rowFaultDuring = true ∨ proving
    let ends : Prop := (last ∧ ¬ yes) ∨ (k = .strip ∧ j.stripLeft = 1)
    let own : Chan → Prop := fun c => ∃ d ∈ j.draws, d.channel = c ∧ d.lot = (lot c).code
    let full : Chan → Prop := fun c => ¬ own c ∧ 3 ≤ (entriesOn j.draws c).length
    let less : Chan → Nat := fun c => (s.chan c).reserved + (j.ink.get c - v c) - j.ink.get c
    let geo := s.media.geometry
    let sep := fit32 (j.pLead.getD 0 + j.spec.lead + j.spec.image + j.spec.tail)
    let stop := fit32 (sep + geo.stripGap + geo.stripLength)
    let sepCut : CutEntry := { kind := .separate, point := sep, target := fit32 (sep + geo.cutterOffset)
                               owner := some tag, stripStart := none, armed := false }
    let stripCut : CutEntry := { kind := .stripEnd, point := stop, target := fit32 (stop + geo.cutterOffset)
                                 owner := some tag, stripStart := some (fit32 (sep + geo.stripGap)), armed := false }
    ∃ (t : State) (j' : Job) (a : StripInd), exec (.swath tag kind toggle counts) s = .next t ∧
      s.headAnswered t (.accept a) ∧ t.job? tag = some j' ∧
      (∀ c, (t.chan c).residue = (s.chan c).residueOf (counts.get c)) ∧
      (∀ c, v c ≠ 0 → t.lot? (lot c).code = some
        { lot c with
          remaining := (lot c).remaining - v c, state := lotStateOf ((lot c).remaining - v c) (lot c).location
          imageDrawn := (lot c).imageDrawn + if k = .image then v c else 0
          stripDrawn := (lot c).stripDrawn + if k = .strip then v c else 0 }) ∧
      (∀ n, (∀ c, v c ≠ 0 → n ≠ (lot c).code) → t.lot? n = s.lot? n) ∧
      (∀ k, k ∈ t.store.dirty ↔ k ∈ s.store.dirty ∨ ∃ c, v c ≠ 0 ∧ k = .lot (lot c).code) ∧ t.store.marker = false ∧
      j'.toggle = !j.toggle ∧ j'.lastKind = some k ∧ j'.spec = j.spec ∧ j'.gains = j.gains ∧
      j'.swathsLeft = (if k = .image then j.swathsLeft - 1 else j.swathsLeft) ∧
      j'.flags.overrunInk = (j.flags.overrunInk || decide (∃ c, v c ≠ 0 ∧ j.ink.get c < v c)) ∧
      (∀ c, v c = 0 → entriesOn j'.draws c = entriesOn j.draws c) ∧
      (∀ c, v c ≠ 0 → own c → entriesOn j'.draws c =
        (entriesOn j.draws c).map fun d => if d.lot = (lot c).code then d.plus k (v c) else d) ∧
      (∀ c, v c ≠ 0 → ¬ own c → (entriesOn j.draws c).length < 3 →
        entriesOn j'.draws c = entriesOn j.draws c ++ [(⟨c, (lot c).code, 0, 0⟩ : DrawEntry).plus k (v c)]) ∧
      (∀ c e, v c ≠ 0 → full c → (entriesOn j.draws c).getLast? = some e →
        (tag, (lot c).code) ∈ t.merged ∧
        entriesOn j'.draws c = (entriesOn j.draws c).map fun d => if d.lot = e.lot then d.plus k (v c) else d) ∧
      j'.flags.priceMerged = (j.flags.priceMerged || decide (∃ c, v c ≠ 0 ∧ full c)) ∧
      ((∀ c, v c ≠ 0 → less c ≤ t.remainingTotal c) →
        (∀ n, n ≠ tag → t.job? n = s.job? n) ∧ j'.flags.inkAtRisk = j.flags.inkAtRisk ∧
        (¬ ends → ∀ c, j'.ink.get c = j.ink.get c - v c ∧ (t.chan c).reserved = less c) ∧
        (ends → ∀ c, (t.chan c).reserved = less c - (j.ink.get c - v c))) ∧
      (ends → j'.state = .finishing ∧ j'.rollRes = 0 ∧ (∀ c, j'.ink.get c = 0) ∧ ∃ before, s.noticed t
        (before ++ [(t.store.called - s.store.called, .num tag, .jobState .finishing j'.cause j'.flags)])) ∧
      (¬ ends → j'.state = .printing) ∧
      (last → yes → a = .yes ∧ j'.lastStrip = some true ∧ j'.strip = .planned ∧
        j'.stripLeft = s.check.plan.stripSwaths ∧ t.check = s.check) ∧
      (last → ¬ yes → a = .no ∧ j'.lastStrip = some false ∧ j'.strip = j.strip ∧
        t.check = { s.check with counter := min (s.check.counter + 1) 255 }) ∧
      (¬ last → a = .none ∧ j'.lastStrip = j.lastStrip ∧ t.check = s.check ∧ t.media = s.media) ∧
      (last → j'.cut = .pending) ∧ (¬ last → j'.cut = j.cut) ∧
      (∀ r, last → s.activeRoll = some r →
        (yes → t.media.queue = s.media.queue ++ [sepCut, stripCut]) ∧
        (¬ yes → t.media.queue = s.media.queue ++ [sepCut]) ∧
        (∃ x, t.roll? r.id = some x ∧ x = { r with boundary := x.boundary, reserved := x.reserved } ∧
          (yes → x.boundary = stop) ∧ (¬ yes → x.boundary = sep)) ∧
        t.media = { s.media with queue := t.media.queue, cutter := t.media.cutter, timer := t.media.timer } ∧
        (s.media.queue ≠ [] → t.media.cutter = s.media.cutter ∧ t.media.timer = s.media.timer ∧ t.out.length ≤ 1) ∧
        (s.media.queue = [] → t.out.head? = some (.stopAt (some sepCut.target)) ∧
          (s.media.cutter = .idle → sepCut.target ≤ r.fed →
            t.media.cutter = .cutting ∧ t.media.timer = some geo.cutTimeout ∧ .cut .separate sepCut.target ∈ t.out) ∧
          (s.media.cutter ≠ .idle ∨ r.fed < sepCut.target →
            t.media.cutter = s.media.cutter ∧ t.media.timer = s.media.timer))) ∧
      (¬ last → k = .image → j'.strip = j.strip ∧ j'.stripLeft = j.stripLeft) ∧
      (k = .strip → j'.stripLeft = j.stripLeft - 1 ∧ j'.strip = if j.stripLeft = 1 then .printed else j.strip) ∧
      t = { s with channels := t.channels, lots := t.lots, jobs := t.jobs, rolls := t.rolls, media := t.media
                   check := t.check, merged := t.merged, notices := t.notices, head := t.head, store := t.store
                   out := t.out }

/-- R82, R83, R68, R69: a repeat of the last purge is accepted and not metered; a new one is held in POWER and where a
channel is not covered, which leaves the expected toggle; else it is accepted, metered to maintenance and costed, each
lot drawn from has its dirty mark and the clean marker is erased (R58, R195, R196), and the expected toggle is set; it
sets nothing against a reservation (R59), so that no job changes where the ink law still holds. No draw exhausts a lot
here: `Obligations.ExhaustingFrameMovesToTheStandbyLot`. -/
def Obligations.PurgeIsMeteredToMaintenance : Prop :=
  ∀ (s : State) (toggle : Bool) (counts : DropCounts), s.takesFrame → s.sound →
    let v : Chan → Nat := fun c => (s.chan c).drawOf (counts.get c)
    let again : Prop := s.head.purgeToggle = some (!toggle)
    let answer (a : HeadAnswer) : Prop :=
      exec (.purge toggle counts) s = .next (State.advanceFlush { s with out := [.head a] })
    (s.phase = .restore → answer (.hold .power)) ∧
    (s.phase ≠ .restore → again → answer (.accept .none)) ∧
    (s.phase = .flush → ¬ again → answer (.hold .power)) ∧
    (∀ c, s.phase = .run → ¬ again → s.remainingTotal c < v c → (∀ e, e < c → v e ≤ s.remainingTotal e) →
      ∃ t : State, exec (.purge toggle counts) s = .next t ∧ t.out = [.head (.hold (.inkOut c))] ∧
        t = { s with notices := t.notices, out := t.out }) ∧
    (∀ lot, s.phase = .run → ¬ again → s.drawsFit counts lot →
      let cost := (Chan.list.map fun c => if v c = 0 ∨ (lot c).unpriced then 0 else v c * (lot c).price).sum
      s.overhead.maintenance + cost ≤ 18446744073709551615 →
      ∃ t : State, exec (.purge toggle counts) s = .next t ∧ s.headAnswered t (.accept .none) ∧
        t.head.purgeToggle = some (!toggle) ∧
        (∀ c, (t.chan c).residue = (s.chan c).residueOf (counts.get c)) ∧
        (∀ c, v c ≠ 0 → t.lot? (lot c).code = some
          { lot c with
            remaining := (lot c).remaining - v c, state := lotStateOf ((lot c).remaining - v c) (lot c).location
            maintDrawn := (lot c).maintDrawn + v c }) ∧
        (∀ n, (∀ c, v c ≠ 0 → n ≠ (lot c).code) → t.lot? n = s.lot? n) ∧
        (∀ k, k ∈ t.store.dirty ↔ k ∈ s.store.dirty ∨ ∃ c, v c ≠ 0 ∧ k = .lot (lot c).code) ∧
        ((∃ c, v c ≠ 0) → t.store.marker = false) ∧
        t.overhead = { s.overhead with maintenance := s.overhead.maintenance + cost } ∧
        (∀ id, (t.job? id).map Job.draws = (s.job? id).map Job.draws) ∧
        ((∀ c, v c ≠ 0 → (s.chan c).reserved ≤ t.remainingTotal c) →
          t.jobs = s.jobs ∧ t.rolls = s.rolls ∧ ∀ c, (t.chan c).reserved = (s.chan c).reserved) ∧
        t = { s with channels := t.channels, lots := t.lots, jobs := t.jobs, rolls := t.rolls, overhead := t.overhead
                     notices := t.notices, head := t.head, store := t.store, out := t.out })

/-- R84, R85, R73: a ROW_STATUS with valid fields writes the fault state and is answered TAKEN; a fault flags the
printing job that uses the channel, and one that is new and unmasked raises ROW_FAULT. A field out of range is answered
BAD_FIELD and in RESTORE NOT_READY, and nothing changes. R86, R73: a ROW_MAP_QUERY is answered with the 48 entries,
SPARE where the spare state is SOFT or HARD, and changes nothing; in RESTORE it is answered NOT_READY. That a ROW_STATUS
makes no commit point, also where it flags the printing job, is the model's reading (log 40), and that a
notice held since an earlier event stands before its notice once raised, its choice (log 23). -/
def Obligations.RowStatusAndRowMapQuery : Prop :=
  (∀ (s : State) (channel segment fault : Nat), s.takesFrame → s.sound →
    (s.phase = .restore → exec (.rowStatus channel segment fault) s = .next { s with out := [.head (.ack .notReady)] }) ∧
    (s.phase ≠ .restore → 11 < channel ∨ 3 < segment ∨ 2 < fault →
      exec (.rowStatus channel segment fault) s = .next (State.advanceFlush { s with out := [.head (.ack .badField)] })) ∧
    ∀ (c : Chan) (i : Fin 4) (f : RowFault), s.phase ≠ .restore → c.val = channel → i.val = segment →
      rowFaultOf fault = some f →
      let g := (s.chan c).segments.get i
      let mask := match f with | .ok => false | .missing => g.maskMissing | .weeping => g.maskWeeping
      ∃ t : State, exec (.rowStatus channel segment fault) s = .next t.advanceFlush ∧
        t.out = [.head (.ack .taken)] ∧ (t.chan c).segments.get i = { g with fault := f } ∧
        (∀ h, h ≠ i → (t.chan c).segments.get h = (s.chan c).segments.get h) ∧
        (t.chan c = { s.chan c with segments := (t.chan c).segments }) ∧ (∀ d, d ≠ c → t.chan d = s.chan d) ∧
        (∀ j, s.printing? = some j → t.job? j.tag = some
          { j with flags := { j.flags with rowFaultDuring := j.flags.rowFaultDuring || (f != .ok && j.uses c) } }) ∧
        (∀ n, (∀ j, s.printing? = some j → n ≠ j.tag) → t.job? n = s.job? n) ∧
        t.notices =
          (if f ≠ .ok ∧ f ≠ g.fault ∧ mask = false then s.notices.given (.segment c i) (.rowFault f g.spare)
           else s.notices) ∧
        s.store.hands t.store 0 ∧
        t = { s with channels := t.channels, jobs := t.jobs, notices := t.notices, store := t.store, out := t.out }) ∧
  (∀ s : State, s.takesFrame → s.sound →
    (s.phase = .restore → exec .rowMapQuery s = .next { s with out := [.head (.ack .notReady)] }) ∧
    (s.phase ≠ .restore → ∃ m : List Bool,
      exec .rowMapQuery s = .next (State.advanceFlush { s with out := [.head (.rowMap m)] }) ∧ m.length = 48 ∧
      ∀ (c : Chan) (i : Fin 4),
        m[4 * c.val + i.val]? = some (decide (((s.chan c).segments.get i).spare ≠ .unused))))

/-! ### Nozzle rows (spec/05_nozzle_rows_and_spare_substitution.md) -/

/-- R91: SET ROW MASK writes both mask bits as given, raises ROW_FAULT where the bit of the fault present goes from set
to clear, commits the channel record, and changes nothing else; a channel or segment out of range is refused BAD_PARAM.
That the notice does not wait for the record's commit group (log 57), and that a notice held since an earlier event
stands before it once raised (log 23), is the model's choice. R93 to R97: SUBSTITUTE ROW is refused by its table; taken,
it gives the segment its spare state, clears its fault, sets the forced-check flag, locks the OPEN and LOCKED editions
over the channel and discards the provisional references of PROVING ones, marked stale where a strip of theirs is out
(R160), and answers how many of each; a HARD one commits the channel record. -/
def Obligations.RowMasksAndSubstitution : Prop :=
  (∀ (s : State) (seq channel segment : Nat) (m w : Bool), s.ready → s.sound →
    (11 < channel ∨ 3 < segment →
      exec (.setRowMask seq channel segment m w) s = .next (s.answerOnly 0x28 seq .badParam .empty)) ∧
    ∀ (c : Chan) (i : Fin 4), c.val = channel → i.val = segment →
      let g := (s.chan c).segments.get i
      let g' : Segment := { g with maskMissing := m, maskWeeping := w }
      let cleared : Prop :=
        (g.fault = .missing ∧ g.maskMissing = true ∧ m = false) ∨ (g.fault = .weeping ∧ g.maskWeeping = true ∧ w = false)
      ∃ t : State, exec (.setRowMask seq channel segment m w) s = .next t ∧ (t.chan c).segments.get i = g' ∧
        (∀ h, h ≠ i → (t.chan c).segments.get h = (s.chan c).segments.get h) ∧
        t.chan c = { s.chan c with segments := (t.chan c).segments } ∧ (∀ d, d ≠ c → t.chan d = s.chan d) ∧
        (cleared → t.notices = s.notices.given (.segment c i) (.rowFault g.fault g.spare)) ∧
        (¬ cleared → t.notices = s.notices) ∧ s.commits t (.channel c) ∧ s.store.hands t.store 1 ∧
        s.answered t 0x28 seq .ok (.segment g') ∧
        t = { s with channels := t.channels, notices := t.notices, store := t.store, port := t.port, out := [] }) ∧
  (∀ (s : State) (seq channel segment kind : Nat), s.ready → s.sound →
    let here (p : Segment → Prop) : Prop :=
      ∃ (c : Chan) (i : Fin 4), c.val = channel ∧ i.val = segment ∧ p ((s.chan c).segments.get i)
    let table : List (Prop × Status) :=
      [ (11 < channel ∨ 3 < segment ∨ 1 < kind, .badParam), ((∃ j ∈ s.jobs, j.state = .printing), .busy),
        ((here fun g => g.spare = .hard), .noSpare), ((here fun g => kind = 0 ∧ g.spare = .soft), .noSpare) ]
    (∀ st, firstOf table st →
      exec (.substituteRow seq channel segment kind) s = .next (s.answerOnly 0x29 seq st .empty)) ∧
    ∀ (c : Chan) (i : Fin 4), noneOf table → c.val = channel → i.val = segment →
      let g' : Segment := { (s.chan c).segments.get i with fault := .ok, spare := if kind = 0 then .soft else .hard }
      let live : Edition → Bool := fun e => e.covers c && (e.state == .opened || e.state == .locked)
      let proving : Edition → Bool := fun e => e.covers c && e.state == .proving
      ∃ t : State, exec (.substituteRow seq channel segment kind) s = .next t ∧ (t.chan c).segments.get i = g' ∧
        (∀ h, h ≠ i → (t.chan c).segments.get h = (s.chan c).segments.get h) ∧
        t.chan c = { s.chan c with segments := (t.chan c).segments } ∧ (∀ d, d ≠ c → t.chan d = s.chan d) ∧
        t.check = { s.check with forced := true } ∧
        (∀ e ∈ s.editions, live e = true → t.edition? e.id = some
          { e with state := .locked, causes := { e.causes with substitution := true }
                   generation := (e.generation + 1) % 65536 }) ∧
        (∀ e ∈ s.editions, proving e = true →
          t.edition? e.id = some { e with provisional := none, stale := e.stale || s.stripOut e.id }) ∧
        (∀ e ∈ s.editions, live e = false → proving e = false → t.edition? e.id = some e) ∧
        (kind = 1 → s.commits t (.channel c)) ∧ (∃ n, s.store.hands t.store n) ∧
        s.answered t 0x29 seq .ok
          (.substituted g' (s.editions.filter live).length
            (s.editions.filter fun e => proving e && e.provisional.isSome).length) ∧
        t = { s with channels := t.channels, check := t.check, editions := t.editions, notices := t.notices
                     store := t.store, port := t.port, out := [] })

/-! ### Rolls, feed and cutting (spec/06_rolls_feed_and_cutting.md) -/

/-- R105: the refusals of LOAD ROLL in table order, and the record it writes: a new one at the price of the Price Table,
or the SHELVED one resumed, with a measured remaining where the length is not 0. A length beyond 32 bits is a free value
(log 6). -/
def Obligations.LoadRollCreatesOrResumesTheRecord : Prop :=
  ∀ (s : State) (seq : Nat) (r : LoadRollReq), s.ready → s.sound →
    let here (p : RollSlot → Prop) : Prop := ∃ q, r.slot = (match q with | .upper => 0 | .lower => 1) ∧ p q
    let known (p : Roll → Prop) : Prop := ∃ x, s.roll? r.id = some x ∧ p x
    let table : List (Prop × Status) :=
      [ (r.id = 0, .badKey),
        (1 < r.slot ∨ r.width < 254 ∨ 1626 < r.width ∨ r.product = 0 ∨ (s.roll? r.id = none ∧ r.length = 0), .badParam),
        ((here fun q => s.media.presence q = .absent), .noMedia),
        ((here fun q => ∃ x ∈ s.rolls, x.slot = some q), .slotOccupied),
        ((known fun x => x.slot ≠ none), .rollInUse), ((known fun x => x.state = .ended), .wrongState),
        ((known fun x => x.product ≠ r.product ∨ x.width ≠ r.width), .mismatch),
        (s.roll? r.id = none ∧ 16 ≤ s.rolls.length, .tableFull) ]
    (∀ st, firstOf table st → exec (.loadRoll seq r) s = .next (s.answerOnly 0x30 seq st .empty)) ∧
    ∀ q : RollSlot, noneOf table → r.slot = (match q with | .upper => 0 | .lower => 1) →
      let price := s.capture .media r.product
      let x : Roll := (s.roll? r.id).elim
        { id := r.id, product := r.product, width := r.width, length := r.length, fed := 0, reserved := 0, boundary := 0
          lastCut := 0, lastTarget := 0, price := price.1, unpriced := price.2, state := .loaded, slot := some q
          uncertain := false }
        fun y => { y with state := .loaded, slot := some q
                          length := if r.length = 0 then y.length else fit32 (y.fed + r.length)
                          uncertain := if r.length = 0 then y.uncertain else false }
      ∃ t : State, exec (.loadRoll seq r) s = .next t ∧ t.roll? r.id = some x ∧ (∀ n, n ≠ r.id → t.roll? n = s.roll? n) ∧
        s.commits t (.roll r.id) ∧ s.store.hands t.store 1 ∧ s.answered t 0x30 seq .ok (.roll x) ∧
        t = { s with rolls := t.rolls, store := t.store, port := t.port, out := [] }

/-- R106: SELECT ROLL makes the roll ACTIVE and the one ACTIVE before LOADED, commits both, plans a LEAD_TRIM at F plus
the lead trim, and sends STOP_AT with its target; it is refused UNKNOWN_ROLL, WRONG_STATE or BUSY. A media figure beyond
32 bits is a free value (log 6). -/
def Obligations.SelectRollPlansTheLeadTrim : Prop :=
  ∀ (s : State) (seq id : Nat), s.ready → s.sound →
    let table : List (Prop × Status) :=
      [ (s.roll? id = none, .unknownRoll),
        ((∃ r, s.roll? id = some r ∧ (r.state = .shelved ∨ r.state = .ended)), .wrongState),
        ((∃ j ∈ s.jobs, j.state = .printing ∨ j.state = .finishing) ∨ s.media.queue ≠ [], .busy) ]
    (∀ st, firstOf table st → exec (.selectRoll seq id) s = .next (s.answerOnly 0x31 seq st .empty)) ∧
    ∀ r, noneOf table → s.roll? id = some r →
      let point := fit32 (r.fed + s.media.geometry.leadTrim)
      let target := fit32 (point + s.media.geometry.cutterOffset)
      ∃ t : State, exec (.selectRoll seq id) s = .next t ∧
        t.roll? id = some { r with state := .active, boundary := point } ∧
        (∀ n x, n ≠ id → s.roll? n = some x →
          t.roll? n = some { x with state := if x.state = .active then .loaded else x.state }) ∧
        t.media.queue =
          [{ kind := .leadTrim, point := point, target := target, owner := none, stripStart := none, armed := false }] ∧
        t.media = { s.media with queue := t.media.queue, cutter := t.media.cutter, timer := t.media.timer } ∧
        t.out.head? = some (.stopAt (some target)) ∧
        (s.media.cutter = .idle → r.fed < target → t.media.cutter = .idle ∧ t.feedHold = false ∧ t.out.length = 1) ∧
        s.commits t (.roll id) ∧ (∀ a, s.activeRoll = some a → s.commits t (.roll a.id)) ∧
        s.store.hands t.store 1 ∧ s.answered t 0x31 seq .ok (.selected r.fed point) ∧
        t = { s with rolls := t.rolls, media := t.media, store := t.store, port := t.port, out := t.out }

/-- R107, R10: UNLOAD ROLL takes the roll out of its slot, leaves no roll ACTIVE where it was the ACTIVE one, and withdraws
every ADMITTED job that holds it, the youngest first: each becomes DEFERRED without holdings, which leave the reserved
totals of the roll and of every channel, WITHDRAWN is raised for it, and it is committed. That the roll's own group is
handed behind those of the withdrawn jobs is the model's choice (log 54). -/
def Obligations.UnloadRollWithdrawsItsJobs : Prop :=
  ∀ (s : State) (seq id : Nat), s.ready → s.sound →
    let table : List (Prop × Status) :=
      [ (s.roll? id = none, .unknownRoll), ((∃ r, s.roll? id = some r ∧ r.slot = none), .wrongState),
        ((∃ r, s.roll? id = some r ∧ r.state = .active) ∧
          ((∃ j ∈ s.jobs, (j.state = .printing ∨ j.state = .finishing) ∧ j.spec.roll = id) ∨ s.media.queue ≠ []), .busy) ]
    (∀ st, firstOf table st → exec (.unloadRoll seq id) s = .next (s.answerOnly 0x32 seq st .empty)) ∧
    ∀ r, noneOf table → s.roll? id = some r →
      ∃ (t : State) (w : List Job), exec (.unloadRoll seq id) s = .next t ∧ s.holdersOf id w ∧ s.withdrew t w ∧
        t.roll? id = some
          { r with slot := none, state := if r.state = .ended then .ended else .shelved
                   reserved := r.reserved - (w.map Job.rollRes).sum } ∧
        (∀ n, n ≠ id → t.roll? n = s.roll? n) ∧ (∀ n, (∀ j ∈ w, j.tag ≠ n) → t.job? n = s.job? n) ∧
        s.noticed t (withdrawnNotices w (.roll id)) ∧
        t.out = (if r.state = .active then [.stopAt none] else []) ∧ t.activeRoll.map Roll.id ≠ some id ∧
        s.commits t (.roll id) ∧ s.store.hands t.store (w.length + 1) ∧ s.answered t 0x32 seq .ok (.unloaded w.length) ∧
        t = { s with rolls := t.rolls, jobs := t.jobs, channels := t.channels, notices := t.notices, store := t.store
                     port := t.port, out := t.out }

/-- R104: SET MEDIA GEOMETRY is refused BUSY while a job is PRINTING or FINISHING or the Cut Queue holds an entry;
taken, it writes every value brought to the nearest limit, the sensor offset at most the cutter offset, commits them and
answers them. R130: SET CHECK PLAN is refused by its table; taken, it writes every setting brought to the nearest limit,
commits and answers the plan, and leaves the counter and the forced-check flag. -/
def Obligations.SettingsAreBroughtIntoRange : Prop :=
  (∀ (s : State) (seq : Nat) (g : Geometry), s.ready → s.sound →
    let limit : Nat → Nat → Nat → Nat := fun lo hi n => max lo (min hi n)
    let busy : Prop := (∃ j ∈ s.jobs, j.state = .printing ∨ j.state = .finishing) ∨ s.media.queue ≠ []
    let g' : Geometry :=
      { sensorOffset := min (limit 10000 60000 g.sensorOffset) (limit 20000 100000 g.cutterOffset)
        cutterOffset := limit 20000 100000 g.cutterOffset, stripGap := limit 0 5000 g.stripGap
        stripLength := limit 2000 8000 g.stripLength, leadTrim := limit 500 20000 g.leadTrim
        cutTimeout := limit 500 10000 g.cutTimeout }
    (busy → exec (.setMediaGeometry seq g) s = .next (s.answerOnly 0x36 seq .busy .empty)) ∧
    (¬ busy → ∃ t : State, exec (.setMediaGeometry seq g) s = .next t ∧ t.media = { s.media with geometry := g' } ∧
      s.commits t .geometry ∧ s.store.hands t.store 1 ∧
      s.answered t 0x36 seq (if g' = g then .ok else .okClamped) (.geometry g' (g'.cutterOffset + g'.leadTrim)) ∧
      t = { s with media := t.media, store := t.store, port := t.port, out := [] })) ∧
  (∀ (s : State) (seq : Nat) (r : PlanReq), s.ready → s.sound →
    let limit : Nat → Nat → Nat → Nat := fun lo hi n => max lo (min hi n)
    let near : Int → Int → Int → Int := fun lo hi n => max lo (min hi n)
    let table : List (Prop × Status) :=
      [ (2 < r.cadence ∨ r.labs.length < 1 ∨ 8 < r.labs.length, .badParam),
        ((∃ j ∈ s.jobs, j.strip = .planned ∨ j.strip = .printed), .busy) ]
    (∀ st, firstOf table st → exec (.setCheckPlan seq r) s = .next (s.answerOnly 0x40 seq st .empty)) ∧
    ∀ m, noneOf table → cadenceOf r.cadence = some m →
      let given : CheckPlan :=
        { interval := r.interval, cadence := m, stripSwaths := r.stripSwaths, tolerance := r.tolerance
          densities := r.densities, labs := r.labs }
      let p : CheckPlan :=
        { interval := limit 1 64 r.interval, cadence := m, stripSwaths := limit 1 4 r.stripSwaths
          tolerance := limit 10 1000 r.tolerance
          densities := Vector.ofFn fun c => limit 0 4000 (r.densities.get c)
          labs := r.labs.map fun x => ⟨near 0 10000 x.L, near (-12800) 12799 x.a, near (-12800) 12799 x.b⟩ }
      ∃ t : State, exec (.setCheckPlan seq r) s = .next t ∧ t.check = { s.check with plan := p } ∧ s.commits t .plan ∧
        s.store.hands t.store 1 ∧ s.answered t 0x40 seq (if p = given then .ok else .okClamped) (.plan p) ∧
        t = { s with check := t.check, store := t.store, port := t.port, out := [] })

/-- R120, R123, R202: CUT_FAULT while CUTTING, or the expiry of the cut timer, stops the timer, jams the cutter with the
entry at the head and raises CUT_JAM; neither has an effect while IDLE or JAMMED. R121: CLEAR JAM RETRY is refused
WRONG_STATE unless the cutter is JAMMED; where F is at or beyond the head entry's target it sends CUT again, enters
CUTTING and restarts the timer, and otherwise it enters IDLE. R110, R128: in RESTORE a CUT_FAULT is discarded. R194: a
CUT_FAULT that has to wait for its link's commit groups is held. That the expiry of the cut timer has no effect outside
CUTTING, and that a notice held since an earlier event stands before this one once raised, are the model's choice (logs
19, 23), and that the expiry waits for nothing and that a message is held in a list the model's reading (log 18). -/
def Obligations.JamOfTheCutterAndItsRetry : Prop :=
  (∀ (s : State) (code : Nat), s.mediaWaits → exec (.cutFault code) s = .next (s.holdsMedia (.cutFault code))) ∧
  (∀ (s : State) (code : Nat), s.discardsMessages →
    exec (.cutFault code) s = .next { s with out := [] } ∧ exec .cutTimeout s = .next { s with out := [] }) ∧
  (∀ (s : State) (code : Nat), s.atWork → s.sound →
    (s.media.cutter ≠ .cutting →
      (s.mediaFree → exec (.cutFault code) s = .next (State.thenFlush { s with out := [] })) ∧
      exec .cutTimeout s = .next { s with out := [] }) ∧
    ∀ e rest r, s.media.cutter = .cutting → s.media.queue = e :: rest → s.activeRoll = some r →
      let jammed (why : JamCause) : State :=
        { s with media := { s.media with cutter := .jammed, timer := none }, out := []
                 notices := s.notices.given (.num r.id) (.cutJam e.kind e.owner e.target why) }
      (s.mediaFree → exec (.cutFault code) s = .next (jammed (.fault code)).thenFlush) ∧
      exec .cutTimeout s = .next (jammed .timeout)) ∧
  (∀ (s : State) (seq : Nat), s.ready → s.sound →
    (s.media.cutter ≠ .jammed → exec (.clearJamRetry seq) s = .next (s.answerOnly 0x37 seq .wrongState .empty)) ∧
    ∀ e rest, s.media.cutter = .jammed → s.media.queue = e :: rest →
      ∃ t : State, exec (.clearJamRetry seq) s = .next t ∧
        (e.target ≤ s.feedPos → t.out = [.cut e.kind e.target] ∧
          t.media = { s.media with cutter := .cutting, timer := some s.media.geometry.cutTimeout }) ∧
        (s.feedPos < e.target → t.out = [] ∧ t.media = { s.media with cutter := .idle }) ∧
        s.answered t 0x37 seq .ok (.cutter t.media.cutter) ∧ t = { s with media := t.media, port := t.port, out := t.out })

/-- R118, R119, R122, R123, R202: CUT_DONE while CUTTING completes the head entry's cut and CLEAR JAM SKIP while JAMMED
skips it. The roll's last cut point and target take the entry's values, the piece is attributed by the entry's kind, an
unread strip is resolved as missed with its CHECK_RESULT (R141), a skipped owner is flagged UNCUT, STOP_AT is sent for the
new head, and the roll and the owner are committed, with a LEAD_TRIM the Overhead Account too; behind that commit a
PRINTING owner becomes FINISHING and an owner that settles is noticed (R15, R21). The piece
below the last cut point is a free value (log 43), and the body of CLEAR JAM SKIP's response is the model's reading (log
28). R194: a CUT_DONE that has to wait for its link's commit groups is held (log 18). R110, R128: in RESTORE one is
discarded. -/
def Obligations.CutDoneAndSkipEndTheCut : Prop :=
  (∀ s : State, s.mediaWaits → exec .cutDone s = .next (s.holdsMedia .cutDone)) ∧
  (∀ s : State, s.discardsMessages → exec .cutDone s = .next { s with out := [] }) ∧
  (∀ s : State, s.mediaFree → s.sound → s.media.cutter ≠ .cutting →
    exec .cutDone s = .next (State.thenFlush { s with out := [] })) ∧
  (∀ (s : State) (seq : Nat), s.ready → s.sound → s.media.cutter ≠ .jammed →
    exec (.clearJamSkip seq) s = .next (s.answerOnly 0x37 seq .wrongState .empty)) ∧
  ∀ (s : State) (seq : Nat) (r : Roll) (e : CutEntry) (rest : List CutEntry), s.sound → s.activeRoll = some r →
    s.media.queue = e :: rest →
    let ended (t : State) (skipped : Bool) : Prop := ∃ piece : Nat, (r.lastCut ≤ e.point → piece = e.point - r.lastCut) ∧
      (∃ x, t.roll? r.id = some x ∧
        x = { r with lastCut := e.point, lastTarget := e.target, reserved := x.reserved }) ∧
      (∀ n x, n ≠ r.id → s.roll? n = some x → ∃ y, t.roll? n = some y ∧ y = { x with reserved := y.reserved }) ∧
      t.media.queue = rest ∧ t.out.head? = some (.stopAt (rest.head?.map CutEntry.target)) ∧
      (∀ n, rest.head? = some n → n.target ≤ r.fed → t.media.cutter = .cutting) ∧
      ((∀ n, rest.head? = some n → r.fed < n.target) → t.media.cutter = .idle ∧ t.media.timer = none) ∧
      (e.kind = .leadTrim → e.owner = none → t.jobs = s.jobs ∧
        t.overhead = { s.overhead with
          trims := min (s.overhead.trims + if r.unpriced then 0 else piece * r.width * r.price) 18446744073709551615 }) ∧
      (∀ tag j, e.kind ≠ .leadTrim → e.owner = some tag → s.job? tag = some j → ∃ j', t.job? tag = some j' ∧
        j'.spec = j.spec ∧ j'.draws = j.draws ∧ j'.flags.uncut = (j.flags.uncut || skipped) ∧
        (e.kind = .separate → j'.printPiece = piece ∧ j'.separated = true ∧ j'.stripPiece = j.stripPiece ∧
          j'.strip = j.strip ∧
          j'.cut = if (∃ x ∈ rest, x.kind = .stripEnd ∧ x.owner = some tag) then j.cut
                   else if skipped then .uncut else .done) ∧
        (e.kind = .stripEnd → j'.stripPiece = piece ∧ j'.cut = (if skipped then .uncut else .done) ∧
          j'.printPiece = j.printPiece ∧
          (j.strip = .planned ∨ j.strip = .printed → j'.strip = .resolved ∧ j'.flags.unchecked = true) ∧
          ¬ (j'.state = .printing ∧ j.state = .printing))) ∧
      (∀ n, e.owner ≠ some n → t.job? n = s.job? n) ∧
      s.commits t (.roll r.id) ∧ (∀ tag, e.owner = some tag → s.commits t (.job tag)) ∧
      (e.kind = .leadTrim → s.commits t .counters) ∧
      ((∀ tag, e.owner = some tag → s.job? tag = none) → s.noticed t [] ∧ s.store.hands t.store 1) ∧
      (∀ tag j, e.owner = some tag → s.job? tag = some j → ∃ j', t.job? tag = some j' ∧
        let unread : Prop := e.kind = .stripEnd ∧ (j.strip = .planned ∨ j.strip = .printed)
        let missed : List (Nat × Subject × Detail) :=
          if unread then [(0, .num tag, .checkMissed (if skipped then .skipped else .cut))] else []
        let state (n : Nat) : Nat × Subject × Detail := (n, .num tag, .jobState j'.state j'.cause j'.flags)
        let finishes : Prop := e.kind = .stripEnd ∧ j.state = .printing
        let settles : Prop := j.state = .finishing ∧ j'.state ≠ .finishing
        (finishes → s.store.hands t.store 3 ∧ s.noticed t (missed ++
          [(2, .num tag, .jobState .finishing j.cause
              { j.flags with uncut := j.flags.uncut || skipped, unchecked := j.flags.unchecked || decide unread }),
           state 3])) ∧
        (settles → s.store.hands t.store 2 ∧ s.noticed t (missed ++ [state 2])) ∧
        (¬ finishes → ¬ settles → s.store.hands t.store 1 ∧ s.noticed t missed ∧ j'.state = j.state)) ∧
      (∀ c, t.chan c = { s.chan c with reserved := (t.chan c).reserved }) ∧
      t = { s with rolls := t.rolls, jobs := t.jobs, channels := t.channels, media := t.media, check := t.check
                   editions := t.editions, overhead := t.overhead, merged := t.merged, notices := t.notices
                   store := t.store, port := t.port, out := t.out }
    (s.mediaFree → s.media.cutter = .cutting → ∃ t : State, exec .cutDone s = .next t.thenFlush ∧ ended t false) ∧
    (s.ready → s.media.cutter = .jammed → ∃ t : State, exec (.clearJamSkip seq) s = .next t ∧ ended t true ∧
      s.answered t 0x37 seq .ok (.cutter t.media.cutter))

/-- R111, R112, R124, R195, R202: a FEED moves F, saturating forward and not back below the last completed cut target;
the first movement writes the roll's dirty mark; the printing job's roll reservation follows F, with OVERRUN_MEDIA past
its planned end, and R10 and R11 restore the roll law; every strip that reaches the sensor is marked, and the sensor is
armed for one that is PRINTED (R137). It is discarded out of range, with no roll ACTIVE, or in RESTORE (R110, R128).
R194: one that has to wait for its link's commit groups is held (log 18). -/
def Obligations.FeedMovesTheFeedPosition : Prop :=
  (∀ (s : State) (delta : Int), s.mediaWaits → exec (.feed delta) s = .next (s.holdsMedia (.feed delta))) ∧
  (∀ (s : State) (delta : Int), s.discardsMessages → exec (.feed delta) s = .next { s with out := [] }) ∧
  ∀ (s : State) (delta : Int), s.mediaFree → s.sound →
    (delta < -2000000 ∨ 2000000 < delta ∨ s.activeRoll = none →
      exec (.feed delta) s = .next (State.thenFlush { s with out := [] })) ∧
    ∀ r, -2000000 ≤ delta → delta ≤ 2000000 → s.activeRoll = some r →
      let fed : Nat :=
        if 0 ≤ delta then min (r.fed + delta.toNat) 4294967295 else (max ((r.fed : Int) + delta) r.lastTarget).toNat
      let reached (e : CutEntry) : Bool :=
        e.kind == .stripEnd && decide (e.stripStart.getD 0 + s.media.geometry.sensorOffset ≤ fed)
      ∃ t : State, exec (.feed delta) s = .next t.thenFlush ∧
        (∃ x, t.roll? r.id = some x ∧ x = { r with fed := fed, reserved := x.reserved }) ∧
        (fed ≠ r.fed → RecKey.roll r.id ∈ t.store.dirty) ∧
        t.media.queue = s.media.queue.map (fun e =>
          { e with armed := e.armed || reached e }) ∧
        (∀ e rest, s.media.cutter = .idle → s.media.queue = e :: rest → e.target ≤ fed →
          t.media.cutter = .cutting ∧ t.media.timer = some s.media.geometry.cutTimeout ∧
          .cut e.kind e.target ∈ t.out) ∧
        (∀ j, s.printing? = some j → j.spec.roll = r.id →
          let held := if fed = r.fed then j.rollRes else j.plannedEnd.getD 0 - fed
          r.reserved + held - j.rollRes ≤ r.length - fed →
          (∃ j', t.job? j.tag = some j' ∧ j'.rollRes = held ∧ j'.flags.overrunMedia =
            (j.flags.overrunMedia || decide (0 < delta ∧ fed ≠ r.fed ∧ j.plannedEnd.getD 0 < fed))) ∧
          ∃ x, t.roll? r.id = some x ∧ x.reserved = r.reserved + held - j.rollRes) ∧
        ((∃ x, t.roll? r.id = some x ∧ x.reserved ≤ x.length - x.fed) ∨
          ((∀ j ∈ t.jobs, j.state = .admitted → j.spec.roll = r.id → j.rollRes = 0) ∧
            ∀ j, t.printing? = some j → j.spec.roll = r.id → j.rollRes = 0)) ∧
        (s.media.queue.filter (fun e => !e.armed && reached e) = [] → t.check = s.check) ∧
        (∀ e tag j, s.media.queue.filter (fun e => !e.armed && reached e) = [e] → e.owner = some tag →
          s.job? tag = some j → s.check.arm = none →
          (j.strip ≠ .printed → t.check = s.check) ∧
          (j.strip = .printed →
            t.check = { s.check with armSeq := (s.check.armSeq + 1) % 256, arm := some ⟨(s.check.armSeq + 1) % 256, tag⟩ } ∧
            .arm ((s.check.armSeq + 1) % 256) (s.standard j).labs.length ∈ t.out)) ∧
        (∀ c, t.chan c = { s.chan c with reserved := (t.chan c).reserved }) ∧
        t = { s with rolls := t.rolls, jobs := t.jobs, channels := t.channels, media := t.media, check := t.check
                     editions := t.editions, overhead := t.overhead, merged := t.merged, notices := t.notices
                     store := t.store, out := t.out }

/-- R113, R107, R202: ROLL_PRESENT records the presence of the slot; a PRESENT report, or an ABSENT one for an empty slot,
changes nothing else; an ABSENT report takes a LOADED roll out as UNLOAD ROLL does, its ADMITTED jobs withdrawn (R10), and
an ENDED roll out of its slot.
R126: ROLL_END of a LOADED roll makes it ENDED with its length set to its fed length, withdraws the jobs the roll law no
longer lets stand, trims a printing job's reservation on it (R10, R11), raises ROLL_END and commits the roll, last by the
model's choice (logs 54, 58); for an empty slot, an ENDED roll or a slot out of range it is ignored. R110, R128:
in RESTORE either message is discarded. R194: one that has to wait for its link's commit groups is held (log 18). -/
def Obligations.RollPresentAndLoadedRollEnd : Prop :=
  (∀ (s : State) (slot presence : Nat), s.mediaWaits →
    exec (.rollPresent slot presence) s = .next (s.holdsMedia (.rollPresent slot presence)) ∧
    exec (.rollEnd slot) s = .next (s.holdsMedia (.rollEnd slot))) ∧
  (∀ (s : State) (slot presence : Nat), s.discardsMessages →
    exec (.rollPresent slot presence) s = .next { s with out := [] } ∧
    exec (.rollEnd slot) s = .next { s with out := [] }) ∧
  (∀ (s : State) (slot presence : Nat), s.mediaFree → s.sound →
    (1 < slot ∨ 1 < presence → exec (.rollPresent slot presence) s = .next (State.thenFlush { s with out := [] })) ∧
    ∀ (p : RollSlot) (v : Presence), rollSlotOf slot = some p → presenceOf presence = some v →
      let recorded : Media := match p with | .upper => { s.media with upper := v } | .lower => { s.media with lower := v }
      (v = .present ∨ s.rollIn p = none →
        exec (.rollPresent slot presence) s = .next (State.thenFlush { s with media := recorded, out := [] })) ∧
      ∀ r, v = .absent → s.rollIn p = some r → r.state = .loaded ∨ r.state = .ended →
        ∃ (t : State) (w : List Job), exec (.rollPresent slot presence) s = .next t.thenFlush ∧
          t.media = { recorded with waiting := t.media.waiting } ∧
          (r.state = .loaded → s.holdersOf r.id w) ∧ (r.state = .ended → w = []) ∧ s.withdrew t w ∧
          t.roll? r.id = some
            { r with slot := none, state := if r.state = .ended then .ended else .shelved
                     reserved := r.reserved - (w.map Job.rollRes).sum } ∧
          (∀ n, n ≠ r.id → t.roll? n = s.roll? n) ∧ (∀ n, (∀ j ∈ w, j.tag ≠ n) → t.job? n = s.job? n) ∧
          s.noticed t (withdrawnNotices w (.roll r.id)) ∧ s.commits t (.roll r.id) ∧
          s.store.hands t.store (w.length + 1) ∧
          t = { s with media := t.media, rolls := t.rolls, jobs := t.jobs, channels := t.channels, notices := t.notices
                       store := t.store, out := [] }) ∧
  (∀ (s : State) (slot : Nat), s.mediaFree → s.sound →
    ((rollSlotOf slot).bind s.rollIn = none → exec (.rollEnd slot) s = .next (State.thenFlush { s with out := [] })) ∧
    ∀ r, (rollSlotOf slot).bind s.rollIn = some r →
      (r.state = .ended → exec (.rollEnd slot) s = .next (State.thenFlush { s with out := [] })) ∧
      (r.state = .loaded → ∃ (t : State) (w : List Job), exec (.rollEnd slot) s = .next t.thenFlush ∧
        s.withdrawable w (fun j => if j.spec.roll = r.id then j.rollRes else 0) r.reserved 0 ∧ s.withdrew t w ∧
        let rest := r.reserved - (w.map Job.rollRes).sum
        let printing := s.printing?.filter fun j => j.spec.roll == r.id
        let cut := (printing.map fun j => min j.rollRes rest).getD 0
        let made := w.length + if cut = 0 then 0 else 1
        t.roll? r.id = some { r with state := .ended, length := r.fed, reserved := rest - cut } ∧
        (∀ n, n ≠ r.id → t.roll? n = s.roll? n) ∧
        (∀ n, (∀ j ∈ w, j.tag ≠ n) → (∀ j, printing = some j → cut ≠ 0 → j.tag ≠ n) → t.job? n = s.job? n) ∧
        (∀ j, printing = some j → cut ≠ 0 → s.commits t (.job j.tag) ∧ t.job? j.tag = some
          { j with rollRes := j.rollRes - cut, flags := { j.flags with overrunMedia := true } }) ∧
        s.noticed t (withdrawnNotices w (.roll r.id) ++ [(made, .num r.id, .rollEnd r.fed 0 false)]) ∧
        s.commits t (.roll r.id) ∧ s.store.hands t.store (made + 1) ∧
        t.media = { s.media with waiting := t.media.waiting } ∧
        t = { s with media := t.media, rolls := t.rolls, jobs := t.jobs, channels := t.channels, notices := t.notices
                     store := t.store, out := [] }))

/-- R125, R126, R16, R202: ROLL_END of the ACTIVE roll sets its length to its fed length and makes it ENDED; an ABSENT
report makes it SHELVED out of its slot. Either abandons the cut, discards the Cut Queue, sends STOP_AT NONE, flags
every owner UNCUT, voids the printing job with MEDIA_END and raises ROLL_END. At its end the ADMITTED jobs that the roll
law no longer lets stand are withdrawn, and at an ABSENT report every ADMITTED job that holds the roll (R107, R10). -/
def Obligations.ActiveRollEndDiscardsTheCutQueue : Prop :=
  ∀ (s : State) (slot : Nat) (p : RollSlot) (r : Roll), s.mediaFree → s.sound → rollSlotOf slot = some p →
    s.rollIn p = some r → s.activeRoll = some r →
    let ended (t : State) (absent : Bool) : Prop :=
      (∃ x, t.roll? r.id = some x ∧
        x = if absent then { r with state := .shelved, slot := none, reserved := x.reserved }
            else { r with state := .ended, length := r.fed, reserved := x.reserved }) ∧
      t.activeRoll = none ∧ t.feedHold = true ∧ t.media.queue = [] ∧ t.media.cutter = .idle ∧ t.media.timer = none ∧
      t.out = [.stopAt none] ∧
      (∀ e tag j, e ∈ s.media.queue → e.owner = some tag → s.job? tag = some j →
        ∃ j', t.job? tag = some j' ∧ j'.cut = .uncut ∧ j'.flags.uncut = true ∧ j'.printPiece = j.printPiece ∧
          (j.strip = .planned ∨ j.strip = .printed → j'.strip = .resolved ∧ j'.flags.unchecked = true)) ∧
      (∀ j, s.printing? = some j → j.cause = none →
        ∃ j', t.job? j.tag = some j' ∧ j'.state = .voided ∧ j'.cause = some .mediaEnd ∧ j'.cut = .uncut ∧
          j'.flags.uncut = true ∧ j'.rollRes = 0 ∧ (∀ c, j'.ink.get c = 0) ∧ j'.cost ≠ none) ∧
      (absent = false → (∃ x, t.roll? r.id = some x ∧ x.reserved ≤ x.length - x.fed) ∨
        ∀ j ∈ t.jobs, j.state = .admitted → j.spec.roll = r.id → j.rollRes = 0) ∧
      (absent = true → (∀ j ∈ t.jobs, j.state = .admitted → j.spec.roll = r.id → j.rollRes = 0) ∧
        ∀ j ∈ s.jobs, j.state = .admitted → j.spec.roll = r.id → j.rollRes ≠ 0 →
          (∀ e ∈ s.media.queue, e.owner ≠ some j.tag) → t.job? j.tag = some
            { j with state := .deferred, ink := Vec12.all 0, rollRes := 0, seqNo := none }) ∧
      (∀ j ∈ s.jobs, j.state ≠ .admitted → j.state ≠ .printing → (∀ e ∈ s.media.queue, e.owner ≠ some j.tag) →
        t.job? j.tag = some j) ∧
      (∃ before m, s.noticed t (before ++ [(m, .num r.id, .rollEnd r.fed s.media.queue.length absent)])) ∧
      s.commits t (.roll r.id) ∧ (∀ c, t.chan c = { s.chan c with reserved := (t.chan c).reserved }) ∧
      t = { s with rolls := t.rolls, jobs := t.jobs, channels := t.channels, media := t.media, check := t.check
                   editions := t.editions, overhead := t.overhead, merged := t.merged, notices := t.notices
                   store := t.store, out := t.out }
    (∃ t : State, exec (.rollEnd slot) s = .next t.thenFlush ∧ ended t false) ∧
    (∃ t : State, exec (.rollPresent slot 0) s = .next t.thenFlush ∧ ended t true)

/-! ### Colour checks (spec/07_colour_checks.md) -/

/-- R109: READ MEDIA returns the media state as it stands and changes no state of the part. The elapsed time of a cut in
flight is a free value, at most the timeout (log 5); reading it uses one free value up. R132, R152, R134: FORCE CHECK
sets the forced-check flag and returns it with the counter and the effective interval; READ CHECK STATE returns the
Check Unit's state and changes nothing; the effective interval is the interval over 1, 2 or 4, rounded up. -/
def Obligations.MediaAndCheckReadings : Prop :=
  (∀ (s : State) (seq : Nat), s.ready → s.sound →
    let view (e : Option Nat) : MediaView :=
      { active := s.activeRoll.map Roll.id, feed := (s.activeRoll.map Roll.fed).getD 0, cutter := s.media.cutter
        elapsed := e, feedHold := s.media.cutter != .idle || s.activeRoll.isNone, upper := s.media.upper
        lower := s.media.lower, queue := s.media.queue, geometry := s.media.geometry
        runOut := s.media.geometry.cutterOffset + s.media.geometry.leadTrim }
    (s.media.timer = none → exec (.readMedia seq) s = .next (s.answerOnly 0x35 seq .ok (.media (view none)))) ∧
    ∀ n, s.media.timer = some n → ∃ e, e ≤ n ∧
      exec (.readMedia seq) s =
        .next { s.answerOnly 0x35 seq .ok (.media (view (some e))) with fresh := s.fresh + 1 }) ∧
  (∀ (s : State) (seq : Nat), s.ready → s.sound →
    let p := s.check.plan
    let step : Nat := match p.cadence with | .normal => 1 | .double => 2 | .quad => 4
    ∃ n, p.interval ≤ n * step ∧ n * step < p.interval + step ∧
      exec (.forceCheck seq) s =
        .next { s.answerOnly 0x41 seq .ok (.forced true s.check.counter n) with check := { s.check with forced := true } } ∧
      exec (.readCheckState seq) s =
        .next (s.answerOnly 0x42 seq .ok (.checkState p n s.check.forced s.check.counter s.check.armSeq s.check.arm)))

/-- R142, R143: the worst patch is the first with the largest squared difference, the reported difference is its integer
square root, and the verdict is taken on the square against the tolerance squared and the doubled tolerance squared. That
patches are numbered from 1 is the model's reading (log 30). -/
def Obligations.VerdictIsDecidedByTheWorstPatch : Prop :=
  ∀ (m r : List Lab) (tolerance : Nat), m ≠ [] → m.length = r.length →
    let squares := labDiffs m r
    let worst := worstOf squares
    squares.length = m.length ∧ (∀ x ∈ squares, x ≤ worst) ∧
    squares[worstPatch squares - 1]? = some worst ∧ (∀ i, i < worstPatch squares - 1 → squares[i]? ≠ some worst) ∧
    (∀ (i : Nat) (a b : Lab), m[i]? = some a → r[i]? = some b →
      squares[i]?.map Int.ofNat = some ((a.L - b.L) ^ 2 + (a.a - b.a) ^ 2 + (a.b - b.b) ^ 2)) ∧
    (verdictOf worst tolerance = .pass ↔ worst ≤ tolerance ^ 2) ∧
    (verdictOf worst tolerance = .fail ↔ (2 * tolerance) ^ 2 < worst) ∧
    Nat.sqrt worst ^ 2 ≤ worst ∧ worst < (Nat.sqrt worst + 1) ^ 2

/-- R139, R140, R141, R202: a READING that does not match the arm record, or whose status is neither OK nor FAULT, is
discarded; a matched one with FAULT, or with a wrong Lab patch count, empties the arm record and resolves the check as
missed, which changes no gain, counter, flag or result: CHECK_RESULT is raised with the reason, FAULT or COUNT, and
behind it, past the commits, JOB_STATE where the job then settles (R21, R23). R200: in RESTORE it is discarded. R194:
one that has to wait for its link's commit groups is held (log 18). -/
def Obligations.UnmatchedAndFaultyReadings : Prop :=
  (∀ (s : State) (m : ReadingMsg), s.sensorWaits → exec (.reading m) s = .next (s.holdsReading m)) ∧
  (∀ (s : State) (m : ReadingMsg), s.discardsMessages → exec (.reading m) s = .next { s with out := [] }) ∧
  ∀ (s : State) (m : ReadingMsg), s.sensorFree → s.sound →
    (1 < m.status ∨ (∀ a, s.check.arm = some a → a.seq ≠ m.seq) →
      exec (.reading m) s = .next (State.thenFlush { s with out := [] })) ∧
    ∀ a j, s.check.arm = some a → a.seq = m.seq → s.job? a.tag = some j →
      m.status = 1 ∨ (m.status = 0 ∧ m.labs.length ≠ (s.standard j).labs.length) →
      ∃ (t : State) (j' : Job), exec (.reading m) s = .next t.thenFlush ∧ t.job? a.tag = some j' ∧ j'.strip = .resolved ∧
        j'.flags.unchecked = true ∧ j'.check = j.check ∧ j'.spec = j.spec ∧ j'.cut = j.cut ∧
        t.check = { s.check with arm := none, waiting := t.check.waiting } ∧ t.channels = s.channels ∧
        (let missed : Nat × Subject × Detail :=
           (0, .num a.tag, .checkMissed (if m.status = 1 then .fault else .count))
         (¬ (j.state = .finishing ∧ (j.cut = .done ∨ j.cut = .uncut)) → s.noticed t [missed] ∧ j'.state = j.state ∧
            t.editions = s.editions ∧ t.overhead = s.overhead ∧ t.merged = s.merged ∧ s.store.hands t.store 1) ∧
         (j.state = .finishing → j.cut = .done ∨ j.cut = .uncut →
            (j'.state = .settled ∨ j'.state = .voided) ∧ s.store.hands t.store 2 ∧
            s.noticed t [missed, (2, .num a.tag, .jobState j'.state j'.cause j'.flags)])) ∧
        s.commits t (.job a.tag) ∧ (∀ n, n ≠ a.tag → t.job? n = s.job? n) ∧
        t = { s with jobs := t.jobs, check := t.check, editions := t.editions, overhead := t.overhead
                     merged := t.merged, notices := t.notices, store := t.store, out := [] }

/-- R147, R144, R145, R146, R148, R149, R165, R202: a matched READING with status OK and the right patch count writes the
check result, resolves the strip, gives each channel outside the deadband the snapshot gain times target over measured
density, rounded half up and clamped to the step limit, to 768..1280 and to the edition's band, clears the counter and
sets the forced-check flag by the verdict; a FAIL on an EDITION job of a referenced edition dooms the job and locks the
edition, and a PASS or DRIFT on a CHECK job unlocks it at the captured generation. CHECK_RESULT is raised with the
verdict, the reported difference, the worst patch, the number of gains changed and the unlock, behind EDITION_LOCKED or
EDITION_UNLOCKED and before the JOB_STATE of a job that then settles. The edition clauses are stated for a job whose cut
is pending, which does not settle in the same handling. That patches are numbered from 1 is the model's reading (log
30). -/
def Obligations.ReadingGivesTheVerdict : Prop :=
  ∀ (s : State) (m : ReadingMsg) (a : Arm) (j : Job) (g : Vec12), s.sensorFree → s.sound → s.check.arm = some a →
    a.seq = m.seq → s.job? a.tag = some j → m.status = 0 → m.labs.length = (s.standard j).labs.length →
    j.gains = some g →
    let near : Int → Int → Int → Int := fun lo hi n => max lo (min hi n)
    let std := s.standard j
    let dens : Vec12 := Vector.ofFn fun c => min 4000 (m.densities.get c)
    let labs := m.labs.map fun x => (⟨near 0 10000 x.L, near (-12800) 12799 x.a, near (-12800) 12799 x.b⟩ : Lab)
    let worst := worstOf (labDiffs labs std.labs)
    let v := verdictOf worst std.tolerance
    let held : Chan → Prop := fun c => dens.get c = 0 ∨
      (dens.get c ≤ std.densities.get c + 5 ∧ std.densities.get c ≤ dens.get c + 5)
    let limit : Nat → Nat → Nat → Nat := fun lo hi n => max lo (min hi n)
    let gain : Chan → Nat := fun c =>
      let raw := (2 * g.get c * std.densities.get c + dens.get c) / (2 * dens.get c)
      let near := limit 768 1280 (limit (g.get c - 32) (g.get c + 32) raw)
      if held c then (s.chan c).cfg.gain
      else
        match std.band with
        | some p => limit 768 1280 (limit (p.1.get c - p.2) (p.1.get c + p.2) near)
        | none => near
    let dooms : Prop := v = .fail ∧ j.spec.kind = .edition ∧ std.band ≠ none
    let opens : Prop := v ≠ .fail ∧ j.spec.kind = .check ∧ std.band ≠ none ∧
      ∃ id e, j.spec.edition = some id ∧ s.edition? id = some e ∧ e.state = .locked ∧ e.generation = j.generation.getD 0
    let changed := (Chan.list.filter fun c => gain c != (s.chan c).cfg.gain).length
    ∃ (t : State) (j' : Job), exec (.reading m) s = .next t.thenFlush ∧ t.job? a.tag = some j' ∧
      j'.check = some ⟨v, Nat.sqrt worst, dens⟩ ∧ j'.strip = .resolved ∧ j'.cut = j.cut ∧ j'.spec = j.spec ∧
      (dooms → j'.flags.voidOnSettle = true ∧ j'.cause = some (j.cause.getD .fail)) ∧
      (¬ dooms → j'.flags.voidOnSettle = j.flags.voidOnSettle ∧ j'.cause = j.cause) ∧
      t.check = { s.check with arm := none, counter := 0, forced := decide (v ≠ .pass), waiting := t.check.waiting } ∧
      (∀ c, t.chan c = { s.chan c with cfg := { (s.chan c).cfg with gain := gain c } }) ∧
      (j.cut = .pending → ∀ id e, j.spec.edition = some id → s.edition? id = some e → std.band ≠ none →
        (dooms → t.edition? id = some
          { e with state := .locked, causes := { e.causes with fail := true }
                   generation := (e.generation + 1) % 65536 }) ∧
        (j.spec.kind = .check → v ≠ .fail → e.state = .locked → j.generation.getD 0 = e.generation →
          t.edition? id = some { e with state := .opened, causes := {} }) ∧
        (j.spec.kind = .check → v = .fail ∨ e.state ≠ .locked ∨ j.generation.getD 0 ≠ e.generation →
          t.edition? id = some e)) ∧
      (∀ n, j.spec.edition ≠ some n → t.edition? n = s.edition? n) ∧
      (j.cut = .pending → ∀ id e, j.spec.edition = some id → s.edition? id = some e →
        (std.band ≠ none → j.spec.kind ≠ .check → ¬ dooms → t.edition? id = some e) ∧
        (std.band = none → e.state ≠ .proving → t.edition? id = some e)) ∧
      (∀ id, j.spec.edition = some id → dooms ∨ opens → s.commits t (.edition id)) ∧
      (∃ (u : Option Bool) (first : List (Nat × Subject × Detail)),
        (j.spec.kind ≠ .check → u = none) ∧ (opens → u = some true) ∧ (j.spec.kind = .check → ¬ opens → u = some false) ∧
        (∀ id e, dooms → j.spec.edition = some id → s.edition? id = some e → first = [(0, .num id,
          .editionLocked .fail none { e.causes with fail := true } ((e.generation + 1) % 65536))]) ∧
        (∀ id, opens → j.spec.edition = some id →
          first = [(0, .num id, .editionUnlocked (j.generation.getD 0) a.tag)]) ∧
        (¬ dooms → ¬ opens → first = []) ∧
        let result := first ++ [(0, .num a.tag,
          .checkVerdict v (Nat.sqrt worst) (worstPatch (labDiffs labs std.labs)) changed u)]
        (¬ (j.state = .finishing ∧ (j.cut = .done ∨ j.cut = .uncut)) → s.noticed t result) ∧
        (j.state = .finishing → j.cut = .done ∨ j.cut = .uncut →
          s.noticed t (result ++ [(2, .num a.tag, .jobState j'.state j'.cause j'.flags)]))) ∧
      (∀ n, n ≠ a.tag → t.job? n = s.job? n) ∧ s.commits t (.job a.tag) ∧
      (∀ c, gain c ≠ (s.chan c).cfg.gain → s.commits t (.channel c)) ∧ (j.cut = .pending → s.store.hands t.store 1) ∧
      t = { s with jobs := t.jobs, check := t.check, channels := t.channels, editions := t.editions
                   overhead := t.overhead, merged := t.merged, notices := t.notices, store := t.store, out := [] }

/-- R159, R160, R202: a matched READING on an EDITION or CHECK job of a PROVING edition is judged by the house set, voids no
job and locks no edition, and its readings are kept as the provisional reference, with the job as its source, exactly
when the proving stale mark is clear and no density is 0; otherwise the edition is unchanged. Stated for a job whose cut
is pending, which does not settle in the same handling. Lot changes and substitutions that set the mark are in
`Obligations.ExhaustingFrameMovesToTheStandbyLot`, `Obligations.InstallLotRefusesOrPlacesTheLot` and
`Obligations.RowMasksAndSubstitution`, the settlement that clears it in `Obligations.SettlementCostsAndNumbersTheJob`.
-/
def Obligations.ProvingReadingsFormTheProvisionalReference : Prop :=
  ∀ (s : State) (m : ReadingMsg) (a : Arm) (j : Job) (g : Vec12) (id : Nat) (e : Edition), s.sensorFree → s.sound →
    s.check.arm = some a → a.seq = m.seq → s.job? a.tag = some j → m.status = 0 →
    m.labs.length = s.check.plan.labs.length → j.gains = some g → j.spec.kind ≠ .proof → j.spec.edition = some id →
    s.edition? id = some e → e.state = .proving → j.cut = .pending →
    let near : Int → Int → Int → Int := fun lo hi n => max lo (min hi n)
    let dens : Vec12 := Vector.ofFn fun c => min 4000 (m.densities.get c)
    let labs := m.labs.map fun x => (⟨near 0 10000 x.L, near (-12800) 12799 x.a, near (-12800) 12799 x.b⟩ : Lab)
    let worst := worstOf (labDiffs labs s.check.plan.labs)
    let kept : Prop := e.stale = false ∧ ∀ c, dens.get c ≠ 0
    ∃ t : State, exec (.reading m) s = .next t.thenFlush ∧
      t.edition? id = some
        (if kept then { e with provisional := some { reference := ⟨g, dens, labs⟩, source := a.tag } } else e) ∧
      (∀ n, n ≠ id → t.edition? n = s.edition? n) ∧ s.commits t (.edition id) ∧
      t.job? a.tag = some
        { j with check := some ⟨verdictOf worst s.check.plan.tolerance, Nat.sqrt worst, dens⟩, strip := .resolved } ∧
      (∀ n, n ≠ a.tag → t.job? n = s.job? n) ∧ s.commits t (.job a.tag) ∧ s.store.hands t.store 1

/-- R137, R138: a strip arrival is declined, and changes nothing, unless the strip is PRINTED; then the arm sequence
counter is incremented, wrapping from 255 to 0, ARM is sent with it and the patch count of the job's set, and the arm
record takes both. An arm still outstanding is first superseded: its job's check is resolved as missed and noticed, its
record is committed, and it settles in the same handling where its conditions hold. A settlement that closes the edition
of both jobs leaves the house set to the new strip (R131, R166). When a commit point hands its group is the model's
reading (log 39). -/
def Obligations.StripArrivalArmsTheSensor : Prop :=
  ∀ (s : State) (tag : Nat) (j : Job), s.sound → s.job? tag = some j →
    let n := (s.check.armSeq + 1) % 256
    let armed (u : State) (m : Nat) : State :=
      { u with check := { u.check with armSeq := n, arm := some ⟨n, tag⟩ }, out := u.out ++ [.arm n m] }
    (j.strip ≠ .printed → s.arrive tag = s) ∧
    (j.strip = .printed → s.check.arm = none → s.arrive tag = armed s (s.standard j).labs.length) ∧
    ∀ a k, j.strip = .printed → s.check.arm = some a → a.tag ≠ tag → s.job? a.tag = some k →
      s.handling.gathered = none →
      let k' : Job := { k with strip := .resolved, flags := { k.flags with unchecked := true } }
      let missed : Nat × Subject × Detail := (s.store.called, .num a.tag, .checkMissed .superseded)
      (¬ (k.state = .finishing ∧ (k.cut = .done ∨ k.cut = .uncut)) →
        ∃ u : State, s.arrive tag = armed u (s.standard j).labs.length ∧ u.job? a.tag = some k' ∧
          (∀ i, i ≠ a.tag → u.job? i = s.job? i) ∧ s.notices.takes u.awaited [missed] u.notices ∧
          s.store.hands u.store 1 ∧ s.commits u (.job a.tag) ∧
          u = { s with jobs := u.jobs, notices := u.notices, store := u.store, check := { s.check with arm := none } }) ∧
      (k.state = .finishing → k.cut = .done ∨ k.cut = .uncut →
        ∃ (u : State) (k'' : Job), s.arrive tag = armed u (u.standard j).labs.length ∧ u.job? a.tag = some k'' ∧
          ((∀ id e, j.spec.edition = some id → k.spec.edition = some id → s.edition? id = some e →
              e.issued + 1 ≠ e.limit) → (u.standard j).labs.length = (s.standard j).labs.length) ∧
          s.store.hands u.store 2 ∧ s.commits u (.job a.tag) ∧
          u = { s with jobs := u.jobs, editions := u.editions, overhead := u.overhead, merged := u.merged
                       notices := u.notices, store := u.store, check := { s.check with arm := none } } ∧
          (k''.state = .settled ∨ k''.state = .voided) ∧ k''.strip = .resolved ∧ k''.flags.unchecked = true ∧
          (∃ x, k''.cost = some x ∧ s.figuresOf k x) ∧ (∀ i, i ≠ a.tag → u.job? i = s.job? i) ∧
          (∀ n, k.spec.edition ≠ some n → u.edition? n = s.edition? n) ∧
          s.notices.takes u.awaited
            [missed, (s.store.called + 2, .num a.tag, .jobState k''.state k''.cause k''.flags)] u.notices)

/-! ### Editions and settlement (spec/08_editions.md, spec/09_costing_and_prices.md) -/

/-- R157: the refusals of CREATE EDITION in table order, and the record it creates: PROVING without a reference, OPEN
with one, every configuration value brought to the nearest limit. -/
def Obligations.CreateEditionWritesTheRecord : Prop :=
  ∀ (s : State) (seq : Nat) (r : EditionReq), s.ready → s.sound →
    let limit : Nat → Nat → Nat → Nat := fun lo hi n => max lo (min hi n)
    let near : Int → Int → Int → Int := fun lo hi n => max lo (min hi n)
    let table : List (Prop × Status) :=
      [ (r.id = 0, .badKey),
        (r.limit < 1 ∨ 999 < r.limit ∨ r.mask = 0 ∨ 4096 ≤ r.mask ∨
          (∃ x, r.reference = some x ∧ (x.labs.length < 1 ∨ 8 < x.labs.length ∨ ∃ c, x.densities.get c = 0)), .badParam),
        (s.edition? r.id ≠ none, .editionExists),
        ((∃ j ∈ s.jobs, j.spec.edition = some r.id), .editionReferenced), (64 ≤ s.editions.length, .tableFull) ]
    (∀ st, firstOf table st → exec (.createEdition seq r) s = .next (s.answerOnly 0x50 seq st .empty)) ∧
    (noneOf table →
      let tolerance := if r.tolerance = 65535 then 150 else limit 10 1000 r.tolerance
      let band := if r.band = 65535 then 48 else limit 0 128 r.band
      let ref : Option Reference := r.reference.map fun x =>
        { gains := Vector.ofFn fun c => limit 768 1280 (x.gains.get c)
          densities := Vector.ofFn fun c => limit 1 4000 (x.densities.get c)
          labs := x.labs.map fun y => ⟨near 0 10000 y.L, near (-12800) 12799 y.a, near (-12800) 12799 y.b⟩ }
      let e : Edition :=
        { id := r.id, limit := r.limit, issued := 0, voided := 0
          state := if r.reference = none then .proving else .opened, mask := BitVec.ofNat 12 r.mask
          tolerance := tolerance, band := band, reference := ref, provisional := none, stale := false, causes := {}
          generation := 0, printTotal := 0, wasteTotal := 0 }
      let clamped : Prop :=
        (r.tolerance ≠ 65535 ∧ tolerance ≠ r.tolerance) ∨ (r.band ≠ 65535 ∧ band ≠ r.band) ∨ ref ≠ r.reference
      ∃ t : State, exec (.createEdition seq r) s = .next t ∧ t.edition? r.id = some e ∧
        (∀ n, n ≠ r.id → t.edition? n = s.edition? n) ∧ s.commits t (.edition r.id) ∧ s.store.hands t.store 1 ∧
        s.answered t 0x50 seq (if clamped then .okClamped else .ok) (.edition e) ∧
        t = { s with editions := t.editions, store := t.store, port := t.port, out := [] })

/-- R161, R162: ADOPT REFERENCE makes the provisional reference of a PROVING edition its reference and opens it; REJECT
REFERENCE discards it; each is refused by its own conditions, in order. -/
def Obligations.AdoptOrRejectTheProvisionalReference : Prop :=
  ∀ (s : State) (seq id : Nat), s.ready → s.sound →
    let known (p : Edition → Prop) : Prop := ∃ e, s.edition? id = some e ∧ p e
    let busy : Prop := ∃ j ∈ s.jobs, j.live = true ∧ j.spec.edition = some id
    let head : List (Prop × Status) :=
      [ (id = 0, .badKey), (s.edition? id = none, .unknownEdition), ((known fun e => e.state ≠ .proving), .wrongState) ]
    let tail : List (Prop × Status) := [((known fun e => e.provisional = none), .noReference)]
    (∀ st, firstOf (head ++ [(busy, Status.busy)] ++ tail) st →
      exec (.adoptReference seq id) s = .next (s.answerOnly 0x51 seq st .empty)) ∧
    (∀ st, firstOf (head ++ tail) st →
      exec (.rejectReference seq id) s = .next (s.answerOnly 0x52 seq st .empty)) ∧
    ∀ e p, id ≠ 0 → s.edition? id = some e → e.state = .proving → e.provisional = some p →
      (¬ busy → ∃ t : State, exec (.adoptReference seq id) s = .next t ∧
        t.edition? id = some { e with reference := some p.reference, provisional := none, state := .opened } ∧
        (∀ n, n ≠ id → t.edition? n = s.edition? n) ∧ s.commits t (.edition id) ∧ s.store.hands t.store 1 ∧
        s.answered t 0x51 seq .ok (.reference p.reference) ∧
        t = { s with editions := t.editions, store := t.store, port := t.port, out := [] }) ∧
      ∃ t : State, exec (.rejectReference seq id) s = .next t ∧ t.edition? id = some { e with provisional := none } ∧
        (∀ n, n ≠ id → t.edition? n = s.edition? n) ∧ s.commits t (.edition id) ∧ s.store.hands t.store 1 ∧
        s.answered t 0x52 seq .ok .empty ∧ t = { s with editions := t.editions, store := t.store, port := t.port, out := [] }

/-- R168, R169: CLOSE EDITION closes an edition that no live job names; RETIRE EDITION removes a CLOSED one that no job
record names; each is refused by its own conditions, in order. -/
def Obligations.CloseAndRetireEdition : Prop :=
  ∀ (s : State) (seq id : Nat), s.ready → s.sound →
    let known (p : Edition → Prop) : Prop := ∃ e, s.edition? id = some e ∧ p e
    let close : List (Prop × Status) :=
      [ (id = 0, .badKey), (s.edition? id = none, .unknownEdition), ((known fun e => e.state = .closed), .wrongState),
        ((∃ j ∈ s.jobs, j.live = true ∧ j.spec.edition = some id), .busy) ]
    let retire : List (Prop × Status) :=
      [ (id = 0, .badKey), (s.edition? id = none, .unknownEdition), ((known fun e => e.state ≠ .closed), .wrongState),
        ((∃ j ∈ s.jobs, j.spec.edition = some id), .editionReferenced) ]
    (∀ st, firstOf close st → exec (.closeEdition seq id) s = .next (s.answerOnly 0x53 seq st .empty)) ∧
    (∀ e, noneOf close → s.edition? id = some e → ∃ t : State, exec (.closeEdition seq id) s = .next t ∧
      t.edition? id = some { e with state := .closed } ∧ (∀ n, n ≠ id → t.edition? n = s.edition? n) ∧
      s.commits t (.edition id) ∧ s.store.hands t.store 1 ∧ s.answered t 0x53 seq .ok (.edition { e with state := .closed }) ∧
      t = { s with editions := t.editions, store := t.store, port := t.port, out := [] }) ∧
    (∀ st, firstOf retire st → exec (.retireEdition seq id) s = .next (s.answerOnly 0x54 seq st .empty)) ∧
    (noneOf retire → ∃ t : State, exec (.retireEdition seq id) s = .next t ∧ t.edition? id = none ∧
      (∀ n, n ≠ id → t.edition? n = s.edition? n) ∧ s.commits t (.edition id) ∧ s.store.hands t.store 1 ∧
      s.answered t 0x54 seq .ok .empty ∧ t = { s with editions := t.editions, store := t.store, port := t.port, out := [] })

/-- R21, R22, R23, R58, R160, R166, R167, R183 to R186: a FINISHING job whose conditions hold is costed, voided or
settled, numbered where its edition numbers it, and its total is carried to one account; it is UNCERTAIN and UNPRICED
by the lots of its list and its roll; its edition's stale mark is cleared; it is committed with every lot that it drew
from, those merged into another lot's entry among them, its roll and its edition; and JOB_STATE is raised behind that
commit. -/
def Obligations.SettlementCostsAndNumbersTheJob : Prop :=
  ∀ (s : State) (tag : Nat) (j : Job), s.sound → s.job? tag = some j → j.state = .finishing →
    j.cut = .done ∨ j.cut = .uncut → j.strip = .resolved ∨ j.strip = .none →
    let t := (s.beginHandling.settleTest tag).endHandling s.handling
    let price : Nat → Nat := fun code => ((s.lot? code).map Lot.price).getD 0
    let rate := ((s.roll? j.spec.roll).map fun r => r.width * r.price).getD 0
    let aside : Prop := s.stripMode = .overhead ∧ j.spec.kind ≠ .check
    let inkSum := (j.draws.map fun d => (d.image + if aside then 0 else d.strip) * price d.lot).sum
    let length := j.printPiece + if aside then 0 else j.stripPiece
    let ink := min 4294967295 ((inkSum + 500000) / 1000000)
    let media := min 4294967295 ((length * rate + 50000000) / 100000000)
    let total := min 4294967295 (ink + media + j.handling.getD 0)
    let voids : Prop := j.flags.voidOnSettle = true ∨ j.flags.abortPending = true ∨ j.cause = some .mediaEnd
    let strips :=
      if aside then (j.draws.map fun d => d.strip * price d.lot).sum * 100 + j.stripPiece * rate else 0
    ∃ j', t.job? tag = some j' ∧ j'.state = (if voids then .voided else .settled) ∧
      j'.cost = some ⟨ink, media, j.handling.getD 0, total⟩ ∧ j'.cause = j.cause ∧ j'.draws = j.draws ∧
      j' = { j with state := j'.state, cost := j'.cost, number := j'.number
                    flags := { j.flags with uncertain := j'.flags.uncertain, unpriced := j'.flags.unpriced } } ∧
      (j'.flags.uncertain = true ↔ j.flags.uncertain = true ∨
        (∃ d ∈ j.draws, ∃ l, s.lot? d.lot = some l ∧ l.uncertain = true) ∨
        ∃ r, s.roll? j.spec.roll = some r ∧ r.uncertain = true) ∧
      (j'.flags.unpriced = true ↔ j.flags.unpriced = true ∨
        (∃ d ∈ j.draws, ∀ l, s.lot? d.lot = some l → l.unpriced = true) ∨
        ∀ r, s.roll? j.spec.roll = some r → r.unpriced = true) ∧
      s.noticed t [(1, .num tag, .jobState j'.state j.cause j'.flags)] ∧
      (∀ n, n ≠ tag → t.job? n = s.job? n) ∧ s.commits t (.job tag) ∧ t.lots = s.lots ∧ t.rolls = s.rolls ∧
      (∀ d ∈ j.draws, s.commits t (.lot d.lot) ∧ s.commits t (.slots d.channel)) ∧
      (∀ code, (tag, code) ∈ s.merged → s.commits t (.lot code)) ∧ s.commits t (.roll j.spec.roll) ∧
      (∀ id, j.spec.edition = some id → s.commits t (.edition id)) ∧
      (t.overhead ≠ s.overhead → s.commits t .counters) ∧ s.store.hands t.store 1 ∧
      t.merged = s.merged.filter (fun x => x.1 != tag) ∧
      t.overhead.strips = min 18446744073709551615 (s.overhead.strips + strips) ∧
      (∀ id e, j.spec.edition = some id → s.edition? id = some e →
        let numbers : Prop := j.spec.kind = .edition ∧ ¬ voids ∧ (e.state = .opened ∨ e.state = .locked)
        ∃ e', t.edition? id = some e' ∧ (∀ n, n ≠ id → t.edition? n = s.edition? n) ∧
          j'.number = (if numbers then some (e.issued + 1) else none) ∧
          e'.issued = (if numbers then e.issued + 1 else e.issued) ∧
          e'.state = (if numbers ∧ e.issued + 1 = e.limit then .closed else e.state) ∧
          (j.spec.kind = .check ∨ (j.spec.kind = .edition ∧ voids) →
            e'.wasteTotal = min 281474976710655 (e.wasteTotal + total) ∧ e'.printTotal = e.printTotal) ∧
          (j.spec.kind = .edition → ¬ voids → e.state ≠ .closed →
            e'.printTotal = min 281474976710655 (e.printTotal + total) ∧ e'.wasteTotal = e.wasteTotal) ∧
          e'.voided = (if j.spec.kind = .edition ∧ voids then min 65535 (e.voided + 1) else e.voided) ∧
          (j.spec.kind = .proof ∨ (j.spec.kind = .edition ∧ ¬ voids ∧ e.state = .closed) →
            e'.wasteTotal = e.wasteTotal ∧ e'.printTotal = e.printTotal) ∧
          e' = { e with issued := e'.issued, voided := e'.voided, state := e'.state, stale := false
                        printTotal := e'.printTotal, wasteTotal := e'.wasteTotal }) ∧
      (∀ id, j.spec.edition = some id → t.overhead.houseChecks = s.overhead.houseChecks) ∧
      (j.spec.edition = none → t.editions = s.editions ∧
        t.overhead.houseChecks =
          if j.spec.kind = .check then min 18446744073709551615 (s.overhead.houseChecks + total * 1000000)
          else s.overhead.houseChecks) ∧
      t.overhead.maintenance = s.overhead.maintenance ∧ t.overhead.trims = s.overhead.trims ∧
      t = { s with jobs := t.jobs, editions := t.editions, overhead := t.overhead, merged := t.merged
                   notices := t.notices, store := t.store }

/-! ### Prices and overhead (spec/09_costing_and_prices.md) -/

/-- R174, R177, R178: WRITE PRICE is refused by its table; taken, it creates or replaces the entry, the price at most
the maximum of its class, recomputes the checksum, clears PRICES_BAD and commits the table. R175: REMOVE PRICE is
refused in order; taken, it removes the entry, recomputes the checksum, leaves PRICES_BAD and commits the table. R176,
R180: LOCK PRICES sets PRICE_LOCK and UNLOCK PRICES clears it, each committed, and change nothing else; READ PRICES
returns the table with PRICES_BAD and changes nothing. R181: SET STRIP ACCOUNTING is refused BAD_PARAM for another value
and BUSY while a job is PRINTING or FINISHING; taken, it writes and commits the mode. R188: READ OVERHEAD returns each
accumulator exact and rounded half up and changes nothing; CLEAR OVERHEAD returns the same eight figures, sets the four
accumulators to 0 and commits them. -/
def Obligations.PricesStripModeAndOverhead : Prop :=
  (∀ (s : State) (seq : Nat) (r : PriceReq), s.ready → s.sound → s.prices.sound → r.code < 65536 →
    let present (p : PriceEntry → Prop) : Prop := ∃ e ∈ s.prices.entries, e.cls.code = r.cls ∧ e.code = r.code ∧ p e
    let table : List (Prop × Status) :=
      [ (r.cls < 1 ∨ 3 < r.cls ∨ r.code = 0 ∨ (r.cls = 3 ∧ 3 < r.code), .badParam),
        (s.prices.lock = true ∧ (present fun e => e.protect = true), .priceProtected),
        (¬ (present fun _ => True) ∧ 24 ≤ s.prices.entries.length, .tableFull) ]
    (∀ st, firstOf table st → exec (.writePrice seq r) s = .next (s.answerOnly 0x60 seq st .empty)) ∧
    ∀ c : PriceClass, noneOf table → c.code = r.cls →
      let top := match c with | .ink => 65535 | .media => 1048575 | .handling => 1000000
      let e : PriceEntry := { cls := c, code := r.code, price := min r.price top, protect := r.protect }
      ∃ t : State, exec (.writePrice seq r) s = .next t ∧ t.prices.entry? c r.code = some e ∧
        (∀ d n, ¬ (d = c ∧ n = r.code) → n < 65536 → t.prices.entry? d n = s.prices.entry? d n) ∧
        t.prices.lock = s.prices.lock ∧
        t.prices.checksum = (crc32 (t.prices.entries.flatMap PriceEntry.bytes)).toNat ∧ t.prices.sound ∧
        t.pricesBad = false ∧ s.commits t .prices ∧ s.store.hands t.store 1 ∧
        s.answered t 0x60 seq (if top < r.price then .okClamped else .ok) (.price e t.prices.checksum) ∧
        t = { s with prices := t.prices, pricesBad := t.pricesBad, store := t.store, port := t.port, out := [] }) ∧
  (∀ (s : State) (seq cls code : Nat), s.ready → s.sound → s.prices.sound →
    let present (p : PriceEntry → Prop) : Prop := ∃ e ∈ s.prices.entries, e.cls.code = cls ∧ e.code = code ∧ p e
    let table : List (Prop × Status) :=
      [ (cls < 1 ∨ 3 < cls ∨ code = 0 ∨ (cls = 3 ∧ 3 < code), .badParam), (¬ (present fun _ => True), .unknownPrice),
        (s.prices.lock = true ∧ (present fun e => e.protect = true), .priceProtected) ]
    (∀ st, firstOf table st → exec (.removePrice seq cls code) s = .next (s.answerOnly 0x61 seq st .empty)) ∧
    ∀ c : PriceClass, noneOf table → c.code = cls →
      ∃ t : State, exec (.removePrice seq cls code) s = .next t ∧ t.prices.entry? c code = none ∧
        (∀ d n, ¬ (d = c ∧ n = code) → t.prices.entry? d n = s.prices.entry? d n) ∧
        t.prices.lock = s.prices.lock ∧
        t.prices.checksum = (crc32 (t.prices.entries.flatMap PriceEntry.bytes)).toNat ∧
        t.prices.entries.length + 1 = s.prices.entries.length ∧ s.commits t .prices ∧ s.store.hands t.store 1 ∧
        s.answered t 0x61 seq .ok (.checksum t.prices.checksum) ∧
        t = { s with prices := t.prices, store := t.store, port := t.port, out := [] }) ∧
  (∀ (s : State) (seq : Nat), s.ready → s.sound →
    (∃ t : State, exec (.lockPrices seq) s = .next t ∧ t.prices = { s.prices with lock := true } ∧ s.commits t .prices ∧
      s.store.hands t.store 1 ∧ s.answered t 0x62 seq .ok (.lock true) ∧
      t = { s with prices := t.prices, store := t.store, port := t.port, out := [] }) ∧
    (∃ t : State, exec (.unlockPrices seq) s = .next t ∧ t.prices = { s.prices with lock := false } ∧ s.commits t .prices ∧
      s.store.hands t.store 1 ∧ s.answered t 0x63 seq .ok (.lock false) ∧
      t = { s with prices := t.prices, store := t.store, port := t.port, out := [] }) ∧
    exec (.readPrices seq) s =
      .next (s.answerOnly 0x64 seq .ok (.prices s.prices s.pricesBad s.prices.entries.length))) ∧
  (∀ (s : State) (seq mode : Nat), s.ready → s.sound →
    let table : List (Prop × Status) :=
      [ (1 < mode, .badParam), ((∃ j ∈ s.jobs, j.state = .printing ∨ j.state = .finishing), .busy) ]
    (∀ st, firstOf table st → exec (.setStripAccounting seq mode) s = .next (s.answerOnly 0x65 seq st .empty)) ∧
    (noneOf table →
      let m : StripMode := if mode = 0 then .job else .overhead
      ∃ t : State, exec (.setStripAccounting seq mode) s = .next t ∧ t.stripMode = m ∧ s.commits t .stripMode ∧
        s.store.hands t.store 1 ∧ s.answered t 0x65 seq .ok (.stripMode m) ∧
        t = { s with stripMode := t.stripMode, store := t.store, port := t.port, out := [] })) ∧
  (∀ (s : State) (seq : Nat), s.ready → s.sound →
    let o := s.overhead
    let rounded : Overhead :=
      { maintenance := (o.maintenance + 500000) / 1000000, trims := (o.trims + 50000000) / 100000000
        houseChecks := (o.houseChecks + 500000) / 1000000, strips := (o.strips + 50000000) / 100000000 }
    exec (.readOverhead seq) s = .next (s.answerOnly 0x66 seq .ok (.overhead o rounded)) ∧
    ∃ t : State, exec (.clearOverhead seq) s = .next t ∧
      t.overhead = { maintenance := 0, trims := 0, houseChecks := 0, strips := 0 } ∧ s.commits t .counters ∧
      s.store.hands t.store 1 ∧ s.answered t 0x67 seq .ok (.overhead o rounded) ∧
      t = { s with overhead := t.overhead, store := t.store, port := t.port, out := [] })

/-! ### Record store, power fail and start-up (spec/10_record_store_power_fail_and_start_up.md) -/

/-- R1, R28, R49, R89, R104, R129, R153, R181, R190, R200, R211, R213: what the part holds right after power-on with a
store that was never written: empty tables and queues, every fixed record at its default, and RESTORE in hand. The
never-written store and its first numbers are the model's choice (logs 2, 38). The state meets the laws that the
invariants above keep. -/
def Obligations.ResetHoldsTheStartUpValues : Prop :=
  (State.reset.sound ∧ State.reset.onePrinting ∧ State.reset.conserves ∧ State.reset.pricesSound ∧
    State.reset.notices.sound ∧ State.reset.atRest) ∧
  let s := State.reset
  s.phase = .restore ∧ s.jobs = [] ∧ s.lots = [] ∧ s.rolls = [] ∧ s.editions = [] ∧ s.prices.entries = [] ∧
    s.prices.lock = false ∧ s.pricesBad = false ∧ s.stripMode = .job ∧ s.seqCounter = 0 ∧ s.day = 0 ∧
    s.overhead = ⟨0, 0, 0, 0⟩ ∧
    (∀ c, s.chan c =
      { cfg := { product := 0, vS := 20, vM := 45, vL := 80, weight := 4096, gain := 1024, margin := 110
                 allowance := 40000, reserve := 15000000 }
        slots := { slotA := none, slotB := none, active := none }, residue := 0, reserved := 0, state := .out
        expired := false
        segments := Vector.replicate 4 { fault := .ok, maskMissing := false, maskWeeping := false, spare := .unused } }) ∧
    s.media.geometry =
      { sensorOffset := 31000, cutterOffset := 48000, stripGap := 500, stripLength := 4000, leadTrim := 2000
        cutTimeout := 3000 } ∧
    s.media.queue = [] ∧ s.media.cutter = .idle ∧ s.media.upper = .unknown ∧ s.media.lower = .unknown ∧
    s.feedHold = true ∧
    s.check.plan =
      { interval := 8, cadence := .normal, stripSwaths := 2, tolerance := 150, densities := Vec12.all 1400
        labs := [⟨5000, 0, 0⟩] } ∧
    s.check.forced = true ∧ s.check.counter = 0 ∧ s.check.armSeq = 0 ∧ s.check.arm = none ∧
    s.head.purgeToggle = none ∧ s.port = { buffer := .none, dropped := 0 } ∧ s.notices.entries = [] ∧
    s.busy = false ∧ s.attn = false

/-- R201, R203, R208: PFAIL asserting in RUN starts the flush: one commit group holds every record changed since its
last commit and every unsaved one, as they stand, and with nothing changed, unsaved or open the clean marker is written
at once. PFAIL deasserting with the flush complete, or with every unsaved record left unsaved by a group that failed
again, erases the marker and enters RUN; before that the store stays in FLUSH. R201, R202, R203: after each event in
FLUSH the flush goes on (`State.advanceFlush`): with its group in hand it waits; for records changed behind the last
group, or unsaved and not left aside, it hands a further group; with nothing due and no group open it writes the marker,
and with PFAIL deasserted it enters RUN instead, without a marker. So the completion of the last flush group writes the
marker or enters RUN; a failed one is handed once more; and its second failure ends the flush without a marker. That
RUN, too, waits for a commit point that waits (log 62), that the level is recorded in every phase, without power too
(log 4), and the marker is written in the step that starts the flush (log 20), is the model's choice. -/
def Obligations.PfailStartsAndEndsTheFlush : Prop :=
  ∀ s : State, s.sound → s.atRest →
    let due : RecKey → Prop := fun k => k ∈ s.store.changed ∨ k ∈ s.store.unsaved
    (s.phase ≠ .run → exec .pfailAssert s = .next { s with pfail := true, out := [] }) ∧
    (s.phase = .run →
      ∃ t : State, exec .pfailAssert s = .next t ∧ t.phase = .flush ∧ t.pfail = true ∧
        t.store.called = s.store.called + 1 ∧ t.store.changed = [] ∧
        t.store.count + t.store.behind.length = s.store.count + s.store.behind.length + 1 ∧
        (s.store.changed = [] → s.store.unsaved = [] → s.store.groups = [] → s.store.behind = [] →
          t.store.marker = true) ∧
        ((∃ k, due k) → t.store.flush.group = some t.store.called ∧
          ∃ g ∈ t.store.groups, t.store.called ∈ g.ids ∧ t.store.count ∈ g.nums ∧
            ∀ k, due k → ∃ w ∈ g.writes, w.key = k ∧ w.image = s.image k ∧ w.group = t.store.count) ∧
        t.store = { s.store with count := t.store.count, changed := t.store.changed, groups := t.store.groups
                                 closed := t.store.closed, lastDone := t.store.lastDone, marker := t.store.marker
                                 flush := t.store.flush, called := t.store.called, behind := t.store.behind } ∧
        t = { s with phase := .flush, pfail := true, store := t.store, out := [] }) ∧
    (s.phase ≠ .flush ∨ s.store.flush.group ≠ none →
      exec .pfailDeassert s = .next { s with pfail := false, out := [] }) ∧
    (s.phase = .flush → s.store.flush.group = none → s.store.changed = [] → s.store.behind = [] →
      (s.store.unsaved = [] ∧ s.store.groups = []) ∨ (s.store.unsaved ≠ [] ∧ ∀ k ∈ s.store.unsaved, k ∈ s.store.flush.givenUp) →
      exec .pfailDeassert s =
        .next { s with phase := .run, pfail := false, store := { s.store with marker := false, flush := {} }, out := [] }) ∧
    (s.phase = .flush →
      let due : RecKey → Prop := fun k => k ∈ s.store.changed ∨ (k ∈ s.store.unsaved ∧ k ∉ s.store.flush.givenUp)
      let waits : Prop := s.store.behind ≠ [] ∨ (s.store.unsaved = [] ∧ s.store.groups ≠ [])
      (s.store.flush.group ≠ none → s.advanceFlush = s) ∧
      (s.store.flush.group = none → (∃ k, due k) → ∃ st : Store, s.advanceFlush = { s with store := st } ∧
        st.flush = { s.store.flush with group := some st.called, marked := false } ∧
        st.called = s.store.called + 1 ∧ st.changed = [] ∧ st.marker = s.store.marker ∧ st.unsaved = s.store.unsaved ∧
        ∃ g ∈ st.groups, st.called ∈ g.ids ∧ st.count ∈ g.nums ∧
          ∀ k, due k → ∃ w ∈ g.writes, w.key = k ∧ w.image = s.image k ∧ w.group = st.count) ∧
      (s.store.flush.group = none → (∀ k, ¬ due k) →
        (waits → s.advanceFlush = { s with store := { s.store with flush := { s.store.flush with marked := false } } }) ∧
        (¬ waits → s.pfail = true → s.advanceFlush =
          if s.store.unsaved = [] ∧ s.store.flush.marked = false then
            { s with store := { s.store with marker := true, flush := { s.store.flush with marked := true } } }
          else s) ∧
        (¬ waits → s.pfail = false →
          s.advanceFlush = { s with phase := .run, store := { s.store with marker := false, flush := {} } }))) ∧
    (∀ g n, s.phase = .flush → s.store.groups = [g] → n ∈ g.nums → s.store.flush.group.any (fun k => g.ids.contains k) = true →
      s.store.flush.marked = false → s.store.changed = [] → s.store.behind = [] → g.writes ≠ [] →
      s.media.held = [] → s.check.held = [] →
      (s.store.unsaved = [] → ∃ t : State, exec (.commitGroupComplete n) s = .next t ∧
        t.store.flush.group = none ∧ (s.pfail = true → t.phase = .flush ∧ t.store.marker = true) ∧
        (s.pfail = false → t.phase = .run ∧ t.store.marker = false)) ∧
      ∃ t : State, exec (.storeWriteFailure (.close n)) s = .next t ∧
        (s.store.flush.retried = false → t.phase = .flush ∧ t.store.flush.retried = true ∧
          t.store.flush.group = some t.store.called ∧ ∃ x ∈ t.store.groups, t.store.called ∈ x.ids ∧
            ∀ w ∈ g.writes, ∃ v ∈ x.writes, v.key = w.key ∧ v.image = s.image w.key) ∧
        (s.store.flush.retried = true → t.store.groups = [] ∧ t.store.flush.group = none ∧
          (∀ w ∈ g.writes, w.key ∈ t.store.unsaved) ∧
          (s.pfail = true → t.phase = .flush ∧ t.store.marker = s.store.marker) ∧
          (s.pfail = false → t.phase = .run ∧ t.store.marker = false)))

/-- R204, R192: POWER ON, RESET and a power loss discard every working record without a flush and leave in the store
what stood there: for every record the copy that stood stands, a write in flight being torn. POWER ON and RESET enter
RESTORE; RESET has no effect without power. The model's choice is that RESET does nothing without power (log 10), that
the PFAIL level outlives the supply events (log 4), that POWER ON is taken in every phase (log 37), that the torn write
falls on the copy that does not stand (log 9), and that an answer being formed on the Head Link is dropped (log 48). -/
def Obligations.SupplyEventsDiscardTheWorkingRecords : Prop :=
  ∀ s : State, ∃ records : List StoredRecord,
    let blank (p : Phase) (cause : StartCause) : State :=
      { State.reset with
        pending := s.pending, phase := p, cause := cause, pfail := s.pfail, fresh := s.fresh
        store := { State.reset.store with records := records, closed := s.store.closed, dirty := s.store.dirty
                                          marker := s.store.marker } }
    exec .powerOn s = .next (blank .restore .powerOn) ∧ exec .powerLoss s = .next (blank .off s.cause) ∧
    (s.phase ≠ .off → exec .reset s = .next (blank .restore .reset)) ∧
    (s.phase = .off → exec .reset s = .next { s with out := [] }) ∧
    (∀ k, (blank .off s.cause).store.standing k = s.store.standing k) ∧
    ((∀ g ∈ s.store.groups, ∀ w ∈ g.writes, w.stage ≠ .writing) → records = s.store.records)

/-- R204 to R208, R27, R49, R50, R100, R128, R153, R172, R178, R190: the end of a restore leaves every lot, roll and
edition record, the slot fields, the channels' fixed fields, the mask bits and HARD spares, the check plan, the
geometry, the strip mode, the prices and the counters as committed, and at their defaults where none stands; a slot that
names a lost lot is empty. It leaves no roll ACTIVE, no holdings, no residue, every segment OK and none SOFT, the
channel states of the lots restored, the lots and rolls found dirty without a clean marker UNCERTAIN, no edition stale,
and RUN entered, or FLUSH with PFAIL asserted. The totals of a job voided go to its edition or the accumulators (R167).
R27: an ADMITTED job is DEFERRED without holdings or number, a PRINTING or FINISHING one is VOIDED, INTERRUPTED unless it
has a cause, without holdings and costed, UNCERTAIN by its lots and roll, and a DEFERRED, SETTLED or VOIDED one is as
committed. One group commits what changed, numbered above every number in the store; a failed image or close entry leaves
its records unsaved and the dirty marks as they were. The notices of stage 7 are raised in order; the region and the count
of the one for a failed close entry are free values (log 7). The event's
operands are the model's (log 13), and so are that it has no effect outside RESTORE (log 19) and that the admission
sequence counter is 0 where no COUNTERS record stands (log 38). -/
def Obligations.RestoreEndRebuildsTheWorkingRecords : Prop :=
  ∀ (s : State) (failed : List RecKey) (closeFails : Bool),
    (s.phase ≠ .restore → exec (.restoreEnd ⟨failed, closeFails⟩) s = .next { s with out := [] }) ∧
    (s.phase = .restore → s.store.restored = none →
      ∃ t : State, exec (.restoreEnd ⟨failed, closeFails⟩) s = .next t ∧ t.phase = (if s.pfail then .flush else .run) ∧
        t.pfail = s.pfail ∧ t.port = s.port ∧ t.pending = s.pending ∧ t.out = [.stopAt none] ∧
        let stored : List Job := s.store.images.filterMap fun p => match p.2 with | .job j => some j | _ => none
        let broken : List Job := stored.filter fun j => j.state == .printing || j.state == .finishing
        let totalOf : Job → Nat := fun j => (((t.job? j.tag).bind Job.cost).map CostRecord.total).getD 0
        let distinct : Prop := (stored.map Job.tag).Nodup
        (∀ j ∈ t.jobs, j.state = .deferred ∨ j.state = .settled ∨ j.state = .voided) ∧
        (∀ k j, (k, Image.job j) ∈ s.store.images → (∀ k' j', (k', Image.job j') ∈ s.store.images → j'.tag = j.tag → j' = j) →
          ∃ j', t.job? j.tag = some j' ∧
            (j.state = .admitted → j' = { j with state := .deferred, ink := Vec12.all 0, rollRes := 0, seqNo := none }) ∧
            (j.state = .deferred ∨ j.state = .settled ∨ j.state = .voided → j' = j) ∧
            (j.state = .printing ∨ j.state = .finishing →
              j' = { j with state := .voided, cause := some (j.cause.getD .interrupted), ink := Vec12.all 0, rollRes := 0
                            cost := j'.cost, number := j'.number
                            flags := { j.flags with uncertain := j'.flags.uncertain, unpriced := j'.flags.unpriced } } ∧
              (j.number = none → j'.number = none) ∧ (∃ x, j'.cost = some x ∧ t.figuresOf j x) ∧
              (j'.flags.uncertain = true ↔ j.flags.uncertain = true ∨
                (∃ d ∈ j.draws, ∃ l, t.lot? d.lot = some l ∧ l.uncertain = true) ∨
                ∃ r, t.roll? j.spec.roll = some r ∧ r.uncertain = true) ∧
              (j'.flags.unpriced = true ↔ j.flags.unpriced = true ∨
                (∃ d ∈ j.draws, ∀ l, t.lot? d.lot = some l → l.unpriced = true) ∨
                ∀ r, t.roll? j.spec.roll = some r → r.unpriced = true))) ∧
        (∀ j' ∈ t.jobs, ∃ k j, (k, Image.job j) ∈ s.store.images ∧ j.tag = j'.tag) ∧ t.merged = [] ∧
        (let flagged (k : RecKey) : Bool := decide (s.store.marker = false ∧ k ∈ s.store.dirty)
         let lotBack (l : Lot) : Lot := { l with uncertain := l.uncertain || flagged (.lot l.code) }
         let rollBack (r : Roll) : Roll :=
           { r with state := if r.state = .active then .loaded else r.state, reserved := 0
                    uncertain := r.uncertain || flagged (.roll r.id) }
         let editionBack (e e' : Edition) : Prop :=
           let mine := broken.filter fun j => j.spec.edition == some e.id
           e' = { e with stale := false, wasteTotal := e'.wasteTotal, voided := e'.voided } ∧
           (mine = [] → e' = { e with stale := false }) ∧
           (distinct →
             e'.wasteTotal = addedUpTo 281474976710655 e.wasteTotal
               ((mine.filter fun j => j.spec.kind != .proof).map totalOf) ∧
             e'.voided = addedUpTo 65535 e.voided ((mine.filter fun j => j.spec.kind == .edition).map fun _ => 1))
         (∀ k l, (k, Image.lot l) ∈ s.store.images →
           (∀ k' l', (k', Image.lot l') ∈ s.store.images → l'.code = l.code → l' = l) →
           t.lot? l.code = some (lotBack l)) ∧
         (∀ k r, (k, Image.roll r) ∈ s.store.images →
           (∀ k' r', (k', Image.roll r') ∈ s.store.images → r'.id = r.id → r' = r) →
           t.roll? r.id = some (rollBack r)) ∧
         (∀ k e, (k, Image.edition e) ∈ s.store.images →
           (∀ k' e', (k', Image.edition e') ∈ s.store.images → e'.id = e.id → e' = e) →
           ∃ e', t.edition? e.id = some e' ∧ editionBack e e') ∧
         (∀ x ∈ t.lots, ∃ k l, (k, Image.lot l) ∈ s.store.images ∧ x = lotBack l) ∧
         (∀ x ∈ t.rolls, ∃ k r, (k, Image.roll r) ∈ s.store.images ∧ x = rollBack r) ∧
         (∀ x ∈ t.editions, ∃ k e, (k, Image.edition e) ∈ s.store.images ∧ editionBack e x)) ∧
        (∀ (c : Chan) (r : SlotRecord), s.store.standing (.slots c) = some (.slots r) ∨
            (s.store.standing (.slots c) = none ∧ r = { slotA := none, slotB := none, active := none }) →
          (∀ p n, (t.chan c).slots.at p = some n ↔ r.at p = some n ∧ t.lot? n ≠ none) ∧
          (r.active = none → (t.chan c).slots.active = none) ∧
          ∀ p, r.active = some p →
            ((t.chan c).slots.at p ≠ none → (t.chan c).slots.active = some p) ∧
            ((t.chan c).slots.at p = none → (t.chan c).slots.active =
              if (t.lotIn c p.other).map Lot.state = some .loaded then some p.other else none)) ∧
        (∀ c, (∀ cfg segs, s.store.standing (.channel c) = some (.channel cfg segs) → (t.chan c).cfg = cfg ∧
            ∀ i, (t.chan c).segments.get i =
              { fault := .ok, maskMissing := (segs.get i).maskMissing, maskWeeping := (segs.get i).maskWeeping
                spare := if (segs.get i).hard then .hard else .unused }) ∧
          (s.store.standing (.channel c) = none →
            (t.chan c).cfg = (State.reset.chan c).cfg ∧ (t.chan c).segments = (State.reset.chan c).segments)) ∧
        (∀ p, s.store.standing .plan = some (.plan p) → t.check.plan = p) ∧
        (s.store.standing .plan = none → t.check.plan = State.reset.check.plan) ∧
        (∀ g, s.store.standing .geometry = some (.geometry g) → t.media.geometry = g) ∧
        (s.store.standing .geometry = none → t.media.geometry = State.reset.media.geometry) ∧
        (∀ m, s.store.standing .stripMode = some (.stripMode m) → t.stripMode = m) ∧
        (s.store.standing .stripMode = none → t.stripMode = .job) ∧
        (s.store.standing .counters = none → t.seqCounter = 0 ∧ t.day = 0) ∧
        (s.store.standing .prices = none → t.prices = State.reset.prices) ∧
        (∀ n d o, s.store.standing .counters = some (.counters n d o) ∨
            (s.store.standing .counters = none ∧ o = ⟨0, 0, 0, 0⟩) →
          t.overhead.maintenance = o.maintenance ∧ t.overhead.trims = o.trims ∧ (broken = [] → t.overhead = o) ∧
          (distinct →
            t.overhead.strips = addedUpTo 18446744073709551615 o.strips (broken.map fun j =>
              if t.stripMode = .overhead ∧ j.spec.kind ≠ .check then
                (j.draws.map fun d => d.strip * t.priceOf d.lot).sum * 100 + j.stripPiece * t.rateOf j.spec.roll
              else 0) ∧
            t.overhead.houseChecks = addedUpTo 18446744073709551615 o.houseChecks
              ((broken.filter fun j => j.spec.kind == .check && j.spec.edition.isNone).map fun j =>
                totalOf j * 1000000))) ∧
        (∀ e ∈ t.editions, e.stale = false) ∧
        (∀ r ∈ t.rolls, r.state ≠ .active ∧ r.reserved = 0) ∧
        (∀ c, (t.chan c).reserved = 0 ∧ (t.chan c).residue = 0 ∧
          (t.chan c).state = channelStateOf (t.remainingTotal c) (t.chan c).cfg.reserve ∧
          (t.chan c).expired = ((t.activeLot c).map Lot.expired).getD false ∧
          ∀ i, ((t.chan c).segments.get i).fault = .ok ∧ ((t.chan c).segments.get i).spare ≠ .soft) ∧
        t.check = { State.reset.check with plan := t.check.plan } ∧
        t.media = { State.reset.media with geometry := t.media.geometry } ∧ t.head.purgeToggle = none ∧
        (∀ n d o, s.store.standing .counters = some (.counters n d o) → t.seqCounter = n ∧ t.day = d) ∧
        (∀ p, s.store.standing .prices = some (.prices p) → t.prices = p) ∧
        t.pricesBad = decide (checksumOf t.prices.entries ≠ t.prices.checksum) ∧
        (∀ l ∈ t.lots, s.store.marker = false → RecKey.lot l.code ∈ s.store.dirty → l.uncertain = true) ∧
        (∀ r ∈ t.rolls, s.store.marker = false → RecKey.roll r.id ∈ s.store.dirty → r.uncertain = true) ∧
        (∀ l ∈ t.lots, s.store.marker = true → ∃ k, (k, Image.lot l) ∈ s.store.images) ∧
        (let copies (r : StoredRecord) : List Copy := r.copyA.toList ++ r.copyB.toList
         let lost (g : Region) : Nat := (s.store.records.filter fun r => regionOf r.key == g &&
           (r.standing s.store.closed).isNone && (copies r).any fun c => s.store.closed.contains c.group).length
         let marked (k : RecKey) : Bool := !s.store.marker && s.store.dirty.contains k
         let lots := (t.lots.filter fun l => marked (.lot l.code)).length
         let rolls := (t.rolls.filter fun r => marked (.roll r.id)).length
         let highest := ((s.store.records.flatMap copies).map Copy.group ++ s.store.closed).foldl max 0
         (distinct → ∃ (bad : List RecKey) (close : Option (Subject × Nat)),
           bad.Nodup ∧ (∀ k, k ∈ bad ↔ k ∈ t.store.unsaved ∧ k ∈ failed) ∧
           (close = none ↔ bad ≠ [] ∨ t.store.unsaved = []) ∧
           let closing (u : Subject) : List (Subject × Detail) :=
             (close.filter fun x => x.1 == u).toList.map fun x => (x.1, .writeFault none x.2)
           let faults (g : Region) : List (Subject × Detail) :=
             (if lost g = 0 then [] else [(.region g, .recordsLost (lost g))]) ++
               ((bad.filter fun k => regionOf k == g).map fun k =>
                 (.region g, .writeFault (some k) (t.store.unsaved.filter fun u => regionOf u == g).length)) ++
               closing (.region g)
           let regions : List Region := [.config, .lots, .rolls, .editions, .prices, .jobs, .counters]
           let raised : List (Subject × Detail) :=
             [(.num 0, .restarted s.cause s.store.marker broken.length (regions.map lost).sum)] ++
               (if lots + rolls = 0 then [] else [(.num 0, .uncertainRecords lots rolls)]) ++
               (if t.pricesBad then [(.num 0, .pricesBad t.prices.checksum (checksumOf t.prices.entries))] else []) ++
               regions.flatMap faults ++ closing .store
           t.notices = raised.foldl (fun q n => q.given n.1 n.2) {}) ∧
         t.store.count = highest + 1 + (if s.pfail then 1 else 0) ∧
         (failed = [] → closeFails = false →
           t.store.dirty = [] ∧ t.store.unsaved = [] ∧ t.store.marker = s.pfail ∧ t.store.groups = [] ∧
           t.store.lastDone = t.store.count ∧
           (∀ j ∈ t.jobs, t.store.standing (.job j.tag) = some (.job j)) ∧
           (∀ l ∈ t.lots, t.store.standing (.lot l.code) = some (.lot l)) ∧
           (∀ r ∈ t.rolls, t.store.standing (.roll r.id) = some (.roll r)) ∧
           ∀ e ∈ t.editions, t.store.standing (.edition e.id) = some (.edition e)) ∧
         (t.store.unsaved ≠ [] → t.store.dirty = s.store.dirty ∧ t.store.marker = s.store.marker ∧
           t.store.closed = s.store.closed ∧ t.store.lastDone = s.store.closed.foldl max 0)))

/-- R193, R194, R195, R199, R211, R221: the completion of a commit group writes its close entry: its group numbers are
closed and it is the last completed group, the records that it took off the unsaved list leave it, the dirty marks of
those not changed since are erased, and the notices, the request, the Head Link answer and the links that waited go
on, and the commit points of its handlings that waited for it alone hand their groups; each of its images stands where
it is the newest of its record. The flush's own group is out of hand, and no record of the group is left aside by the
flush any more (R201). No working record changes. The model's choice is that a completion of a group that is not
open changes nothing (log 19), that the event writes the group's images not written yet (log 13), that equal images
tell a record not changed since (log 22), that of joined groups the highest number is the last completed (log 50), and
that a commit point of the same handling hands its group then (logs 39, 41). A link that waits for another group too keeps
its held messages, and one that does not takes the message it holds (log 18); in FLUSH the flush goes on behind all this
(`Obligations.PfailStartsAndEndsTheFlush`). -/
def Obligations.GroupCompletionClosesItsCopies : Prop :=
  ∀ (s : State) (n : Nat),
    (s.store.openGroup n = none → exec (.commitGroupComplete n) s = .next { s with out := [] }) ∧
    (∀ g, s.sound → s.store.openGroup n = some g → s.phase = .run → s.head.forming = none →
      (∀ m, s.media.held = [m] → s.check.held = [] → (∀ k ∈ s.media.waiting, k ∈ g.ids) →
        ∃ t : State, exec (.commitGroupComplete n) { s with media := { s.media with held := [] } } = .next t ∧
          exec (.commitGroupComplete n) s = exec m.command t) ∧
      ∀ m, s.check.held = [m] → s.media.held = [] → (∀ k ∈ s.check.waiting, k ∈ g.ids) →
        ∃ t : State, exec (.commitGroupComplete n) { s with check := { s.check with held := [] } } = .next t ∧
          exec (.commitGroupComplete n) s = exec (.reading m) t) ∧
    ∀ g, s.sound → s.store.openGroup n = some g → s.atWork → linkStays s.media.held s.media.waiting g.ids →
      linkStays s.check.held s.check.waiting g.ids →
      ∃ t : State, exec (.commitGroupComplete n) s = .next t.thenFlush ∧ t.store.closed = s.store.closed ++ g.nums ∧
        n ∈ g.nums ∧ t.store.lastDone ∈ g.nums ∧ (∀ k ∈ g.nums, k ≤ t.store.lastDone) ∧
        (∀ k, k ∈ t.store.unsaved ↔ k ∈ s.store.unsaved ∧ ∀ w ∈ g.writes, ¬ (w.key = k ∧ w.retry = true)) ∧
        (∀ k, k ∈ t.store.dirty ↔
          k ∈ s.store.dirty ∧ ¬ (∃ w ∈ g.writes, w.key = k ∧ w.image = s.image k ∧ k ∉ s.store.changed)) ∧
        (∀ w ∈ g.writes, let copy : Copy := ⟨w.group, w.image, true⟩
          (∀ v ∈ g.writes, v.key = w.key → v = w ∨ v.stage = .written) →
          (∀ r ∈ s.store.records, r.key = w.key →
            ∀ c, r.copyA = some c ∨ r.copyB = some c → c.group < w.group ∨ c = copy) →
          (w.stage = .written → ∃ r ∈ s.store.records, r.key = w.key ∧
            (∀ x ∈ s.store.records, x.key = w.key → x = r) ∧ (r.copyA = some copy ∨ r.copyB = some copy)) →
          t.store.standing w.key = some w.image) ∧
        t.store.flush =
          { s.store.flush with
            group := s.store.flush.group.filter fun k => decide (k ∉ g.ids)
            retried := s.store.flush.retried && !(s.store.flush.group.any fun k => decide (k ∈ g.ids))
            givenUp := s.store.flush.givenUp.filter fun k => decide (∀ w ∈ g.writes, w.key ≠ k) } ∧
        t.store.marker = s.store.marker ∧ t.store.called = s.store.called ∧
        (∀ k ∈ t.store.changed, k ∈ s.store.changed) ∧
        (s.store.behind = [] → t.store.changed = s.store.changed ∧ t.store.count = s.store.count) ∧
        (∀ p ∈ s.store.behind, (∀ k ∈ p.after, k ∈ g.ids) → ∃ x ∈ t.store.groups, p.id ∈ x.ids) ∧
        t.store.behind.map CommitPoint.waits =
          ((s.store.behind.filter fun p => p.after.any fun k => decide (k ∉ g.ids)).map fun p =>
            { p with after := p.after.filter fun k => decide (k ∉ g.ids) }).map CommitPoint.waits ∧
        t.store.count + t.store.behind.length = s.store.count + s.store.behind.length ∧
        s.notices.freed g.ids t.notices ∧
        (∀ code seq st b l, s.port.buffer = .pending code seq st b l →
          t.port =
            if (∀ k ∈ l, k ∈ g.ids) then s.formed t code seq st b
            else { s.port with buffer := .pending code seq st b (l.filter fun k => !g.ids.contains k) }) ∧
        (s.busy = false → t.port = s.port) ∧
        (∀ a, s.head.forming = some a → (∀ k ∈ a.groups, k ∈ g.ids) →
          t.head.forming = none ∧ t.out = [.head a.answer]) ∧
        t.media = { s.media with waiting := s.media.waiting.filter fun k => !g.ids.contains k } ∧
        t.check = { s.check with waiting := s.check.waiting.filter fun k => !g.ids.contains k } ∧
        t = { s with store := t.store, port := t.port, head := t.head, media := t.media, check := t.check
                     notices := t.notices, out := t.out }

/-- R197, R198, R195: a failed image write leaves its group without a close entry: every record of the group is unsaved,
each stands at its previous copy, STORE_FAULT is raised for the region, no working record changes, and a request that
waited is answered as it would have been. A failed close entry, dirty mark or clean marker raises STORE_FAULT too; the
unsaved count of the notice for a close entry or the marker, and the subject of the one for a close entry, are free
values (log 7). The model's choice is that the event changes nothing for a group not open, a mark or marker not written,
and in RESTORE or without power (log 19), that it names the group and its failing images (log 13), that the group ends
in the failure's own step (log 21). STORE_FAULT is raised at once, and a notice held since an earlier event takes its
place before it (R215, log 23). R201: after a failure of the flush's own group its records are handed once more; after
that group's failure too every unsaved record is left aside. In FLUSH the flush goes on behind all this
(`Obligations.PfailStartsAndEndsTheFlush`). -/
def Obligations.WriteFailureLeavesRecordsUnsaved : Prop :=
  ∀ (s : State) (n : Nat), s.sound → s.atRest →
    (∀ keys, s.store.openGroup n = none →
      exec (.storeWriteFailure (.images n keys)) s = .next { s with out := [] } ∧
      exec (.storeWriteFailure (.close n)) s = .next { s with out := [] }) ∧
    (∀ g keys, s.store.openGroup n = some g → s.atWork → linkStays s.media.held s.media.waiting g.ids →
      linkStays s.check.held s.check.waiting g.ids → (∀ w ∈ g.writes, w.group ∉ s.store.closed) →
      let bad := g.writes.filter fun w => keys.contains w.key && w.stage != .written
      let dropped (t : State) : Prop :=
        t.store.closed = s.store.closed ∧ t.store.dirty = s.store.dirty ∧ t.store.marker = s.store.marker ∧
        (∀ k, k ∈ t.store.unsaved ↔ k ∈ s.store.unsaved ∨ ∃ w ∈ g.writes, w.key = k) ∧
        (∀ k, t.store.standing k = s.store.standing k) ∧
        (let own := s.store.flush.group.any fun k => decide (k ∈ g.ids)
         t.store.flush =
          { s.store.flush with
            group := s.store.flush.group.filter fun k => decide (k ∉ g.ids)
            retried := if own then !s.store.flush.retried else s.store.flush.retried
            givenUp :=
              if own && s.store.flush.retried then t.store.unsaved
              else s.store.flush.givenUp.filter fun k => decide (∀ w ∈ g.writes, w.key ≠ k) }) ∧
        (∀ code seq st b l, s.port.buffer = .pending code seq st b l → (∀ k ∈ l, k ∈ g.ids) →
          t.port = s.formed t code seq st b) ∧
        t = { s with store := t.store, port := t.port, head := t.head, media := t.media, check := t.check
                     notices := t.notices, fresh := t.fresh, out := t.out }
      (bad = [] → exec (.storeWriteFailure (.images n keys)) s = .next { s with out := [] }) ∧
      (bad ≠ [] → ∃ t : State, exec (.storeWriteFailure (.images n keys)) s = .next t.thenFlush ∧ dropped t ∧
        t.fresh = s.fresh ∧
        (bad.foldl
          (fun q w => q.given (.region (regionOf w.key))
            (.writeFault (some w.key) (t.store.unsaved.filter fun k => regionOf k == regionOf w.key).length))
          s.notices).freed g.ids t.notices) ∧
      ∃ t : State, exec (.storeWriteFailure (.close n)) s = .next t.thenFlush ∧ dropped t ∧
        ∃ u m, (s.notices.given u (.writeFault none m)).freed g.ids t.notices) ∧
    (∀ w, s.phase = .restore ∨ s.phase = .off → exec (.storeWriteFailure w) s = .next { s with out := [] }) ∧
    (∀ k, s.phase = .run ∨ s.phase = .flush → exec (.storeWriteFailure (.mark k)) s =
      .next (if k ∈ s.store.dirty then
          { s with
            store := { s.store with dirty := s.store.dirty.erase k }, out := []
            notices := s.notices.given .store
              (.writeFault (some k) (s.store.unsaved.filter fun x => regionOf x == regionOf k).length) }
        else { s with out := [] })) ∧
    (s.phase = .run ∨ s.phase = .flush → ∃ m, exec (.storeWriteFailure .marker) s =
      .next (if s.store.marker = true then
          { s with
            store := { s.store with marker := false }, fresh := s.fresh + 1, out := []
            notices := s.notices.given .store (.writeFault none m) }
        else { s with out := [] }))
end

