-- ==== Sys2Proof/Laws/State.lean ====
section
/-!
SUPPORT. One lemma per field per update of the state: what each named update of Machine/Ops.lean and Machine/Handling.lean
writes, and that it leaves every other field as it was. Later proofs cite these (they are in the simp set) and do not unfold
the updates.
-/

namespace Sys2Proof.Machine

variable (s t : State)


/-! ### Noting a change -/

@[simp] theorem State.noting_pending (k : RecKey) : (s.noting k t).pending = t.pending := by unfold State.noting; split <;> rfl
@[simp] theorem State.noting_phase (k : RecKey) : (s.noting k t).phase = t.phase := by unfold State.noting; split <;> rfl
@[simp] theorem State.noting_cause (k : RecKey) : (s.noting k t).cause = t.cause := by unfold State.noting; split <;> rfl
@[simp] theorem State.noting_pfail (k : RecKey) : (s.noting k t).pfail = t.pfail := by unfold State.noting; split <;> rfl
@[simp] theorem State.noting_port (k : RecKey) : (s.noting k t).port = t.port := by unfold State.noting; split <;> rfl
@[simp] theorem State.noting_notices (k : RecKey) : (s.noting k t).notices = t.notices := by unfold State.noting; split <;> rfl
@[simp] theorem State.noting_head (k : RecKey) : (s.noting k t).head = t.head := by unfold State.noting; split <;> rfl
@[simp] theorem State.noting_channels (k : RecKey) : (s.noting k t).channels = t.channels := by unfold State.noting; split <;> rfl
@[simp] theorem State.noting_lots (k : RecKey) : (s.noting k t).lots = t.lots := by unfold State.noting; split <;> rfl
@[simp] theorem State.noting_jobs (k : RecKey) : (s.noting k t).jobs = t.jobs := by unfold State.noting; split <;> rfl
@[simp] theorem State.noting_seqCounter (k : RecKey) : (s.noting k t).seqCounter = t.seqCounter := by unfold State.noting; split <;> rfl
@[simp] theorem State.noting_day (k : RecKey) : (s.noting k t).day = t.day := by unfold State.noting; split <;> rfl
@[simp] theorem State.noting_rolls (k : RecKey) : (s.noting k t).rolls = t.rolls := by unfold State.noting; split <;> rfl
@[simp] theorem State.noting_media (k : RecKey) : (s.noting k t).media = t.media := by unfold State.noting; split <;> rfl
@[simp] theorem State.noting_check (k : RecKey) : (s.noting k t).check = t.check := by unfold State.noting; split <;> rfl
@[simp] theorem State.noting_editions (k : RecKey) : (s.noting k t).editions = t.editions := by unfold State.noting; split <;> rfl
@[simp] theorem State.noting_prices (k : RecKey) : (s.noting k t).prices = t.prices := by unfold State.noting; split <;> rfl
@[simp] theorem State.noting_pricesBad (k : RecKey) : (s.noting k t).pricesBad = t.pricesBad := by unfold State.noting; split <;> rfl
@[simp] theorem State.noting_stripMode (k : RecKey) : (s.noting k t).stripMode = t.stripMode := by unfold State.noting; split <;> rfl
@[simp] theorem State.noting_overhead (k : RecKey) : (s.noting k t).overhead = t.overhead := by unfold State.noting; split <;> rfl
@[simp] theorem State.noting_merged (k : RecKey) : (s.noting k t).merged = t.merged := by unfold State.noting; split <;> rfl
@[simp] theorem State.noting_handling (k : RecKey) : (s.noting k t).handling = t.handling := by unfold State.noting; split <;> rfl
@[simp] theorem State.noting_out (k : RecKey) : (s.noting k t).out = t.out := by unfold State.noting; split <;> rfl
@[simp] theorem State.noting_fresh (k : RecKey) : (s.noting k t).fresh = t.fresh := by unfold State.noting; split <;> rfl

/-- Noting a change touches the store's change list and the clean marker, or nothing (R196, R201). -/
theorem State.noting_store (k : RecKey) :
    (s.noting k t).store = if t.image k = s.image k then t.store else t.store.touch k := by
  unfold State.noting; split <;> rfl


/-! ### Touching a record -/

@[simp] theorem Store.touch_records (k : RecKey) (st : Store) : (st.touch k).records = st.records := rfl
@[simp] theorem Store.touch_closed (k : RecKey) (st : Store) : (st.touch k).closed = st.closed := rfl
@[simp] theorem Store.touch_dirty (k : RecKey) (st : Store) : (st.touch k).dirty = st.dirty := rfl
@[simp] theorem Store.touch_count (k : RecKey) (st : Store) : (st.touch k).count = st.count := rfl
@[simp] theorem Store.touch_lastDone (k : RecKey) (st : Store) : (st.touch k).lastDone = st.lastDone := rfl
@[simp] theorem Store.touch_called (k : RecKey) (st : Store) : (st.touch k).called = st.called := rfl
@[simp] theorem Store.touch_groups (k : RecKey) (st : Store) : (st.touch k).groups = st.groups := rfl
@[simp] theorem Store.touch_behind (k : RecKey) (st : Store) : (st.touch k).behind = st.behind := rfl
@[simp] theorem Store.touch_unsaved (k : RecKey) (st : Store) : (st.touch k).unsaved = st.unsaved := rfl
@[simp] theorem Store.touch_flush (k : RecKey) (st : Store) : (st.touch k).flush = st.flush := rfl
@[simp] theorem Store.touch_restored (k : RecKey) (st : Store) : (st.touch k).restored = st.restored := rfl
@[simp] theorem Store.touch_marker (k : RecKey) (st : Store) : (st.touch k).marker = false := rfl

/-! ### setJob -/

@[simp] theorem State.setJob_pending (j : Job) : (s.setJob j).pending = s.pending := State.noting_pending ..
@[simp] theorem State.setJob_phase (j : Job) : (s.setJob j).phase = s.phase := State.noting_phase ..
@[simp] theorem State.setJob_cause (j : Job) : (s.setJob j).cause = s.cause := State.noting_cause ..
@[simp] theorem State.setJob_pfail (j : Job) : (s.setJob j).pfail = s.pfail := State.noting_pfail ..
@[simp] theorem State.setJob_port (j : Job) : (s.setJob j).port = s.port := State.noting_port ..
@[simp] theorem State.setJob_notices (j : Job) : (s.setJob j).notices = s.notices := State.noting_notices ..
@[simp] theorem State.setJob_head (j : Job) : (s.setJob j).head = s.head := State.noting_head ..
@[simp] theorem State.setJob_channels (j : Job) : (s.setJob j).channels = s.channels := State.noting_channels ..
@[simp] theorem State.setJob_lots (j : Job) : (s.setJob j).lots = s.lots := State.noting_lots ..
@[simp] theorem State.setJob_jobs (j : Job) : (s.setJob j).jobs = insertBy Job.tag j s.jobs := State.noting_jobs ..
@[simp] theorem State.setJob_seqCounter (j : Job) : (s.setJob j).seqCounter = s.seqCounter := State.noting_seqCounter ..
@[simp] theorem State.setJob_day (j : Job) : (s.setJob j).day = s.day := State.noting_day ..
@[simp] theorem State.setJob_rolls (j : Job) : (s.setJob j).rolls = s.rolls := State.noting_rolls ..
@[simp] theorem State.setJob_media (j : Job) : (s.setJob j).media = s.media := State.noting_media ..
@[simp] theorem State.setJob_check (j : Job) : (s.setJob j).check = s.check := State.noting_check ..
@[simp] theorem State.setJob_editions (j : Job) : (s.setJob j).editions = s.editions := State.noting_editions ..
@[simp] theorem State.setJob_prices (j : Job) : (s.setJob j).prices = s.prices := State.noting_prices ..
@[simp] theorem State.setJob_pricesBad (j : Job) : (s.setJob j).pricesBad = s.pricesBad := State.noting_pricesBad ..
@[simp] theorem State.setJob_stripMode (j : Job) : (s.setJob j).stripMode = s.stripMode := State.noting_stripMode ..
@[simp] theorem State.setJob_overhead (j : Job) : (s.setJob j).overhead = s.overhead := State.noting_overhead ..
@[simp] theorem State.setJob_merged (j : Job) : (s.setJob j).merged = s.merged := State.noting_merged ..
@[simp] theorem State.setJob_handling (j : Job) : (s.setJob j).handling = s.handling := State.noting_handling ..
@[simp] theorem State.setJob_out (j : Job) : (s.setJob j).out = s.out := State.noting_out ..
@[simp] theorem State.setJob_fresh (j : Job) : (s.setJob j).fresh = s.fresh := State.noting_fresh ..

/-! ### removeJob -/

@[simp] theorem State.removeJob_pending (n : Nat) : (s.removeJob n).pending = s.pending := State.noting_pending ..
@[simp] theorem State.removeJob_phase (n : Nat) : (s.removeJob n).phase = s.phase := State.noting_phase ..
@[simp] theorem State.removeJob_cause (n : Nat) : (s.removeJob n).cause = s.cause := State.noting_cause ..
@[simp] theorem State.removeJob_pfail (n : Nat) : (s.removeJob n).pfail = s.pfail := State.noting_pfail ..
@[simp] theorem State.removeJob_port (n : Nat) : (s.removeJob n).port = s.port := State.noting_port ..
@[simp] theorem State.removeJob_notices (n : Nat) : (s.removeJob n).notices = s.notices := State.noting_notices ..
@[simp] theorem State.removeJob_head (n : Nat) : (s.removeJob n).head = s.head := State.noting_head ..
@[simp] theorem State.removeJob_channels (n : Nat) : (s.removeJob n).channels = s.channels := State.noting_channels ..
@[simp] theorem State.removeJob_lots (n : Nat) : (s.removeJob n).lots = s.lots := State.noting_lots ..
@[simp] theorem State.removeJob_jobs (n : Nat) : (s.removeJob n).jobs = removeBy Job.tag n s.jobs := State.noting_jobs ..
@[simp] theorem State.removeJob_seqCounter (n : Nat) : (s.removeJob n).seqCounter = s.seqCounter := State.noting_seqCounter ..
@[simp] theorem State.removeJob_day (n : Nat) : (s.removeJob n).day = s.day := State.noting_day ..
@[simp] theorem State.removeJob_rolls (n : Nat) : (s.removeJob n).rolls = s.rolls := State.noting_rolls ..
@[simp] theorem State.removeJob_media (n : Nat) : (s.removeJob n).media = s.media := State.noting_media ..
@[simp] theorem State.removeJob_check (n : Nat) : (s.removeJob n).check = s.check := State.noting_check ..
@[simp] theorem State.removeJob_editions (n : Nat) : (s.removeJob n).editions = s.editions := State.noting_editions ..
@[simp] theorem State.removeJob_prices (n : Nat) : (s.removeJob n).prices = s.prices := State.noting_prices ..
@[simp] theorem State.removeJob_pricesBad (n : Nat) : (s.removeJob n).pricesBad = s.pricesBad := State.noting_pricesBad ..
@[simp] theorem State.removeJob_stripMode (n : Nat) : (s.removeJob n).stripMode = s.stripMode := State.noting_stripMode ..
@[simp] theorem State.removeJob_overhead (n : Nat) : (s.removeJob n).overhead = s.overhead := State.noting_overhead ..
@[simp] theorem State.removeJob_merged (n : Nat) : (s.removeJob n).merged = s.merged := State.noting_merged ..
@[simp] theorem State.removeJob_handling (n : Nat) : (s.removeJob n).handling = s.handling := State.noting_handling ..
@[simp] theorem State.removeJob_out (n : Nat) : (s.removeJob n).out = s.out := State.noting_out ..
@[simp] theorem State.removeJob_fresh (n : Nat) : (s.removeJob n).fresh = s.fresh := State.noting_fresh ..

/-! ### setLot -/

@[simp] theorem State.setLot_pending (l : Lot) : (s.setLot l).pending = s.pending := State.noting_pending ..
@[simp] theorem State.setLot_phase (l : Lot) : (s.setLot l).phase = s.phase := State.noting_phase ..
@[simp] theorem State.setLot_cause (l : Lot) : (s.setLot l).cause = s.cause := State.noting_cause ..
@[simp] theorem State.setLot_pfail (l : Lot) : (s.setLot l).pfail = s.pfail := State.noting_pfail ..
@[simp] theorem State.setLot_port (l : Lot) : (s.setLot l).port = s.port := State.noting_port ..
@[simp] theorem State.setLot_notices (l : Lot) : (s.setLot l).notices = s.notices := State.noting_notices ..
@[simp] theorem State.setLot_head (l : Lot) : (s.setLot l).head = s.head := State.noting_head ..
@[simp] theorem State.setLot_channels (l : Lot) : (s.setLot l).channels = s.channels := State.noting_channels ..
@[simp] theorem State.setLot_lots (l : Lot) : (s.setLot l).lots = insertBy Lot.code l s.lots := State.noting_lots ..
@[simp] theorem State.setLot_jobs (l : Lot) : (s.setLot l).jobs = s.jobs := State.noting_jobs ..
@[simp] theorem State.setLot_seqCounter (l : Lot) : (s.setLot l).seqCounter = s.seqCounter := State.noting_seqCounter ..
@[simp] theorem State.setLot_day (l : Lot) : (s.setLot l).day = s.day := State.noting_day ..
@[simp] theorem State.setLot_rolls (l : Lot) : (s.setLot l).rolls = s.rolls := State.noting_rolls ..
@[simp] theorem State.setLot_media (l : Lot) : (s.setLot l).media = s.media := State.noting_media ..
@[simp] theorem State.setLot_check (l : Lot) : (s.setLot l).check = s.check := State.noting_check ..
@[simp] theorem State.setLot_editions (l : Lot) : (s.setLot l).editions = s.editions := State.noting_editions ..
@[simp] theorem State.setLot_prices (l : Lot) : (s.setLot l).prices = s.prices := State.noting_prices ..
@[simp] theorem State.setLot_pricesBad (l : Lot) : (s.setLot l).pricesBad = s.pricesBad := State.noting_pricesBad ..
@[simp] theorem State.setLot_stripMode (l : Lot) : (s.setLot l).stripMode = s.stripMode := State.noting_stripMode ..
@[simp] theorem State.setLot_overhead (l : Lot) : (s.setLot l).overhead = s.overhead := State.noting_overhead ..
@[simp] theorem State.setLot_merged (l : Lot) : (s.setLot l).merged = s.merged := State.noting_merged ..
@[simp] theorem State.setLot_handling (l : Lot) : (s.setLot l).handling = s.handling := State.noting_handling ..
@[simp] theorem State.setLot_out (l : Lot) : (s.setLot l).out = s.out := State.noting_out ..
@[simp] theorem State.setLot_fresh (l : Lot) : (s.setLot l).fresh = s.fresh := State.noting_fresh ..

/-! ### removeLot -/

@[simp] theorem State.removeLot_pending (n : Nat) : (s.removeLot n).pending = s.pending := State.noting_pending ..
@[simp] theorem State.removeLot_phase (n : Nat) : (s.removeLot n).phase = s.phase := State.noting_phase ..
@[simp] theorem State.removeLot_cause (n : Nat) : (s.removeLot n).cause = s.cause := State.noting_cause ..
@[simp] theorem State.removeLot_pfail (n : Nat) : (s.removeLot n).pfail = s.pfail := State.noting_pfail ..
@[simp] theorem State.removeLot_port (n : Nat) : (s.removeLot n).port = s.port := State.noting_port ..
@[simp] theorem State.removeLot_notices (n : Nat) : (s.removeLot n).notices = s.notices := State.noting_notices ..
@[simp] theorem State.removeLot_head (n : Nat) : (s.removeLot n).head = s.head := State.noting_head ..
@[simp] theorem State.removeLot_channels (n : Nat) : (s.removeLot n).channels = s.channels := State.noting_channels ..
@[simp] theorem State.removeLot_lots (n : Nat) : (s.removeLot n).lots = removeBy Lot.code n s.lots := State.noting_lots ..
@[simp] theorem State.removeLot_jobs (n : Nat) : (s.removeLot n).jobs = s.jobs := State.noting_jobs ..
@[simp] theorem State.removeLot_seqCounter (n : Nat) : (s.removeLot n).seqCounter = s.seqCounter := State.noting_seqCounter ..
@[simp] theorem State.removeLot_day (n : Nat) : (s.removeLot n).day = s.day := State.noting_day ..
@[simp] theorem State.removeLot_rolls (n : Nat) : (s.removeLot n).rolls = s.rolls := State.noting_rolls ..
@[simp] theorem State.removeLot_media (n : Nat) : (s.removeLot n).media = s.media := State.noting_media ..
@[simp] theorem State.removeLot_check (n : Nat) : (s.removeLot n).check = s.check := State.noting_check ..
@[simp] theorem State.removeLot_editions (n : Nat) : (s.removeLot n).editions = s.editions := State.noting_editions ..
@[simp] theorem State.removeLot_prices (n : Nat) : (s.removeLot n).prices = s.prices := State.noting_prices ..
@[simp] theorem State.removeLot_pricesBad (n : Nat) : (s.removeLot n).pricesBad = s.pricesBad := State.noting_pricesBad ..
@[simp] theorem State.removeLot_stripMode (n : Nat) : (s.removeLot n).stripMode = s.stripMode := State.noting_stripMode ..
@[simp] theorem State.removeLot_overhead (n : Nat) : (s.removeLot n).overhead = s.overhead := State.noting_overhead ..
@[simp] theorem State.removeLot_merged (n : Nat) : (s.removeLot n).merged = s.merged := State.noting_merged ..
@[simp] theorem State.removeLot_handling (n : Nat) : (s.removeLot n).handling = s.handling := State.noting_handling ..
@[simp] theorem State.removeLot_out (n : Nat) : (s.removeLot n).out = s.out := State.noting_out ..
@[simp] theorem State.removeLot_fresh (n : Nat) : (s.removeLot n).fresh = s.fresh := State.noting_fresh ..

/-! ### setRoll -/

@[simp] theorem State.setRoll_pending (r : Roll) : (s.setRoll r).pending = s.pending := State.noting_pending ..
@[simp] theorem State.setRoll_phase (r : Roll) : (s.setRoll r).phase = s.phase := State.noting_phase ..
@[simp] theorem State.setRoll_cause (r : Roll) : (s.setRoll r).cause = s.cause := State.noting_cause ..
@[simp] theorem State.setRoll_pfail (r : Roll) : (s.setRoll r).pfail = s.pfail := State.noting_pfail ..
@[simp] theorem State.setRoll_port (r : Roll) : (s.setRoll r).port = s.port := State.noting_port ..
@[simp] theorem State.setRoll_notices (r : Roll) : (s.setRoll r).notices = s.notices := State.noting_notices ..
@[simp] theorem State.setRoll_head (r : Roll) : (s.setRoll r).head = s.head := State.noting_head ..
@[simp] theorem State.setRoll_channels (r : Roll) : (s.setRoll r).channels = s.channels := State.noting_channels ..
@[simp] theorem State.setRoll_lots (r : Roll) : (s.setRoll r).lots = s.lots := State.noting_lots ..
@[simp] theorem State.setRoll_jobs (r : Roll) : (s.setRoll r).jobs = s.jobs := State.noting_jobs ..
@[simp] theorem State.setRoll_seqCounter (r : Roll) : (s.setRoll r).seqCounter = s.seqCounter := State.noting_seqCounter ..
@[simp] theorem State.setRoll_day (r : Roll) : (s.setRoll r).day = s.day := State.noting_day ..
@[simp] theorem State.setRoll_rolls (r : Roll) : (s.setRoll r).rolls = insertBy Roll.id r s.rolls := State.noting_rolls ..
@[simp] theorem State.setRoll_media (r : Roll) : (s.setRoll r).media = s.media := State.noting_media ..
@[simp] theorem State.setRoll_check (r : Roll) : (s.setRoll r).check = s.check := State.noting_check ..
@[simp] theorem State.setRoll_editions (r : Roll) : (s.setRoll r).editions = s.editions := State.noting_editions ..
@[simp] theorem State.setRoll_prices (r : Roll) : (s.setRoll r).prices = s.prices := State.noting_prices ..
@[simp] theorem State.setRoll_pricesBad (r : Roll) : (s.setRoll r).pricesBad = s.pricesBad := State.noting_pricesBad ..
@[simp] theorem State.setRoll_stripMode (r : Roll) : (s.setRoll r).stripMode = s.stripMode := State.noting_stripMode ..
@[simp] theorem State.setRoll_overhead (r : Roll) : (s.setRoll r).overhead = s.overhead := State.noting_overhead ..
@[simp] theorem State.setRoll_merged (r : Roll) : (s.setRoll r).merged = s.merged := State.noting_merged ..
@[simp] theorem State.setRoll_handling (r : Roll) : (s.setRoll r).handling = s.handling := State.noting_handling ..
@[simp] theorem State.setRoll_out (r : Roll) : (s.setRoll r).out = s.out := State.noting_out ..
@[simp] theorem State.setRoll_fresh (r : Roll) : (s.setRoll r).fresh = s.fresh := State.noting_fresh ..

/-! ### removeRoll -/

@[simp] theorem State.removeRoll_pending (n : Nat) : (s.removeRoll n).pending = s.pending := State.noting_pending ..
@[simp] theorem State.removeRoll_phase (n : Nat) : (s.removeRoll n).phase = s.phase := State.noting_phase ..
@[simp] theorem State.removeRoll_cause (n : Nat) : (s.removeRoll n).cause = s.cause := State.noting_cause ..
@[simp] theorem State.removeRoll_pfail (n : Nat) : (s.removeRoll n).pfail = s.pfail := State.noting_pfail ..
@[simp] theorem State.removeRoll_port (n : Nat) : (s.removeRoll n).port = s.port := State.noting_port ..
@[simp] theorem State.removeRoll_notices (n : Nat) : (s.removeRoll n).notices = s.notices := State.noting_notices ..
@[simp] theorem State.removeRoll_head (n : Nat) : (s.removeRoll n).head = s.head := State.noting_head ..
@[simp] theorem State.removeRoll_channels (n : Nat) : (s.removeRoll n).channels = s.channels := State.noting_channels ..
@[simp] theorem State.removeRoll_lots (n : Nat) : (s.removeRoll n).lots = s.lots := State.noting_lots ..
@[simp] theorem State.removeRoll_jobs (n : Nat) : (s.removeRoll n).jobs = s.jobs := State.noting_jobs ..
@[simp] theorem State.removeRoll_seqCounter (n : Nat) : (s.removeRoll n).seqCounter = s.seqCounter := State.noting_seqCounter ..
@[simp] theorem State.removeRoll_day (n : Nat) : (s.removeRoll n).day = s.day := State.noting_day ..
@[simp] theorem State.removeRoll_rolls (n : Nat) : (s.removeRoll n).rolls = removeBy Roll.id n s.rolls := State.noting_rolls ..
@[simp] theorem State.removeRoll_media (n : Nat) : (s.removeRoll n).media = s.media := State.noting_media ..
@[simp] theorem State.removeRoll_check (n : Nat) : (s.removeRoll n).check = s.check := State.noting_check ..
@[simp] theorem State.removeRoll_editions (n : Nat) : (s.removeRoll n).editions = s.editions := State.noting_editions ..
@[simp] theorem State.removeRoll_prices (n : Nat) : (s.removeRoll n).prices = s.prices := State.noting_prices ..
@[simp] theorem State.removeRoll_pricesBad (n : Nat) : (s.removeRoll n).pricesBad = s.pricesBad := State.noting_pricesBad ..
@[simp] theorem State.removeRoll_stripMode (n : Nat) : (s.removeRoll n).stripMode = s.stripMode := State.noting_stripMode ..
@[simp] theorem State.removeRoll_overhead (n : Nat) : (s.removeRoll n).overhead = s.overhead := State.noting_overhead ..
@[simp] theorem State.removeRoll_merged (n : Nat) : (s.removeRoll n).merged = s.merged := State.noting_merged ..
@[simp] theorem State.removeRoll_handling (n : Nat) : (s.removeRoll n).handling = s.handling := State.noting_handling ..
@[simp] theorem State.removeRoll_out (n : Nat) : (s.removeRoll n).out = s.out := State.noting_out ..
@[simp] theorem State.removeRoll_fresh (n : Nat) : (s.removeRoll n).fresh = s.fresh := State.noting_fresh ..

/-! ### setEdition -/

@[simp] theorem State.setEdition_pending (e : Edition) : (s.setEdition e).pending = s.pending := State.noting_pending ..
@[simp] theorem State.setEdition_phase (e : Edition) : (s.setEdition e).phase = s.phase := State.noting_phase ..
@[simp] theorem State.setEdition_cause (e : Edition) : (s.setEdition e).cause = s.cause := State.noting_cause ..
@[simp] theorem State.setEdition_pfail (e : Edition) : (s.setEdition e).pfail = s.pfail := State.noting_pfail ..
@[simp] theorem State.setEdition_port (e : Edition) : (s.setEdition e).port = s.port := State.noting_port ..
@[simp] theorem State.setEdition_notices (e : Edition) : (s.setEdition e).notices = s.notices := State.noting_notices ..
@[simp] theorem State.setEdition_head (e : Edition) : (s.setEdition e).head = s.head := State.noting_head ..
@[simp] theorem State.setEdition_channels (e : Edition) : (s.setEdition e).channels = s.channels := State.noting_channels ..
@[simp] theorem State.setEdition_lots (e : Edition) : (s.setEdition e).lots = s.lots := State.noting_lots ..
@[simp] theorem State.setEdition_jobs (e : Edition) : (s.setEdition e).jobs = s.jobs := State.noting_jobs ..
@[simp] theorem State.setEdition_seqCounter (e : Edition) : (s.setEdition e).seqCounter = s.seqCounter := State.noting_seqCounter ..
@[simp] theorem State.setEdition_day (e : Edition) : (s.setEdition e).day = s.day := State.noting_day ..
@[simp] theorem State.setEdition_rolls (e : Edition) : (s.setEdition e).rolls = s.rolls := State.noting_rolls ..
@[simp] theorem State.setEdition_media (e : Edition) : (s.setEdition e).media = s.media := State.noting_media ..
@[simp] theorem State.setEdition_check (e : Edition) : (s.setEdition e).check = s.check := State.noting_check ..
@[simp] theorem State.setEdition_editions (e : Edition) : (s.setEdition e).editions = insertBy Edition.id e s.editions := State.noting_editions ..
@[simp] theorem State.setEdition_prices (e : Edition) : (s.setEdition e).prices = s.prices := State.noting_prices ..
@[simp] theorem State.setEdition_pricesBad (e : Edition) : (s.setEdition e).pricesBad = s.pricesBad := State.noting_pricesBad ..
@[simp] theorem State.setEdition_stripMode (e : Edition) : (s.setEdition e).stripMode = s.stripMode := State.noting_stripMode ..
@[simp] theorem State.setEdition_overhead (e : Edition) : (s.setEdition e).overhead = s.overhead := State.noting_overhead ..
@[simp] theorem State.setEdition_merged (e : Edition) : (s.setEdition e).merged = s.merged := State.noting_merged ..
@[simp] theorem State.setEdition_handling (e : Edition) : (s.setEdition e).handling = s.handling := State.noting_handling ..
@[simp] theorem State.setEdition_out (e : Edition) : (s.setEdition e).out = s.out := State.noting_out ..
@[simp] theorem State.setEdition_fresh (e : Edition) : (s.setEdition e).fresh = s.fresh := State.noting_fresh ..

/-! ### removeEdition -/

@[simp] theorem State.removeEdition_pending (n : Nat) : (s.removeEdition n).pending = s.pending := State.noting_pending ..
@[simp] theorem State.removeEdition_phase (n : Nat) : (s.removeEdition n).phase = s.phase := State.noting_phase ..
@[simp] theorem State.removeEdition_cause (n : Nat) : (s.removeEdition n).cause = s.cause := State.noting_cause ..
@[simp] theorem State.removeEdition_pfail (n : Nat) : (s.removeEdition n).pfail = s.pfail := State.noting_pfail ..
@[simp] theorem State.removeEdition_port (n : Nat) : (s.removeEdition n).port = s.port := State.noting_port ..
@[simp] theorem State.removeEdition_notices (n : Nat) : (s.removeEdition n).notices = s.notices := State.noting_notices ..
@[simp] theorem State.removeEdition_head (n : Nat) : (s.removeEdition n).head = s.head := State.noting_head ..
@[simp] theorem State.removeEdition_channels (n : Nat) : (s.removeEdition n).channels = s.channels := State.noting_channels ..
@[simp] theorem State.removeEdition_lots (n : Nat) : (s.removeEdition n).lots = s.lots := State.noting_lots ..
@[simp] theorem State.removeEdition_jobs (n : Nat) : (s.removeEdition n).jobs = s.jobs := State.noting_jobs ..
@[simp] theorem State.removeEdition_seqCounter (n : Nat) : (s.removeEdition n).seqCounter = s.seqCounter := State.noting_seqCounter ..
@[simp] theorem State.removeEdition_day (n : Nat) : (s.removeEdition n).day = s.day := State.noting_day ..
@[simp] theorem State.removeEdition_rolls (n : Nat) : (s.removeEdition n).rolls = s.rolls := State.noting_rolls ..
@[simp] theorem State.removeEdition_media (n : Nat) : (s.removeEdition n).media = s.media := State.noting_media ..
@[simp] theorem State.removeEdition_check (n : Nat) : (s.removeEdition n).check = s.check := State.noting_check ..
@[simp] theorem State.removeEdition_editions (n : Nat) : (s.removeEdition n).editions = removeBy Edition.id n s.editions := State.noting_editions ..
@[simp] theorem State.removeEdition_prices (n : Nat) : (s.removeEdition n).prices = s.prices := State.noting_prices ..
@[simp] theorem State.removeEdition_pricesBad (n : Nat) : (s.removeEdition n).pricesBad = s.pricesBad := State.noting_pricesBad ..
@[simp] theorem State.removeEdition_stripMode (n : Nat) : (s.removeEdition n).stripMode = s.stripMode := State.noting_stripMode ..
@[simp] theorem State.removeEdition_overhead (n : Nat) : (s.removeEdition n).overhead = s.overhead := State.noting_overhead ..
@[simp] theorem State.removeEdition_merged (n : Nat) : (s.removeEdition n).merged = s.merged := State.noting_merged ..
@[simp] theorem State.removeEdition_handling (n : Nat) : (s.removeEdition n).handling = s.handling := State.noting_handling ..
@[simp] theorem State.removeEdition_out (n : Nat) : (s.removeEdition n).out = s.out := State.noting_out ..
@[simp] theorem State.removeEdition_fresh (n : Nat) : (s.removeEdition n).fresh = s.fresh := State.noting_fresh ..

/-! ### setPrices -/

@[simp] theorem State.setPrices_pending (p : PriceTable) : (s.setPrices p).pending = s.pending := State.noting_pending ..
@[simp] theorem State.setPrices_phase (p : PriceTable) : (s.setPrices p).phase = s.phase := State.noting_phase ..
@[simp] theorem State.setPrices_cause (p : PriceTable) : (s.setPrices p).cause = s.cause := State.noting_cause ..
@[simp] theorem State.setPrices_pfail (p : PriceTable) : (s.setPrices p).pfail = s.pfail := State.noting_pfail ..
@[simp] theorem State.setPrices_port (p : PriceTable) : (s.setPrices p).port = s.port := State.noting_port ..
@[simp] theorem State.setPrices_notices (p : PriceTable) : (s.setPrices p).notices = s.notices := State.noting_notices ..
@[simp] theorem State.setPrices_head (p : PriceTable) : (s.setPrices p).head = s.head := State.noting_head ..
@[simp] theorem State.setPrices_channels (p : PriceTable) : (s.setPrices p).channels = s.channels := State.noting_channels ..
@[simp] theorem State.setPrices_lots (p : PriceTable) : (s.setPrices p).lots = s.lots := State.noting_lots ..
@[simp] theorem State.setPrices_jobs (p : PriceTable) : (s.setPrices p).jobs = s.jobs := State.noting_jobs ..
@[simp] theorem State.setPrices_seqCounter (p : PriceTable) : (s.setPrices p).seqCounter = s.seqCounter := State.noting_seqCounter ..
@[simp] theorem State.setPrices_day (p : PriceTable) : (s.setPrices p).day = s.day := State.noting_day ..
@[simp] theorem State.setPrices_rolls (p : PriceTable) : (s.setPrices p).rolls = s.rolls := State.noting_rolls ..
@[simp] theorem State.setPrices_media (p : PriceTable) : (s.setPrices p).media = s.media := State.noting_media ..
@[simp] theorem State.setPrices_check (p : PriceTable) : (s.setPrices p).check = s.check := State.noting_check ..
@[simp] theorem State.setPrices_editions (p : PriceTable) : (s.setPrices p).editions = s.editions := State.noting_editions ..
@[simp] theorem State.setPrices_prices (p : PriceTable) : (s.setPrices p).prices = p := State.noting_prices ..
@[simp] theorem State.setPrices_pricesBad (p : PriceTable) : (s.setPrices p).pricesBad = s.pricesBad := State.noting_pricesBad ..
@[simp] theorem State.setPrices_stripMode (p : PriceTable) : (s.setPrices p).stripMode = s.stripMode := State.noting_stripMode ..
@[simp] theorem State.setPrices_overhead (p : PriceTable) : (s.setPrices p).overhead = s.overhead := State.noting_overhead ..
@[simp] theorem State.setPrices_merged (p : PriceTable) : (s.setPrices p).merged = s.merged := State.noting_merged ..
@[simp] theorem State.setPrices_handling (p : PriceTable) : (s.setPrices p).handling = s.handling := State.noting_handling ..
@[simp] theorem State.setPrices_out (p : PriceTable) : (s.setPrices p).out = s.out := State.noting_out ..
@[simp] theorem State.setPrices_fresh (p : PriceTable) : (s.setPrices p).fresh = s.fresh := State.noting_fresh ..

/-! ### setStripMode -/

@[simp] theorem State.setStripMode_pending (m : StripMode) : (s.setStripMode m).pending = s.pending := State.noting_pending ..
@[simp] theorem State.setStripMode_phase (m : StripMode) : (s.setStripMode m).phase = s.phase := State.noting_phase ..
@[simp] theorem State.setStripMode_cause (m : StripMode) : (s.setStripMode m).cause = s.cause := State.noting_cause ..
@[simp] theorem State.setStripMode_pfail (m : StripMode) : (s.setStripMode m).pfail = s.pfail := State.noting_pfail ..
@[simp] theorem State.setStripMode_port (m : StripMode) : (s.setStripMode m).port = s.port := State.noting_port ..
@[simp] theorem State.setStripMode_notices (m : StripMode) : (s.setStripMode m).notices = s.notices := State.noting_notices ..
@[simp] theorem State.setStripMode_head (m : StripMode) : (s.setStripMode m).head = s.head := State.noting_head ..
@[simp] theorem State.setStripMode_channels (m : StripMode) : (s.setStripMode m).channels = s.channels := State.noting_channels ..
@[simp] theorem State.setStripMode_lots (m : StripMode) : (s.setStripMode m).lots = s.lots := State.noting_lots ..
@[simp] theorem State.setStripMode_jobs (m : StripMode) : (s.setStripMode m).jobs = s.jobs := State.noting_jobs ..
@[simp] theorem State.setStripMode_seqCounter (m : StripMode) : (s.setStripMode m).seqCounter = s.seqCounter := State.noting_seqCounter ..
@[simp] theorem State.setStripMode_day (m : StripMode) : (s.setStripMode m).day = s.day := State.noting_day ..
@[simp] theorem State.setStripMode_rolls (m : StripMode) : (s.setStripMode m).rolls = s.rolls := State.noting_rolls ..
@[simp] theorem State.setStripMode_media (m : StripMode) : (s.setStripMode m).media = s.media := State.noting_media ..
@[simp] theorem State.setStripMode_check (m : StripMode) : (s.setStripMode m).check = s.check := State.noting_check ..
@[simp] theorem State.setStripMode_editions (m : StripMode) : (s.setStripMode m).editions = s.editions := State.noting_editions ..
@[simp] theorem State.setStripMode_prices (m : StripMode) : (s.setStripMode m).prices = s.prices := State.noting_prices ..
@[simp] theorem State.setStripMode_pricesBad (m : StripMode) : (s.setStripMode m).pricesBad = s.pricesBad := State.noting_pricesBad ..
@[simp] theorem State.setStripMode_stripMode (m : StripMode) : (s.setStripMode m).stripMode = m := State.noting_stripMode ..
@[simp] theorem State.setStripMode_overhead (m : StripMode) : (s.setStripMode m).overhead = s.overhead := State.noting_overhead ..
@[simp] theorem State.setStripMode_merged (m : StripMode) : (s.setStripMode m).merged = s.merged := State.noting_merged ..
@[simp] theorem State.setStripMode_handling (m : StripMode) : (s.setStripMode m).handling = s.handling := State.noting_handling ..
@[simp] theorem State.setStripMode_out (m : StripMode) : (s.setStripMode m).out = s.out := State.noting_out ..
@[simp] theorem State.setStripMode_fresh (m : StripMode) : (s.setStripMode m).fresh = s.fresh := State.noting_fresh ..

/-! ### setPlan -/

@[simp] theorem State.setPlan_pending (p : CheckPlan) : (s.setPlan p).pending = s.pending := State.noting_pending ..
@[simp] theorem State.setPlan_phase (p : CheckPlan) : (s.setPlan p).phase = s.phase := State.noting_phase ..
@[simp] theorem State.setPlan_cause (p : CheckPlan) : (s.setPlan p).cause = s.cause := State.noting_cause ..
@[simp] theorem State.setPlan_pfail (p : CheckPlan) : (s.setPlan p).pfail = s.pfail := State.noting_pfail ..
@[simp] theorem State.setPlan_port (p : CheckPlan) : (s.setPlan p).port = s.port := State.noting_port ..
@[simp] theorem State.setPlan_notices (p : CheckPlan) : (s.setPlan p).notices = s.notices := State.noting_notices ..
@[simp] theorem State.setPlan_head (p : CheckPlan) : (s.setPlan p).head = s.head := State.noting_head ..
@[simp] theorem State.setPlan_channels (p : CheckPlan) : (s.setPlan p).channels = s.channels := State.noting_channels ..
@[simp] theorem State.setPlan_lots (p : CheckPlan) : (s.setPlan p).lots = s.lots := State.noting_lots ..
@[simp] theorem State.setPlan_jobs (p : CheckPlan) : (s.setPlan p).jobs = s.jobs := State.noting_jobs ..
@[simp] theorem State.setPlan_seqCounter (p : CheckPlan) : (s.setPlan p).seqCounter = s.seqCounter := State.noting_seqCounter ..
@[simp] theorem State.setPlan_day (p : CheckPlan) : (s.setPlan p).day = s.day := State.noting_day ..
@[simp] theorem State.setPlan_rolls (p : CheckPlan) : (s.setPlan p).rolls = s.rolls := State.noting_rolls ..
@[simp] theorem State.setPlan_media (p : CheckPlan) : (s.setPlan p).media = s.media := State.noting_media ..
@[simp] theorem State.setPlan_check (p : CheckPlan) : (s.setPlan p).check = { s.check with plan := p } := State.noting_check ..
@[simp] theorem State.setPlan_editions (p : CheckPlan) : (s.setPlan p).editions = s.editions := State.noting_editions ..
@[simp] theorem State.setPlan_prices (p : CheckPlan) : (s.setPlan p).prices = s.prices := State.noting_prices ..
@[simp] theorem State.setPlan_pricesBad (p : CheckPlan) : (s.setPlan p).pricesBad = s.pricesBad := State.noting_pricesBad ..
@[simp] theorem State.setPlan_stripMode (p : CheckPlan) : (s.setPlan p).stripMode = s.stripMode := State.noting_stripMode ..
@[simp] theorem State.setPlan_overhead (p : CheckPlan) : (s.setPlan p).overhead = s.overhead := State.noting_overhead ..
@[simp] theorem State.setPlan_merged (p : CheckPlan) : (s.setPlan p).merged = s.merged := State.noting_merged ..
@[simp] theorem State.setPlan_handling (p : CheckPlan) : (s.setPlan p).handling = s.handling := State.noting_handling ..
@[simp] theorem State.setPlan_out (p : CheckPlan) : (s.setPlan p).out = s.out := State.noting_out ..
@[simp] theorem State.setPlan_fresh (p : CheckPlan) : (s.setPlan p).fresh = s.fresh := State.noting_fresh ..

/-! ### setGeometry -/

@[simp] theorem State.setGeometry_pending (g : Geometry) : (s.setGeometry g).pending = s.pending := State.noting_pending ..
@[simp] theorem State.setGeometry_phase (g : Geometry) : (s.setGeometry g).phase = s.phase := State.noting_phase ..
@[simp] theorem State.setGeometry_cause (g : Geometry) : (s.setGeometry g).cause = s.cause := State.noting_cause ..
@[simp] theorem State.setGeometry_pfail (g : Geometry) : (s.setGeometry g).pfail = s.pfail := State.noting_pfail ..
@[simp] theorem State.setGeometry_port (g : Geometry) : (s.setGeometry g).port = s.port := State.noting_port ..
@[simp] theorem State.setGeometry_notices (g : Geometry) : (s.setGeometry g).notices = s.notices := State.noting_notices ..
@[simp] theorem State.setGeometry_head (g : Geometry) : (s.setGeometry g).head = s.head := State.noting_head ..
@[simp] theorem State.setGeometry_channels (g : Geometry) : (s.setGeometry g).channels = s.channels := State.noting_channels ..
@[simp] theorem State.setGeometry_lots (g : Geometry) : (s.setGeometry g).lots = s.lots := State.noting_lots ..
@[simp] theorem State.setGeometry_jobs (g : Geometry) : (s.setGeometry g).jobs = s.jobs := State.noting_jobs ..
@[simp] theorem State.setGeometry_seqCounter (g : Geometry) : (s.setGeometry g).seqCounter = s.seqCounter := State.noting_seqCounter ..
@[simp] theorem State.setGeometry_day (g : Geometry) : (s.setGeometry g).day = s.day := State.noting_day ..
@[simp] theorem State.setGeometry_rolls (g : Geometry) : (s.setGeometry g).rolls = s.rolls := State.noting_rolls ..
@[simp] theorem State.setGeometry_media (g : Geometry) : (s.setGeometry g).media = { s.media with geometry := g } := State.noting_media ..
@[simp] theorem State.setGeometry_check (g : Geometry) : (s.setGeometry g).check = s.check := State.noting_check ..
@[simp] theorem State.setGeometry_editions (g : Geometry) : (s.setGeometry g).editions = s.editions := State.noting_editions ..
@[simp] theorem State.setGeometry_prices (g : Geometry) : (s.setGeometry g).prices = s.prices := State.noting_prices ..
@[simp] theorem State.setGeometry_pricesBad (g : Geometry) : (s.setGeometry g).pricesBad = s.pricesBad := State.noting_pricesBad ..
@[simp] theorem State.setGeometry_stripMode (g : Geometry) : (s.setGeometry g).stripMode = s.stripMode := State.noting_stripMode ..
@[simp] theorem State.setGeometry_overhead (g : Geometry) : (s.setGeometry g).overhead = s.overhead := State.noting_overhead ..
@[simp] theorem State.setGeometry_merged (g : Geometry) : (s.setGeometry g).merged = s.merged := State.noting_merged ..
@[simp] theorem State.setGeometry_handling (g : Geometry) : (s.setGeometry g).handling = s.handling := State.noting_handling ..
@[simp] theorem State.setGeometry_out (g : Geometry) : (s.setGeometry g).out = s.out := State.noting_out ..
@[simp] theorem State.setGeometry_fresh (g : Geometry) : (s.setGeometry g).fresh = s.fresh := State.noting_fresh ..

/-! ### setCounters and setOverhead -/

@[simp] theorem State.setCounters_pending (n d : Nat) (o : Overhead) : (s.setCounters n d o).pending = s.pending := State.noting_pending ..
@[simp] theorem State.setCounters_phase (n d : Nat) (o : Overhead) : (s.setCounters n d o).phase = s.phase := State.noting_phase ..
@[simp] theorem State.setCounters_cause (n d : Nat) (o : Overhead) : (s.setCounters n d o).cause = s.cause := State.noting_cause ..
@[simp] theorem State.setCounters_pfail (n d : Nat) (o : Overhead) : (s.setCounters n d o).pfail = s.pfail := State.noting_pfail ..
@[simp] theorem State.setCounters_port (n d : Nat) (o : Overhead) : (s.setCounters n d o).port = s.port := State.noting_port ..
@[simp] theorem State.setCounters_notices (n d : Nat) (o : Overhead) : (s.setCounters n d o).notices = s.notices := State.noting_notices ..
@[simp] theorem State.setCounters_head (n d : Nat) (o : Overhead) : (s.setCounters n d o).head = s.head := State.noting_head ..
@[simp] theorem State.setCounters_channels (n d : Nat) (o : Overhead) : (s.setCounters n d o).channels = s.channels := State.noting_channels ..
@[simp] theorem State.setCounters_lots (n d : Nat) (o : Overhead) : (s.setCounters n d o).lots = s.lots := State.noting_lots ..
@[simp] theorem State.setCounters_jobs (n d : Nat) (o : Overhead) : (s.setCounters n d o).jobs = s.jobs := State.noting_jobs ..
@[simp] theorem State.setCounters_seqCounter (n d : Nat) (o : Overhead) : (s.setCounters n d o).seqCounter = n := State.noting_seqCounter ..
@[simp] theorem State.setCounters_day (n d : Nat) (o : Overhead) : (s.setCounters n d o).day = d := State.noting_day ..
@[simp] theorem State.setCounters_rolls (n d : Nat) (o : Overhead) : (s.setCounters n d o).rolls = s.rolls := State.noting_rolls ..
@[simp] theorem State.setCounters_media (n d : Nat) (o : Overhead) : (s.setCounters n d o).media = s.media := State.noting_media ..
@[simp] theorem State.setCounters_check (n d : Nat) (o : Overhead) : (s.setCounters n d o).check = s.check := State.noting_check ..
@[simp] theorem State.setCounters_editions (n d : Nat) (o : Overhead) : (s.setCounters n d o).editions = s.editions := State.noting_editions ..
@[simp] theorem State.setCounters_prices (n d : Nat) (o : Overhead) : (s.setCounters n d o).prices = s.prices := State.noting_prices ..
@[simp] theorem State.setCounters_pricesBad (n d : Nat) (o : Overhead) : (s.setCounters n d o).pricesBad = s.pricesBad := State.noting_pricesBad ..
@[simp] theorem State.setCounters_stripMode (n d : Nat) (o : Overhead) : (s.setCounters n d o).stripMode = s.stripMode := State.noting_stripMode ..
@[simp] theorem State.setCounters_overhead (n d : Nat) (o : Overhead) : (s.setCounters n d o).overhead = o := State.noting_overhead ..
@[simp] theorem State.setCounters_merged (n d : Nat) (o : Overhead) : (s.setCounters n d o).merged = s.merged := State.noting_merged ..
@[simp] theorem State.setCounters_handling (n d : Nat) (o : Overhead) : (s.setCounters n d o).handling = s.handling := State.noting_handling ..
@[simp] theorem State.setCounters_out (n d : Nat) (o : Overhead) : (s.setCounters n d o).out = s.out := State.noting_out ..
@[simp] theorem State.setCounters_fresh (n d : Nat) (o : Overhead) : (s.setCounters n d o).fresh = s.fresh := State.noting_fresh ..
@[simp] theorem State.setOverhead_pending (o : Overhead) : (s.setOverhead o).pending = s.pending := State.noting_pending ..
@[simp] theorem State.setOverhead_phase (o : Overhead) : (s.setOverhead o).phase = s.phase := State.noting_phase ..
@[simp] theorem State.setOverhead_cause (o : Overhead) : (s.setOverhead o).cause = s.cause := State.noting_cause ..
@[simp] theorem State.setOverhead_pfail (o : Overhead) : (s.setOverhead o).pfail = s.pfail := State.noting_pfail ..
@[simp] theorem State.setOverhead_port (o : Overhead) : (s.setOverhead o).port = s.port := State.noting_port ..
@[simp] theorem State.setOverhead_notices (o : Overhead) : (s.setOverhead o).notices = s.notices := State.noting_notices ..
@[simp] theorem State.setOverhead_head (o : Overhead) : (s.setOverhead o).head = s.head := State.noting_head ..
@[simp] theorem State.setOverhead_channels (o : Overhead) : (s.setOverhead o).channels = s.channels := State.noting_channels ..
@[simp] theorem State.setOverhead_lots (o : Overhead) : (s.setOverhead o).lots = s.lots := State.noting_lots ..
@[simp] theorem State.setOverhead_jobs (o : Overhead) : (s.setOverhead o).jobs = s.jobs := State.noting_jobs ..
@[simp] theorem State.setOverhead_seqCounter (o : Overhead) : (s.setOverhead o).seqCounter = s.seqCounter := State.noting_seqCounter ..
@[simp] theorem State.setOverhead_day (o : Overhead) : (s.setOverhead o).day = s.day := State.noting_day ..
@[simp] theorem State.setOverhead_rolls (o : Overhead) : (s.setOverhead o).rolls = s.rolls := State.noting_rolls ..
@[simp] theorem State.setOverhead_media (o : Overhead) : (s.setOverhead o).media = s.media := State.noting_media ..
@[simp] theorem State.setOverhead_check (o : Overhead) : (s.setOverhead o).check = s.check := State.noting_check ..
@[simp] theorem State.setOverhead_editions (o : Overhead) : (s.setOverhead o).editions = s.editions := State.noting_editions ..
@[simp] theorem State.setOverhead_prices (o : Overhead) : (s.setOverhead o).prices = s.prices := State.noting_prices ..
@[simp] theorem State.setOverhead_pricesBad (o : Overhead) : (s.setOverhead o).pricesBad = s.pricesBad := State.noting_pricesBad ..
@[simp] theorem State.setOverhead_stripMode (o : Overhead) : (s.setOverhead o).stripMode = s.stripMode := State.noting_stripMode ..
@[simp] theorem State.setOverhead_overhead (o : Overhead) : (s.setOverhead o).overhead = o := State.noting_overhead ..
@[simp] theorem State.setOverhead_merged (o : Overhead) : (s.setOverhead o).merged = s.merged := State.noting_merged ..
@[simp] theorem State.setOverhead_handling (o : Overhead) : (s.setOverhead o).handling = s.handling := State.noting_handling ..
@[simp] theorem State.setOverhead_out (o : Overhead) : (s.setOverhead o).out = s.out := State.noting_out ..
@[simp] theorem State.setOverhead_fresh (o : Overhead) : (s.setOverhead o).fresh = s.fresh := State.noting_fresh ..

/-! ### setChan and modChan -/

@[simp] theorem State.setChan_pending (c : Chan) (x : Channel) : (s.setChan c x).pending = s.pending :=
  (State.noting_pending ..).trans (State.noting_pending ..)
@[simp] theorem State.setChan_phase (c : Chan) (x : Channel) : (s.setChan c x).phase = s.phase :=
  (State.noting_phase ..).trans (State.noting_phase ..)
@[simp] theorem State.setChan_cause (c : Chan) (x : Channel) : (s.setChan c x).cause = s.cause :=
  (State.noting_cause ..).trans (State.noting_cause ..)
@[simp] theorem State.setChan_pfail (c : Chan) (x : Channel) : (s.setChan c x).pfail = s.pfail :=
  (State.noting_pfail ..).trans (State.noting_pfail ..)
@[simp] theorem State.setChan_port (c : Chan) (x : Channel) : (s.setChan c x).port = s.port :=
  (State.noting_port ..).trans (State.noting_port ..)
@[simp] theorem State.setChan_notices (c : Chan) (x : Channel) : (s.setChan c x).notices = s.notices :=
  (State.noting_notices ..).trans (State.noting_notices ..)
@[simp] theorem State.setChan_head (c : Chan) (x : Channel) : (s.setChan c x).head = s.head :=
  (State.noting_head ..).trans (State.noting_head ..)
@[simp] theorem State.setChan_channels (c : Chan) (x : Channel) : (s.setChan c x).channels = s.channels.set c x :=
  (State.noting_channels ..).trans (State.noting_channels ..)
@[simp] theorem State.setChan_lots (c : Chan) (x : Channel) : (s.setChan c x).lots = s.lots :=
  (State.noting_lots ..).trans (State.noting_lots ..)
@[simp] theorem State.setChan_jobs (c : Chan) (x : Channel) : (s.setChan c x).jobs = s.jobs :=
  (State.noting_jobs ..).trans (State.noting_jobs ..)
@[simp] theorem State.setChan_seqCounter (c : Chan) (x : Channel) : (s.setChan c x).seqCounter = s.seqCounter :=
  (State.noting_seqCounter ..).trans (State.noting_seqCounter ..)
@[simp] theorem State.setChan_day (c : Chan) (x : Channel) : (s.setChan c x).day = s.day :=
  (State.noting_day ..).trans (State.noting_day ..)
@[simp] theorem State.setChan_rolls (c : Chan) (x : Channel) : (s.setChan c x).rolls = s.rolls :=
  (State.noting_rolls ..).trans (State.noting_rolls ..)
@[simp] theorem State.setChan_media (c : Chan) (x : Channel) : (s.setChan c x).media = s.media :=
  (State.noting_media ..).trans (State.noting_media ..)
@[simp] theorem State.setChan_check (c : Chan) (x : Channel) : (s.setChan c x).check = s.check :=
  (State.noting_check ..).trans (State.noting_check ..)
@[simp] theorem State.setChan_editions (c : Chan) (x : Channel) : (s.setChan c x).editions = s.editions :=
  (State.noting_editions ..).trans (State.noting_editions ..)
@[simp] theorem State.setChan_prices (c : Chan) (x : Channel) : (s.setChan c x).prices = s.prices :=
  (State.noting_prices ..).trans (State.noting_prices ..)
@[simp] theorem State.setChan_pricesBad (c : Chan) (x : Channel) : (s.setChan c x).pricesBad = s.pricesBad :=
  (State.noting_pricesBad ..).trans (State.noting_pricesBad ..)
@[simp] theorem State.setChan_stripMode (c : Chan) (x : Channel) : (s.setChan c x).stripMode = s.stripMode :=
  (State.noting_stripMode ..).trans (State.noting_stripMode ..)
@[simp] theorem State.setChan_overhead (c : Chan) (x : Channel) : (s.setChan c x).overhead = s.overhead :=
  (State.noting_overhead ..).trans (State.noting_overhead ..)
@[simp] theorem State.setChan_merged (c : Chan) (x : Channel) : (s.setChan c x).merged = s.merged :=
  (State.noting_merged ..).trans (State.noting_merged ..)
@[simp] theorem State.setChan_handling (c : Chan) (x : Channel) : (s.setChan c x).handling = s.handling :=
  (State.noting_handling ..).trans (State.noting_handling ..)
@[simp] theorem State.setChan_out (c : Chan) (x : Channel) : (s.setChan c x).out = s.out :=
  (State.noting_out ..).trans (State.noting_out ..)
@[simp] theorem State.setChan_fresh (c : Chan) (x : Channel) : (s.setChan c x).fresh = s.fresh :=
  (State.noting_fresh ..).trans (State.noting_fresh ..)
@[simp] theorem State.modChan_pending (c : Chan) (f : Channel → Channel) : (s.modChan c f).pending = s.pending :=
  (State.noting_pending ..).trans (State.noting_pending ..)
@[simp] theorem State.modChan_phase (c : Chan) (f : Channel → Channel) : (s.modChan c f).phase = s.phase :=
  (State.noting_phase ..).trans (State.noting_phase ..)
@[simp] theorem State.modChan_cause (c : Chan) (f : Channel → Channel) : (s.modChan c f).cause = s.cause :=
  (State.noting_cause ..).trans (State.noting_cause ..)
@[simp] theorem State.modChan_pfail (c : Chan) (f : Channel → Channel) : (s.modChan c f).pfail = s.pfail :=
  (State.noting_pfail ..).trans (State.noting_pfail ..)
@[simp] theorem State.modChan_port (c : Chan) (f : Channel → Channel) : (s.modChan c f).port = s.port :=
  (State.noting_port ..).trans (State.noting_port ..)
@[simp] theorem State.modChan_notices (c : Chan) (f : Channel → Channel) : (s.modChan c f).notices = s.notices :=
  (State.noting_notices ..).trans (State.noting_notices ..)
@[simp] theorem State.modChan_head (c : Chan) (f : Channel → Channel) : (s.modChan c f).head = s.head :=
  (State.noting_head ..).trans (State.noting_head ..)
@[simp] theorem State.modChan_channels (c : Chan) (f : Channel → Channel) : (s.modChan c f).channels = s.channels.set c (f (s.chan c)) :=
  (State.noting_channels ..).trans (State.noting_channels ..)
@[simp] theorem State.modChan_lots (c : Chan) (f : Channel → Channel) : (s.modChan c f).lots = s.lots :=
  (State.noting_lots ..).trans (State.noting_lots ..)
@[simp] theorem State.modChan_jobs (c : Chan) (f : Channel → Channel) : (s.modChan c f).jobs = s.jobs :=
  (State.noting_jobs ..).trans (State.noting_jobs ..)
@[simp] theorem State.modChan_seqCounter (c : Chan) (f : Channel → Channel) : (s.modChan c f).seqCounter = s.seqCounter :=
  (State.noting_seqCounter ..).trans (State.noting_seqCounter ..)
@[simp] theorem State.modChan_day (c : Chan) (f : Channel → Channel) : (s.modChan c f).day = s.day :=
  (State.noting_day ..).trans (State.noting_day ..)
@[simp] theorem State.modChan_rolls (c : Chan) (f : Channel → Channel) : (s.modChan c f).rolls = s.rolls :=
  (State.noting_rolls ..).trans (State.noting_rolls ..)
@[simp] theorem State.modChan_media (c : Chan) (f : Channel → Channel) : (s.modChan c f).media = s.media :=
  (State.noting_media ..).trans (State.noting_media ..)
@[simp] theorem State.modChan_check (c : Chan) (f : Channel → Channel) : (s.modChan c f).check = s.check :=
  (State.noting_check ..).trans (State.noting_check ..)
@[simp] theorem State.modChan_editions (c : Chan) (f : Channel → Channel) : (s.modChan c f).editions = s.editions :=
  (State.noting_editions ..).trans (State.noting_editions ..)
@[simp] theorem State.modChan_prices (c : Chan) (f : Channel → Channel) : (s.modChan c f).prices = s.prices :=
  (State.noting_prices ..).trans (State.noting_prices ..)
@[simp] theorem State.modChan_pricesBad (c : Chan) (f : Channel → Channel) : (s.modChan c f).pricesBad = s.pricesBad :=
  (State.noting_pricesBad ..).trans (State.noting_pricesBad ..)
@[simp] theorem State.modChan_stripMode (c : Chan) (f : Channel → Channel) : (s.modChan c f).stripMode = s.stripMode :=
  (State.noting_stripMode ..).trans (State.noting_stripMode ..)
@[simp] theorem State.modChan_overhead (c : Chan) (f : Channel → Channel) : (s.modChan c f).overhead = s.overhead :=
  (State.noting_overhead ..).trans (State.noting_overhead ..)
@[simp] theorem State.modChan_merged (c : Chan) (f : Channel → Channel) : (s.modChan c f).merged = s.merged :=
  (State.noting_merged ..).trans (State.noting_merged ..)
@[simp] theorem State.modChan_handling (c : Chan) (f : Channel → Channel) : (s.modChan c f).handling = s.handling :=
  (State.noting_handling ..).trans (State.noting_handling ..)
@[simp] theorem State.modChan_out (c : Chan) (f : Channel → Channel) : (s.modChan c f).out = s.out :=
  (State.noting_out ..).trans (State.noting_out ..)
@[simp] theorem State.modChan_fresh (c : Chan) (f : Channel → Channel) : (s.modChan c f).fresh = s.fresh :=
  (State.noting_fresh ..).trans (State.noting_fresh ..)

/-! ### send, raise, setMedia, quiet, freshen, forgetMerged, noteMerged -/

@[simp] theorem State.send_pending (x : Output) : (s.send x).pending = s.pending := rfl
@[simp] theorem State.send_phase (x : Output) : (s.send x).phase = s.phase := rfl
@[simp] theorem State.send_cause (x : Output) : (s.send x).cause = s.cause := rfl
@[simp] theorem State.send_pfail (x : Output) : (s.send x).pfail = s.pfail := rfl
@[simp] theorem State.send_port (x : Output) : (s.send x).port = s.port := rfl
@[simp] theorem State.send_notices (x : Output) : (s.send x).notices = s.notices := rfl
@[simp] theorem State.send_head (x : Output) : (s.send x).head = s.head := rfl
@[simp] theorem State.send_channels (x : Output) : (s.send x).channels = s.channels := rfl
@[simp] theorem State.send_lots (x : Output) : (s.send x).lots = s.lots := rfl
@[simp] theorem State.send_jobs (x : Output) : (s.send x).jobs = s.jobs := rfl
@[simp] theorem State.send_seqCounter (x : Output) : (s.send x).seqCounter = s.seqCounter := rfl
@[simp] theorem State.send_day (x : Output) : (s.send x).day = s.day := rfl
@[simp] theorem State.send_rolls (x : Output) : (s.send x).rolls = s.rolls := rfl
@[simp] theorem State.send_media (x : Output) : (s.send x).media = s.media := rfl
@[simp] theorem State.send_check (x : Output) : (s.send x).check = s.check := rfl
@[simp] theorem State.send_editions (x : Output) : (s.send x).editions = s.editions := rfl
@[simp] theorem State.send_prices (x : Output) : (s.send x).prices = s.prices := rfl
@[simp] theorem State.send_pricesBad (x : Output) : (s.send x).pricesBad = s.pricesBad := rfl
@[simp] theorem State.send_stripMode (x : Output) : (s.send x).stripMode = s.stripMode := rfl
@[simp] theorem State.send_overhead (x : Output) : (s.send x).overhead = s.overhead := rfl
@[simp] theorem State.send_merged (x : Output) : (s.send x).merged = s.merged := rfl
@[simp] theorem State.send_store (x : Output) : (s.send x).store = s.store := rfl
@[simp] theorem State.send_handling (x : Output) : (s.send x).handling = s.handling := rfl
@[simp] theorem State.send_out (x : Output) : (s.send x).out = s.out ++ [x] := rfl
@[simp] theorem State.send_fresh (x : Output) : (s.send x).fresh = s.fresh := rfl
@[simp] theorem State.raise_pending (u : Subject) (d : Detail) : (s.raise u d).pending = s.pending := rfl
@[simp] theorem State.raise_phase (u : Subject) (d : Detail) : (s.raise u d).phase = s.phase := rfl
@[simp] theorem State.raise_cause (u : Subject) (d : Detail) : (s.raise u d).cause = s.cause := rfl
@[simp] theorem State.raise_pfail (u : Subject) (d : Detail) : (s.raise u d).pfail = s.pfail := rfl
@[simp] theorem State.raise_port (u : Subject) (d : Detail) : (s.raise u d).port = s.port := rfl
@[simp] theorem State.raise_notices (u : Subject) (d : Detail) : (s.raise u d).notices = s.notices.take s.awaited u d := rfl
@[simp] theorem State.raise_head (u : Subject) (d : Detail) : (s.raise u d).head = s.head := rfl
@[simp] theorem State.raise_channels (u : Subject) (d : Detail) : (s.raise u d).channels = s.channels := rfl
@[simp] theorem State.raise_lots (u : Subject) (d : Detail) : (s.raise u d).lots = s.lots := rfl
@[simp] theorem State.raise_jobs (u : Subject) (d : Detail) : (s.raise u d).jobs = s.jobs := rfl
@[simp] theorem State.raise_seqCounter (u : Subject) (d : Detail) : (s.raise u d).seqCounter = s.seqCounter := rfl
@[simp] theorem State.raise_day (u : Subject) (d : Detail) : (s.raise u d).day = s.day := rfl
@[simp] theorem State.raise_rolls (u : Subject) (d : Detail) : (s.raise u d).rolls = s.rolls := rfl
@[simp] theorem State.raise_media (u : Subject) (d : Detail) : (s.raise u d).media = s.media := rfl
@[simp] theorem State.raise_check (u : Subject) (d : Detail) : (s.raise u d).check = s.check := rfl
@[simp] theorem State.raise_editions (u : Subject) (d : Detail) : (s.raise u d).editions = s.editions := rfl
@[simp] theorem State.raise_prices (u : Subject) (d : Detail) : (s.raise u d).prices = s.prices := rfl
@[simp] theorem State.raise_pricesBad (u : Subject) (d : Detail) : (s.raise u d).pricesBad = s.pricesBad := rfl
@[simp] theorem State.raise_stripMode (u : Subject) (d : Detail) : (s.raise u d).stripMode = s.stripMode := rfl
@[simp] theorem State.raise_overhead (u : Subject) (d : Detail) : (s.raise u d).overhead = s.overhead := rfl
@[simp] theorem State.raise_merged (u : Subject) (d : Detail) : (s.raise u d).merged = s.merged := rfl
@[simp] theorem State.raise_store (u : Subject) (d : Detail) : (s.raise u d).store = s.store := rfl
@[simp] theorem State.raise_handling (u : Subject) (d : Detail) : (s.raise u d).handling = s.handling := rfl
@[simp] theorem State.raise_out (u : Subject) (d : Detail) : (s.raise u d).out = s.out := rfl
@[simp] theorem State.raise_fresh (u : Subject) (d : Detail) : (s.raise u d).fresh = s.fresh := rfl
@[simp] theorem State.setMedia_pending (f : Media → Media) : (s.setMedia f).pending = s.pending := rfl
@[simp] theorem State.setMedia_phase (f : Media → Media) : (s.setMedia f).phase = s.phase := rfl
@[simp] theorem State.setMedia_cause (f : Media → Media) : (s.setMedia f).cause = s.cause := rfl
@[simp] theorem State.setMedia_pfail (f : Media → Media) : (s.setMedia f).pfail = s.pfail := rfl
@[simp] theorem State.setMedia_port (f : Media → Media) : (s.setMedia f).port = s.port := rfl
@[simp] theorem State.setMedia_notices (f : Media → Media) : (s.setMedia f).notices = s.notices := rfl
@[simp] theorem State.setMedia_head (f : Media → Media) : (s.setMedia f).head = s.head := rfl
@[simp] theorem State.setMedia_channels (f : Media → Media) : (s.setMedia f).channels = s.channels := rfl
@[simp] theorem State.setMedia_lots (f : Media → Media) : (s.setMedia f).lots = s.lots := rfl
@[simp] theorem State.setMedia_jobs (f : Media → Media) : (s.setMedia f).jobs = s.jobs := rfl
@[simp] theorem State.setMedia_seqCounter (f : Media → Media) : (s.setMedia f).seqCounter = s.seqCounter := rfl
@[simp] theorem State.setMedia_day (f : Media → Media) : (s.setMedia f).day = s.day := rfl
@[simp] theorem State.setMedia_rolls (f : Media → Media) : (s.setMedia f).rolls = s.rolls := rfl
@[simp] theorem State.setMedia_media (f : Media → Media) : (s.setMedia f).media = f s.media := rfl
@[simp] theorem State.setMedia_check (f : Media → Media) : (s.setMedia f).check = s.check := rfl
@[simp] theorem State.setMedia_editions (f : Media → Media) : (s.setMedia f).editions = s.editions := rfl
@[simp] theorem State.setMedia_prices (f : Media → Media) : (s.setMedia f).prices = s.prices := rfl
@[simp] theorem State.setMedia_pricesBad (f : Media → Media) : (s.setMedia f).pricesBad = s.pricesBad := rfl
@[simp] theorem State.setMedia_stripMode (f : Media → Media) : (s.setMedia f).stripMode = s.stripMode := rfl
@[simp] theorem State.setMedia_overhead (f : Media → Media) : (s.setMedia f).overhead = s.overhead := rfl
@[simp] theorem State.setMedia_merged (f : Media → Media) : (s.setMedia f).merged = s.merged := rfl
@[simp] theorem State.setMedia_store (f : Media → Media) : (s.setMedia f).store = s.store := rfl
@[simp] theorem State.setMedia_handling (f : Media → Media) : (s.setMedia f).handling = s.handling := rfl
@[simp] theorem State.setMedia_out (f : Media → Media) : (s.setMedia f).out = s.out := rfl
@[simp] theorem State.setMedia_fresh (f : Media → Media) : (s.setMedia f).fresh = s.fresh := rfl
@[simp] theorem State.quiet_pending : (s.quiet).pending = s.pending := rfl
@[simp] theorem State.quiet_phase : (s.quiet).phase = s.phase := rfl
@[simp] theorem State.quiet_cause : (s.quiet).cause = s.cause := rfl
@[simp] theorem State.quiet_pfail : (s.quiet).pfail = s.pfail := rfl
@[simp] theorem State.quiet_port : (s.quiet).port = s.port := rfl
@[simp] theorem State.quiet_notices : (s.quiet).notices = s.notices := rfl
@[simp] theorem State.quiet_head : (s.quiet).head = s.head := rfl
@[simp] theorem State.quiet_channels : (s.quiet).channels = s.channels := rfl
@[simp] theorem State.quiet_lots : (s.quiet).lots = s.lots := rfl
@[simp] theorem State.quiet_jobs : (s.quiet).jobs = s.jobs := rfl
@[simp] theorem State.quiet_seqCounter : (s.quiet).seqCounter = s.seqCounter := rfl
@[simp] theorem State.quiet_day : (s.quiet).day = s.day := rfl
@[simp] theorem State.quiet_rolls : (s.quiet).rolls = s.rolls := rfl
@[simp] theorem State.quiet_media : (s.quiet).media = s.media := rfl
@[simp] theorem State.quiet_check : (s.quiet).check = s.check := rfl
@[simp] theorem State.quiet_editions : (s.quiet).editions = s.editions := rfl
@[simp] theorem State.quiet_prices : (s.quiet).prices = s.prices := rfl
@[simp] theorem State.quiet_pricesBad : (s.quiet).pricesBad = s.pricesBad := rfl
@[simp] theorem State.quiet_stripMode : (s.quiet).stripMode = s.stripMode := rfl
@[simp] theorem State.quiet_overhead : (s.quiet).overhead = s.overhead := rfl
@[simp] theorem State.quiet_merged : (s.quiet).merged = s.merged := rfl
@[simp] theorem State.quiet_store : (s.quiet).store = s.store := rfl
@[simp] theorem State.quiet_handling : (s.quiet).handling = s.handling := rfl
@[simp] theorem State.quiet_out : (s.quiet).out = [] := rfl
@[simp] theorem State.quiet_fresh : (s.quiet).fresh = s.fresh := rfl
@[simp] theorem State.freshen_pending : (s.freshen).pending = s.pending := rfl
@[simp] theorem State.freshen_phase : (s.freshen).phase = s.phase := rfl
@[simp] theorem State.freshen_cause : (s.freshen).cause = s.cause := rfl
@[simp] theorem State.freshen_pfail : (s.freshen).pfail = s.pfail := rfl
@[simp] theorem State.freshen_port : (s.freshen).port = s.port := rfl
@[simp] theorem State.freshen_notices : (s.freshen).notices = s.notices := rfl
@[simp] theorem State.freshen_head : (s.freshen).head = s.head := rfl
@[simp] theorem State.freshen_channels : (s.freshen).channels = s.channels := rfl
@[simp] theorem State.freshen_lots : (s.freshen).lots = s.lots := rfl
@[simp] theorem State.freshen_jobs : (s.freshen).jobs = s.jobs := rfl
@[simp] theorem State.freshen_seqCounter : (s.freshen).seqCounter = s.seqCounter := rfl
@[simp] theorem State.freshen_day : (s.freshen).day = s.day := rfl
@[simp] theorem State.freshen_rolls : (s.freshen).rolls = s.rolls := rfl
@[simp] theorem State.freshen_media : (s.freshen).media = s.media := rfl
@[simp] theorem State.freshen_check : (s.freshen).check = s.check := rfl
@[simp] theorem State.freshen_editions : (s.freshen).editions = s.editions := rfl
@[simp] theorem State.freshen_prices : (s.freshen).prices = s.prices := rfl
@[simp] theorem State.freshen_pricesBad : (s.freshen).pricesBad = s.pricesBad := rfl
@[simp] theorem State.freshen_stripMode : (s.freshen).stripMode = s.stripMode := rfl
@[simp] theorem State.freshen_overhead : (s.freshen).overhead = s.overhead := rfl
@[simp] theorem State.freshen_merged : (s.freshen).merged = s.merged := rfl
@[simp] theorem State.freshen_store : (s.freshen).store = s.store := rfl
@[simp] theorem State.freshen_handling : (s.freshen).handling = s.handling := rfl
@[simp] theorem State.freshen_out : (s.freshen).out = s.out := rfl
@[simp] theorem State.freshen_fresh : (s.freshen).fresh = s.fresh + 1 := rfl
@[simp] theorem State.forgetMerged_pending (n : Nat) : (s.forgetMerged n).pending = s.pending := rfl
@[simp] theorem State.forgetMerged_phase (n : Nat) : (s.forgetMerged n).phase = s.phase := rfl
@[simp] theorem State.forgetMerged_cause (n : Nat) : (s.forgetMerged n).cause = s.cause := rfl
@[simp] theorem State.forgetMerged_pfail (n : Nat) : (s.forgetMerged n).pfail = s.pfail := rfl
@[simp] theorem State.forgetMerged_port (n : Nat) : (s.forgetMerged n).port = s.port := rfl
@[simp] theorem State.forgetMerged_notices (n : Nat) : (s.forgetMerged n).notices = s.notices := rfl
@[simp] theorem State.forgetMerged_head (n : Nat) : (s.forgetMerged n).head = s.head := rfl
@[simp] theorem State.forgetMerged_channels (n : Nat) : (s.forgetMerged n).channels = s.channels := rfl
@[simp] theorem State.forgetMerged_lots (n : Nat) : (s.forgetMerged n).lots = s.lots := rfl
@[simp] theorem State.forgetMerged_jobs (n : Nat) : (s.forgetMerged n).jobs = s.jobs := rfl
@[simp] theorem State.forgetMerged_seqCounter (n : Nat) : (s.forgetMerged n).seqCounter = s.seqCounter := rfl
@[simp] theorem State.forgetMerged_day (n : Nat) : (s.forgetMerged n).day = s.day := rfl
@[simp] theorem State.forgetMerged_rolls (n : Nat) : (s.forgetMerged n).rolls = s.rolls := rfl
@[simp] theorem State.forgetMerged_media (n : Nat) : (s.forgetMerged n).media = s.media := rfl
@[simp] theorem State.forgetMerged_check (n : Nat) : (s.forgetMerged n).check = s.check := rfl
@[simp] theorem State.forgetMerged_editions (n : Nat) : (s.forgetMerged n).editions = s.editions := rfl
@[simp] theorem State.forgetMerged_prices (n : Nat) : (s.forgetMerged n).prices = s.prices := rfl
@[simp] theorem State.forgetMerged_pricesBad (n : Nat) : (s.forgetMerged n).pricesBad = s.pricesBad := rfl
@[simp] theorem State.forgetMerged_stripMode (n : Nat) : (s.forgetMerged n).stripMode = s.stripMode := rfl
@[simp] theorem State.forgetMerged_overhead (n : Nat) : (s.forgetMerged n).overhead = s.overhead := rfl
@[simp] theorem State.forgetMerged_merged (n : Nat) : (s.forgetMerged n).merged = s.merged.filter fun p => p.1 != n := rfl
@[simp] theorem State.forgetMerged_store (n : Nat) : (s.forgetMerged n).store = s.store := rfl
@[simp] theorem State.forgetMerged_handling (n : Nat) : (s.forgetMerged n).handling = s.handling := rfl
@[simp] theorem State.forgetMerged_out (n : Nat) : (s.forgetMerged n).out = s.out := rfl
@[simp] theorem State.forgetMerged_fresh (n : Nat) : (s.forgetMerged n).fresh = s.fresh := rfl
@[simp] theorem State.noteMerged_pending (j : Job) (c : Chan) (p : List Part) : (s.noteMerged j c p).pending = s.pending := rfl
@[simp] theorem State.noteMerged_phase (j : Job) (c : Chan) (p : List Part) : (s.noteMerged j c p).phase = s.phase := rfl
@[simp] theorem State.noteMerged_cause (j : Job) (c : Chan) (p : List Part) : (s.noteMerged j c p).cause = s.cause := rfl
@[simp] theorem State.noteMerged_pfail (j : Job) (c : Chan) (p : List Part) : (s.noteMerged j c p).pfail = s.pfail := rfl
@[simp] theorem State.noteMerged_port (j : Job) (c : Chan) (p : List Part) : (s.noteMerged j c p).port = s.port := rfl
@[simp] theorem State.noteMerged_notices (j : Job) (c : Chan) (p : List Part) : (s.noteMerged j c p).notices = s.notices := rfl
@[simp] theorem State.noteMerged_head (j : Job) (c : Chan) (p : List Part) : (s.noteMerged j c p).head = s.head := rfl
@[simp] theorem State.noteMerged_channels (j : Job) (c : Chan) (p : List Part) : (s.noteMerged j c p).channels = s.channels := rfl
@[simp] theorem State.noteMerged_lots (j : Job) (c : Chan) (p : List Part) : (s.noteMerged j c p).lots = s.lots := rfl
@[simp] theorem State.noteMerged_jobs (j : Job) (c : Chan) (p : List Part) : (s.noteMerged j c p).jobs = s.jobs := rfl
@[simp] theorem State.noteMerged_seqCounter (j : Job) (c : Chan) (p : List Part) : (s.noteMerged j c p).seqCounter = s.seqCounter := rfl
@[simp] theorem State.noteMerged_day (j : Job) (c : Chan) (p : List Part) : (s.noteMerged j c p).day = s.day := rfl
@[simp] theorem State.noteMerged_rolls (j : Job) (c : Chan) (p : List Part) : (s.noteMerged j c p).rolls = s.rolls := rfl
@[simp] theorem State.noteMerged_media (j : Job) (c : Chan) (p : List Part) : (s.noteMerged j c p).media = s.media := rfl
@[simp] theorem State.noteMerged_check (j : Job) (c : Chan) (p : List Part) : (s.noteMerged j c p).check = s.check := rfl
@[simp] theorem State.noteMerged_editions (j : Job) (c : Chan) (p : List Part) : (s.noteMerged j c p).editions = s.editions := rfl
@[simp] theorem State.noteMerged_prices (j : Job) (c : Chan) (p : List Part) : (s.noteMerged j c p).prices = s.prices := rfl
@[simp] theorem State.noteMerged_pricesBad (j : Job) (c : Chan) (p : List Part) : (s.noteMerged j c p).pricesBad = s.pricesBad := rfl
@[simp] theorem State.noteMerged_stripMode (j : Job) (c : Chan) (p : List Part) : (s.noteMerged j c p).stripMode = s.stripMode := rfl
@[simp] theorem State.noteMerged_overhead (j : Job) (c : Chan) (p : List Part) : (s.noteMerged j c p).overhead = s.overhead := rfl
@[simp] theorem State.noteMerged_store (j : Job) (c : Chan) (p : List Part) : (s.noteMerged j c p).store = s.store := rfl
@[simp] theorem State.noteMerged_handling (j : Job) (c : Chan) (p : List Part) : (s.noteMerged j c p).handling = s.handling := rfl
@[simp] theorem State.noteMerged_out (j : Job) (c : Chan) (p : List Part) : (s.noteMerged j c p).out = s.out := rfl
@[simp] theorem State.noteMerged_fresh (j : Job) (c : Chan) (p : List Part) : (s.noteMerged j c p).fresh = s.fresh := rfl

/-! ### The store operations: only the store changes -/

/-- Handing the group of a commit point changes only the store. -/
theorem State.place_shape (n : Nat) (r : List Region) (ws : List Write) :
    s.place n r ws = { s with store := (s.place n r ws).store } := by unfold State.place; dsimp only; split <;> rfl

theorem State.placeFirst_shape (f : CommitPoint → Bool) :
    s.placeFirst f = { s with store := (s.placeFirst f).store } := by
  unfold State.placeFirst; split
  · rw [State.place_shape]
  · rfl

theorem State.placeThose_shape (f : CommitPoint → Bool) :
    s.placeThose f = { s with store := (s.placeThose f).store } := by
  unfold State.placeThose
  generalize s.store.behind = l
  induction l generalizing s with
  | nil => rfl
  | cons p l ih => rw [List.foldl_cons, ih (s.placeFirst f), s.placeFirst_shape f]

theorem State.overtake_shape (l : List RecKey) : s.overtake l = { s with store := (s.overtake l).store } :=
  State.placeThose_shape ..

/-- A commit point changes only the store. -/
theorem State.hand_shape (l : List RecKey) : s.hand l = { s with store := (s.hand l).store } := by
  unfold State.hand; dsimp only; rw [s.overtake_shape]; split
  · rw [State.place_shape]
  · rfl

@[simp] theorem State.hand_pending (l : List RecKey) : (s.hand l).pending = s.pending := by rw [s.hand_shape]
@[simp] theorem State.hand_phase (l : List RecKey) : (s.hand l).phase = s.phase := by rw [s.hand_shape]
@[simp] theorem State.hand_cause (l : List RecKey) : (s.hand l).cause = s.cause := by rw [s.hand_shape]
@[simp] theorem State.hand_pfail (l : List RecKey) : (s.hand l).pfail = s.pfail := by rw [s.hand_shape]
@[simp] theorem State.hand_port (l : List RecKey) : (s.hand l).port = s.port := by rw [s.hand_shape]
@[simp] theorem State.hand_notices (l : List RecKey) : (s.hand l).notices = s.notices := by rw [s.hand_shape]
@[simp] theorem State.hand_head (l : List RecKey) : (s.hand l).head = s.head := by rw [s.hand_shape]
@[simp] theorem State.hand_channels (l : List RecKey) : (s.hand l).channels = s.channels := by rw [s.hand_shape]
@[simp] theorem State.hand_lots (l : List RecKey) : (s.hand l).lots = s.lots := by rw [s.hand_shape]
@[simp] theorem State.hand_jobs (l : List RecKey) : (s.hand l).jobs = s.jobs := by rw [s.hand_shape]
@[simp] theorem State.hand_seqCounter (l : List RecKey) : (s.hand l).seqCounter = s.seqCounter := by rw [s.hand_shape]
@[simp] theorem State.hand_day (l : List RecKey) : (s.hand l).day = s.day := by rw [s.hand_shape]
@[simp] theorem State.hand_rolls (l : List RecKey) : (s.hand l).rolls = s.rolls := by rw [s.hand_shape]
@[simp] theorem State.hand_media (l : List RecKey) : (s.hand l).media = s.media := by rw [s.hand_shape]
@[simp] theorem State.hand_check (l : List RecKey) : (s.hand l).check = s.check := by rw [s.hand_shape]
@[simp] theorem State.hand_editions (l : List RecKey) : (s.hand l).editions = s.editions := by rw [s.hand_shape]
@[simp] theorem State.hand_prices (l : List RecKey) : (s.hand l).prices = s.prices := by rw [s.hand_shape]
@[simp] theorem State.hand_pricesBad (l : List RecKey) : (s.hand l).pricesBad = s.pricesBad := by rw [s.hand_shape]
@[simp] theorem State.hand_stripMode (l : List RecKey) : (s.hand l).stripMode = s.stripMode := by rw [s.hand_shape]
@[simp] theorem State.hand_overhead (l : List RecKey) : (s.hand l).overhead = s.overhead := by rw [s.hand_shape]
@[simp] theorem State.hand_merged (l : List RecKey) : (s.hand l).merged = s.merged := by rw [s.hand_shape]
@[simp] theorem State.hand_handling (l : List RecKey) : (s.hand l).handling = s.handling := by rw [s.hand_shape]
@[simp] theorem State.hand_out (l : List RecKey) : (s.hand l).out = s.out := by rw [s.hand_shape]
@[simp] theorem State.hand_fresh (l : List RecKey) : (s.hand l).fresh = s.fresh := by rw [s.hand_shape]
@[simp] theorem State.markDirty_pending (k : RecKey) : (s.markDirty k).pending = s.pending := by unfold State.markDirty; split <;> rfl
@[simp] theorem State.markDirty_phase (k : RecKey) : (s.markDirty k).phase = s.phase := by unfold State.markDirty; split <;> rfl
@[simp] theorem State.markDirty_cause (k : RecKey) : (s.markDirty k).cause = s.cause := by unfold State.markDirty; split <;> rfl
@[simp] theorem State.markDirty_pfail (k : RecKey) : (s.markDirty k).pfail = s.pfail := by unfold State.markDirty; split <;> rfl
@[simp] theorem State.markDirty_port (k : RecKey) : (s.markDirty k).port = s.port := by unfold State.markDirty; split <;> rfl
@[simp] theorem State.markDirty_notices (k : RecKey) : (s.markDirty k).notices = s.notices := by unfold State.markDirty; split <;> rfl
@[simp] theorem State.markDirty_head (k : RecKey) : (s.markDirty k).head = s.head := by unfold State.markDirty; split <;> rfl
@[simp] theorem State.markDirty_channels (k : RecKey) : (s.markDirty k).channels = s.channels := by unfold State.markDirty; split <;> rfl
@[simp] theorem State.markDirty_lots (k : RecKey) : (s.markDirty k).lots = s.lots := by unfold State.markDirty; split <;> rfl
@[simp] theorem State.markDirty_jobs (k : RecKey) : (s.markDirty k).jobs = s.jobs := by unfold State.markDirty; split <;> rfl
@[simp] theorem State.markDirty_seqCounter (k : RecKey) : (s.markDirty k).seqCounter = s.seqCounter := by unfold State.markDirty; split <;> rfl
@[simp] theorem State.markDirty_day (k : RecKey) : (s.markDirty k).day = s.day := by unfold State.markDirty; split <;> rfl
@[simp] theorem State.markDirty_rolls (k : RecKey) : (s.markDirty k).rolls = s.rolls := by unfold State.markDirty; split <;> rfl
@[simp] theorem State.markDirty_media (k : RecKey) : (s.markDirty k).media = s.media := by unfold State.markDirty; split <;> rfl
@[simp] theorem State.markDirty_check (k : RecKey) : (s.markDirty k).check = s.check := by unfold State.markDirty; split <;> rfl
@[simp] theorem State.markDirty_editions (k : RecKey) : (s.markDirty k).editions = s.editions := by unfold State.markDirty; split <;> rfl
@[simp] theorem State.markDirty_prices (k : RecKey) : (s.markDirty k).prices = s.prices := by unfold State.markDirty; split <;> rfl
@[simp] theorem State.markDirty_pricesBad (k : RecKey) : (s.markDirty k).pricesBad = s.pricesBad := by unfold State.markDirty; split <;> rfl
@[simp] theorem State.markDirty_stripMode (k : RecKey) : (s.markDirty k).stripMode = s.stripMode := by unfold State.markDirty; split <;> rfl
@[simp] theorem State.markDirty_overhead (k : RecKey) : (s.markDirty k).overhead = s.overhead := by unfold State.markDirty; split <;> rfl
@[simp] theorem State.markDirty_merged (k : RecKey) : (s.markDirty k).merged = s.merged := by unfold State.markDirty; split <;> rfl
@[simp] theorem State.markDirty_handling (k : RecKey) : (s.markDirty k).handling = s.handling := by unfold State.markDirty; split <;> rfl
@[simp] theorem State.markDirty_out (k : RecKey) : (s.markDirty k).out = s.out := by unfold State.markDirty; split <;> rfl
@[simp] theorem State.markDirty_fresh (k : RecKey) : (s.markDirty k).fresh = s.fresh := by unfold State.markDirty; split <;> rfl

/-! ### Commit points: only the store and the handling change -/

@[simp] theorem State.commit_pending (l : List RecKey) : (s.commit l).pending = s.pending := by unfold State.commit; split <;> simp
@[simp] theorem State.commit_phase (l : List RecKey) : (s.commit l).phase = s.phase := by unfold State.commit; split <;> simp
@[simp] theorem State.commit_cause (l : List RecKey) : (s.commit l).cause = s.cause := by unfold State.commit; split <;> simp
@[simp] theorem State.commit_pfail (l : List RecKey) : (s.commit l).pfail = s.pfail := by unfold State.commit; split <;> simp
@[simp] theorem State.commit_port (l : List RecKey) : (s.commit l).port = s.port := by unfold State.commit; split <;> simp
@[simp] theorem State.commit_notices (l : List RecKey) : (s.commit l).notices = s.notices := by unfold State.commit; split <;> simp
@[simp] theorem State.commit_head (l : List RecKey) : (s.commit l).head = s.head := by unfold State.commit; split <;> simp
@[simp] theorem State.commit_channels (l : List RecKey) : (s.commit l).channels = s.channels := by unfold State.commit; split <;> simp
@[simp] theorem State.commit_lots (l : List RecKey) : (s.commit l).lots = s.lots := by unfold State.commit; split <;> simp
@[simp] theorem State.commit_jobs (l : List RecKey) : (s.commit l).jobs = s.jobs := by unfold State.commit; split <;> simp
@[simp] theorem State.commit_seqCounter (l : List RecKey) : (s.commit l).seqCounter = s.seqCounter := by unfold State.commit; split <;> simp
@[simp] theorem State.commit_day (l : List RecKey) : (s.commit l).day = s.day := by unfold State.commit; split <;> simp
@[simp] theorem State.commit_rolls (l : List RecKey) : (s.commit l).rolls = s.rolls := by unfold State.commit; split <;> simp
@[simp] theorem State.commit_media (l : List RecKey) : (s.commit l).media = s.media := by unfold State.commit; split <;> simp
@[simp] theorem State.commit_check (l : List RecKey) : (s.commit l).check = s.check := by unfold State.commit; split <;> simp
@[simp] theorem State.commit_editions (l : List RecKey) : (s.commit l).editions = s.editions := by unfold State.commit; split <;> simp
@[simp] theorem State.commit_prices (l : List RecKey) : (s.commit l).prices = s.prices := by unfold State.commit; split <;> simp
@[simp] theorem State.commit_pricesBad (l : List RecKey) : (s.commit l).pricesBad = s.pricesBad := by unfold State.commit; split <;> simp
@[simp] theorem State.commit_stripMode (l : List RecKey) : (s.commit l).stripMode = s.stripMode := by unfold State.commit; split <;> simp
@[simp] theorem State.commit_overhead (l : List RecKey) : (s.commit l).overhead = s.overhead := by unfold State.commit; split <;> simp
@[simp] theorem State.commit_merged (l : List RecKey) : (s.commit l).merged = s.merged := by unfold State.commit; split <;> simp
@[simp] theorem State.commit_out (l : List RecKey) : (s.commit l).out = s.out := by unfold State.commit; split <;> simp
@[simp] theorem State.commit_fresh (l : List RecKey) : (s.commit l).fresh = s.fresh := by unfold State.commit; split <;> simp
@[simp] theorem State.commitRest_pending (l : List RecKey) : (s.commitRest l).pending = s.pending := by unfold State.commitRest; split <;> simp
@[simp] theorem State.commitRest_phase (l : List RecKey) : (s.commitRest l).phase = s.phase := by unfold State.commitRest; split <;> simp
@[simp] theorem State.commitRest_cause (l : List RecKey) : (s.commitRest l).cause = s.cause := by unfold State.commitRest; split <;> simp
@[simp] theorem State.commitRest_pfail (l : List RecKey) : (s.commitRest l).pfail = s.pfail := by unfold State.commitRest; split <;> simp
@[simp] theorem State.commitRest_port (l : List RecKey) : (s.commitRest l).port = s.port := by unfold State.commitRest; split <;> simp
@[simp] theorem State.commitRest_notices (l : List RecKey) : (s.commitRest l).notices = s.notices := by unfold State.commitRest; split <;> simp
@[simp] theorem State.commitRest_head (l : List RecKey) : (s.commitRest l).head = s.head := by unfold State.commitRest; split <;> simp
@[simp] theorem State.commitRest_channels (l : List RecKey) : (s.commitRest l).channels = s.channels := by unfold State.commitRest; split <;> simp
@[simp] theorem State.commitRest_lots (l : List RecKey) : (s.commitRest l).lots = s.lots := by unfold State.commitRest; split <;> simp
@[simp] theorem State.commitRest_jobs (l : List RecKey) : (s.commitRest l).jobs = s.jobs := by unfold State.commitRest; split <;> simp
@[simp] theorem State.commitRest_seqCounter (l : List RecKey) : (s.commitRest l).seqCounter = s.seqCounter := by unfold State.commitRest; split <;> simp
@[simp] theorem State.commitRest_day (l : List RecKey) : (s.commitRest l).day = s.day := by unfold State.commitRest; split <;> simp
@[simp] theorem State.commitRest_rolls (l : List RecKey) : (s.commitRest l).rolls = s.rolls := by unfold State.commitRest; split <;> simp
@[simp] theorem State.commitRest_media (l : List RecKey) : (s.commitRest l).media = s.media := by unfold State.commitRest; split <;> simp
@[simp] theorem State.commitRest_check (l : List RecKey) : (s.commitRest l).check = s.check := by unfold State.commitRest; split <;> simp
@[simp] theorem State.commitRest_editions (l : List RecKey) : (s.commitRest l).editions = s.editions := by unfold State.commitRest; split <;> simp
@[simp] theorem State.commitRest_prices (l : List RecKey) : (s.commitRest l).prices = s.prices := by unfold State.commitRest; split <;> simp
@[simp] theorem State.commitRest_pricesBad (l : List RecKey) : (s.commitRest l).pricesBad = s.pricesBad := by unfold State.commitRest; split <;> simp
@[simp] theorem State.commitRest_stripMode (l : List RecKey) : (s.commitRest l).stripMode = s.stripMode := by unfold State.commitRest; split <;> simp
@[simp] theorem State.commitRest_overhead (l : List RecKey) : (s.commitRest l).overhead = s.overhead := by unfold State.commitRest; split <;> simp
@[simp] theorem State.commitRest_merged (l : List RecKey) : (s.commitRest l).merged = s.merged := by unfold State.commitRest; split <;> simp
@[simp] theorem State.commitRest_out (l : List RecKey) : (s.commitRest l).out = s.out := by unfold State.commitRest; split <;> simp
@[simp] theorem State.commitRest_fresh (l : List RecKey) : (s.commitRest l).fresh = s.fresh := by unfold State.commitRest; split <;> simp
@[simp] theorem State.gather_pending : s.gather.pending = s.pending := rfl
@[simp] theorem State.gather_phase : s.gather.phase = s.phase := rfl
@[simp] theorem State.gather_cause : s.gather.cause = s.cause := rfl
@[simp] theorem State.gather_pfail : s.gather.pfail = s.pfail := rfl
@[simp] theorem State.gather_port : s.gather.port = s.port := rfl
@[simp] theorem State.gather_notices : s.gather.notices = s.notices := rfl
@[simp] theorem State.gather_head : s.gather.head = s.head := rfl
@[simp] theorem State.gather_channels : s.gather.channels = s.channels := rfl
@[simp] theorem State.gather_lots : s.gather.lots = s.lots := rfl
@[simp] theorem State.gather_jobs : s.gather.jobs = s.jobs := rfl
@[simp] theorem State.gather_seqCounter : s.gather.seqCounter = s.seqCounter := rfl
@[simp] theorem State.gather_day : s.gather.day = s.day := rfl
@[simp] theorem State.gather_rolls : s.gather.rolls = s.rolls := rfl
@[simp] theorem State.gather_media : s.gather.media = s.media := rfl
@[simp] theorem State.gather_check : s.gather.check = s.check := rfl
@[simp] theorem State.gather_editions : s.gather.editions = s.editions := rfl
@[simp] theorem State.gather_prices : s.gather.prices = s.prices := rfl
@[simp] theorem State.gather_pricesBad : s.gather.pricesBad = s.pricesBad := rfl
@[simp] theorem State.gather_stripMode : s.gather.stripMode = s.stripMode := rfl
@[simp] theorem State.gather_overhead : s.gather.overhead = s.overhead := rfl
@[simp] theorem State.gather_merged : s.gather.merged = s.merged := rfl
@[simp] theorem State.gather_store : s.gather.store = s.store := rfl
@[simp] theorem State.gather_out : s.gather.out = s.out := rfl
@[simp] theorem State.gather_fresh : s.gather.fresh = s.fresh := rfl
@[simp] theorem State.beginHandling_pending : s.beginHandling.pending = s.pending := rfl
@[simp] theorem State.beginHandling_phase : s.beginHandling.phase = s.phase := rfl
@[simp] theorem State.beginHandling_cause : s.beginHandling.cause = s.cause := rfl
@[simp] theorem State.beginHandling_pfail : s.beginHandling.pfail = s.pfail := rfl
@[simp] theorem State.beginHandling_port : s.beginHandling.port = s.port := rfl
@[simp] theorem State.beginHandling_notices : s.beginHandling.notices = s.notices := rfl
@[simp] theorem State.beginHandling_head : s.beginHandling.head = s.head := rfl
@[simp] theorem State.beginHandling_channels : s.beginHandling.channels = s.channels := rfl
@[simp] theorem State.beginHandling_lots : s.beginHandling.lots = s.lots := rfl
@[simp] theorem State.beginHandling_jobs : s.beginHandling.jobs = s.jobs := rfl
@[simp] theorem State.beginHandling_seqCounter : s.beginHandling.seqCounter = s.seqCounter := rfl
@[simp] theorem State.beginHandling_day : s.beginHandling.day = s.day := rfl
@[simp] theorem State.beginHandling_rolls : s.beginHandling.rolls = s.rolls := rfl
@[simp] theorem State.beginHandling_media : s.beginHandling.media = s.media := rfl
@[simp] theorem State.beginHandling_check : s.beginHandling.check = s.check := rfl
@[simp] theorem State.beginHandling_editions : s.beginHandling.editions = s.editions := rfl
@[simp] theorem State.beginHandling_prices : s.beginHandling.prices = s.prices := rfl
@[simp] theorem State.beginHandling_pricesBad : s.beginHandling.pricesBad = s.pricesBad := rfl
@[simp] theorem State.beginHandling_stripMode : s.beginHandling.stripMode = s.stripMode := rfl
@[simp] theorem State.beginHandling_overhead : s.beginHandling.overhead = s.overhead := rfl
@[simp] theorem State.beginHandling_merged : s.beginHandling.merged = s.merged := rfl
@[simp] theorem State.beginHandling_store : s.beginHandling.store = s.store := rfl
@[simp] theorem State.beginHandling_out : s.beginHandling.out = s.out := rfl
@[simp] theorem State.beginHandling_fresh : s.beginHandling.fresh = s.fresh := rfl
@[simp] theorem State.endHandling_pending (h : Handling) : (s.endHandling h).pending = s.pending := rfl
@[simp] theorem State.endHandling_phase (h : Handling) : (s.endHandling h).phase = s.phase := rfl
@[simp] theorem State.endHandling_cause (h : Handling) : (s.endHandling h).cause = s.cause := rfl
@[simp] theorem State.endHandling_pfail (h : Handling) : (s.endHandling h).pfail = s.pfail := rfl
@[simp] theorem State.endHandling_port (h : Handling) : (s.endHandling h).port = s.port := rfl
@[simp] theorem State.endHandling_notices (h : Handling) : (s.endHandling h).notices = s.notices := rfl
@[simp] theorem State.endHandling_head (h : Handling) : (s.endHandling h).head = s.head := rfl
@[simp] theorem State.endHandling_channels (h : Handling) : (s.endHandling h).channels = s.channels := rfl
@[simp] theorem State.endHandling_lots (h : Handling) : (s.endHandling h).lots = s.lots := rfl
@[simp] theorem State.endHandling_jobs (h : Handling) : (s.endHandling h).jobs = s.jobs := rfl
@[simp] theorem State.endHandling_seqCounter (h : Handling) : (s.endHandling h).seqCounter = s.seqCounter := rfl
@[simp] theorem State.endHandling_day (h : Handling) : (s.endHandling h).day = s.day := rfl
@[simp] theorem State.endHandling_rolls (h : Handling) : (s.endHandling h).rolls = s.rolls := rfl
@[simp] theorem State.endHandling_media (h : Handling) : (s.endHandling h).media = s.media := rfl
@[simp] theorem State.endHandling_check (h : Handling) : (s.endHandling h).check = s.check := rfl
@[simp] theorem State.endHandling_editions (h : Handling) : (s.endHandling h).editions = s.editions := rfl
@[simp] theorem State.endHandling_prices (h : Handling) : (s.endHandling h).prices = s.prices := rfl
@[simp] theorem State.endHandling_pricesBad (h : Handling) : (s.endHandling h).pricesBad = s.pricesBad := rfl
@[simp] theorem State.endHandling_stripMode (h : Handling) : (s.endHandling h).stripMode = s.stripMode := rfl
@[simp] theorem State.endHandling_overhead (h : Handling) : (s.endHandling h).overhead = s.overhead := rfl
@[simp] theorem State.endHandling_merged (h : Handling) : (s.endHandling h).merged = s.merged := rfl
@[simp] theorem State.endHandling_store (h : Handling) : (s.endHandling h).store = s.store := rfl
@[simp] theorem State.endHandling_handling (h : Handling) : (s.endHandling h).handling = h := rfl
@[simp] theorem State.endHandling_out (h : Handling) : (s.endHandling h).out = s.out := rfl
@[simp] theorem State.endHandling_fresh (h : Handling) : (s.endHandling h).fresh = s.fresh := rfl
@[simp] theorem State.gather_handling : s.gather.handling = { s.handling with gathered := some {} } := rfl
@[simp] theorem State.beginHandling_handling : s.beginHandling.handling = { since := some s.store.called } := rfl

/-- Several commit points leave everything but the store and the handling as it was. -/
theorem State.commits_shape (l : List (List RecKey)) :
    l.foldl State.commit s =
      { s with store := (l.foldl State.commit s).store, handling := (l.foldl State.commit s).handling } := by
  induction l generalizing s with
  | nil => rfl
  | cons a l ih =>
    have h : s.commit a = { s with store := (s.commit a).store, handling := (s.commit a).handling } := by
      unfold State.commit; split
      · rfl
      · rw [s.hand_shape]
    rw [List.foldl_cons, ih (s.commit a), h]

/-- Several notices leave everything but the notice queue as it was. -/
theorem State.raises_shape (l : List (Subject × Detail)) :
    l.foldl (fun s n => s.raise n.1 n.2) s = { s with notices := (l.foldl (fun s n => s.raise n.1 n.2) s).notices } := by
  induction l generalizing s with
  | nil => rfl
  | cons a l ih => rw [List.foldl_cons, ih (s.raise a.1 a.2)]; rfl

/-- Making the gathered commit points leaves everything but the store, the handling and the notice queue as it was. -/
theorem State.handGathered_shape :
    s.handGathered =
      { s with store := s.handGathered.store, handling := s.handGathered.handling, notices := s.handGathered.notices } := by
  unfold State.handGathered; dsimp only; rw [State.raises_shape, State.commits_shape]

@[simp] theorem State.handGathered_pending : s.handGathered.pending = s.pending := by rw [s.handGathered_shape]
@[simp] theorem State.handGathered_phase : s.handGathered.phase = s.phase := by rw [s.handGathered_shape]
@[simp] theorem State.handGathered_cause : s.handGathered.cause = s.cause := by rw [s.handGathered_shape]
@[simp] theorem State.handGathered_pfail : s.handGathered.pfail = s.pfail := by rw [s.handGathered_shape]
@[simp] theorem State.handGathered_port : s.handGathered.port = s.port := by rw [s.handGathered_shape]
@[simp] theorem State.handGathered_head : s.handGathered.head = s.head := by rw [s.handGathered_shape]
@[simp] theorem State.handGathered_channels : s.handGathered.channels = s.channels := by rw [s.handGathered_shape]
@[simp] theorem State.handGathered_lots : s.handGathered.lots = s.lots := by rw [s.handGathered_shape]
@[simp] theorem State.handGathered_jobs : s.handGathered.jobs = s.jobs := by rw [s.handGathered_shape]
@[simp] theorem State.handGathered_seqCounter : s.handGathered.seqCounter = s.seqCounter := by rw [s.handGathered_shape]
@[simp] theorem State.handGathered_day : s.handGathered.day = s.day := by rw [s.handGathered_shape]
@[simp] theorem State.handGathered_rolls : s.handGathered.rolls = s.rolls := by rw [s.handGathered_shape]
@[simp] theorem State.handGathered_media : s.handGathered.media = s.media := by rw [s.handGathered_shape]
@[simp] theorem State.handGathered_check : s.handGathered.check = s.check := by rw [s.handGathered_shape]
@[simp] theorem State.handGathered_editions : s.handGathered.editions = s.editions := by rw [s.handGathered_shape]
@[simp] theorem State.handGathered_prices : s.handGathered.prices = s.prices := by rw [s.handGathered_shape]
@[simp] theorem State.handGathered_pricesBad : s.handGathered.pricesBad = s.pricesBad := by rw [s.handGathered_shape]
@[simp] theorem State.handGathered_stripMode : s.handGathered.stripMode = s.stripMode := by rw [s.handGathered_shape]
@[simp] theorem State.handGathered_overhead : s.handGathered.overhead = s.overhead := by rw [s.handGathered_shape]
@[simp] theorem State.handGathered_merged : s.handGathered.merged = s.merged := by rw [s.handGathered_shape]
@[simp] theorem State.handGathered_out : s.handGathered.out = s.out := by rw [s.handGathered_shape]
@[simp] theorem State.handGathered_fresh : s.handGathered.fresh = s.fresh := by rw [s.handGathered_shape]

/-! ### raiseBehind and freeNotices -/

@[simp] theorem State.raiseBehind_pending (u : Subject) (d : Detail) : (s.raiseBehind u d).pending = s.pending := by unfold State.raiseBehind; split <;> rfl
@[simp] theorem State.raiseBehind_phase (u : Subject) (d : Detail) : (s.raiseBehind u d).phase = s.phase := by unfold State.raiseBehind; split <;> rfl
@[simp] theorem State.raiseBehind_cause (u : Subject) (d : Detail) : (s.raiseBehind u d).cause = s.cause := by unfold State.raiseBehind; split <;> rfl
@[simp] theorem State.raiseBehind_pfail (u : Subject) (d : Detail) : (s.raiseBehind u d).pfail = s.pfail := by unfold State.raiseBehind; split <;> rfl
@[simp] theorem State.raiseBehind_port (u : Subject) (d : Detail) : (s.raiseBehind u d).port = s.port := by unfold State.raiseBehind; split <;> rfl
@[simp] theorem State.raiseBehind_head (u : Subject) (d : Detail) : (s.raiseBehind u d).head = s.head := by unfold State.raiseBehind; split <;> rfl
@[simp] theorem State.raiseBehind_channels (u : Subject) (d : Detail) : (s.raiseBehind u d).channels = s.channels := by unfold State.raiseBehind; split <;> rfl
@[simp] theorem State.raiseBehind_lots (u : Subject) (d : Detail) : (s.raiseBehind u d).lots = s.lots := by unfold State.raiseBehind; split <;> rfl
@[simp] theorem State.raiseBehind_jobs (u : Subject) (d : Detail) : (s.raiseBehind u d).jobs = s.jobs := by unfold State.raiseBehind; split <;> rfl
@[simp] theorem State.raiseBehind_seqCounter (u : Subject) (d : Detail) : (s.raiseBehind u d).seqCounter = s.seqCounter := by unfold State.raiseBehind; split <;> rfl
@[simp] theorem State.raiseBehind_day (u : Subject) (d : Detail) : (s.raiseBehind u d).day = s.day := by unfold State.raiseBehind; split <;> rfl
@[simp] theorem State.raiseBehind_rolls (u : Subject) (d : Detail) : (s.raiseBehind u d).rolls = s.rolls := by unfold State.raiseBehind; split <;> rfl
@[simp] theorem State.raiseBehind_media (u : Subject) (d : Detail) : (s.raiseBehind u d).media = s.media := by unfold State.raiseBehind; split <;> rfl
@[simp] theorem State.raiseBehind_check (u : Subject) (d : Detail) : (s.raiseBehind u d).check = s.check := by unfold State.raiseBehind; split <;> rfl
@[simp] theorem State.raiseBehind_editions (u : Subject) (d : Detail) : (s.raiseBehind u d).editions = s.editions := by unfold State.raiseBehind; split <;> rfl
@[simp] theorem State.raiseBehind_prices (u : Subject) (d : Detail) : (s.raiseBehind u d).prices = s.prices := by unfold State.raiseBehind; split <;> rfl
@[simp] theorem State.raiseBehind_pricesBad (u : Subject) (d : Detail) : (s.raiseBehind u d).pricesBad = s.pricesBad := by unfold State.raiseBehind; split <;> rfl
@[simp] theorem State.raiseBehind_stripMode (u : Subject) (d : Detail) : (s.raiseBehind u d).stripMode = s.stripMode := by unfold State.raiseBehind; split <;> rfl
@[simp] theorem State.raiseBehind_overhead (u : Subject) (d : Detail) : (s.raiseBehind u d).overhead = s.overhead := by unfold State.raiseBehind; split <;> rfl
@[simp] theorem State.raiseBehind_merged (u : Subject) (d : Detail) : (s.raiseBehind u d).merged = s.merged := by unfold State.raiseBehind; split <;> rfl
@[simp] theorem State.raiseBehind_store (u : Subject) (d : Detail) : (s.raiseBehind u d).store = s.store := by unfold State.raiseBehind; split <;> rfl
@[simp] theorem State.raiseBehind_out (u : Subject) (d : Detail) : (s.raiseBehind u d).out = s.out := by unfold State.raiseBehind; split <;> rfl
@[simp] theorem State.raiseBehind_fresh (u : Subject) (d : Detail) : (s.raiseBehind u d).fresh = s.fresh := by unfold State.raiseBehind; split <;> rfl
@[simp] theorem State.freeNotices_pending (l : List Nat) : (s.freeNotices l).pending = s.pending := rfl
@[simp] theorem State.freeNotices_phase (l : List Nat) : (s.freeNotices l).phase = s.phase := rfl
@[simp] theorem State.freeNotices_cause (l : List Nat) : (s.freeNotices l).cause = s.cause := rfl
@[simp] theorem State.freeNotices_pfail (l : List Nat) : (s.freeNotices l).pfail = s.pfail := rfl
@[simp] theorem State.freeNotices_port (l : List Nat) : (s.freeNotices l).port = s.port := rfl
@[simp] theorem State.freeNotices_notices (l : List Nat) : (s.freeNotices l).notices = s.notices.release l := rfl
@[simp] theorem State.freeNotices_head (l : List Nat) : (s.freeNotices l).head = s.head := rfl
@[simp] theorem State.freeNotices_channels (l : List Nat) : (s.freeNotices l).channels = s.channels := rfl
@[simp] theorem State.freeNotices_lots (l : List Nat) : (s.freeNotices l).lots = s.lots := rfl
@[simp] theorem State.freeNotices_jobs (l : List Nat) : (s.freeNotices l).jobs = s.jobs := rfl
@[simp] theorem State.freeNotices_seqCounter (l : List Nat) : (s.freeNotices l).seqCounter = s.seqCounter := rfl
@[simp] theorem State.freeNotices_day (l : List Nat) : (s.freeNotices l).day = s.day := rfl
@[simp] theorem State.freeNotices_rolls (l : List Nat) : (s.freeNotices l).rolls = s.rolls := rfl
@[simp] theorem State.freeNotices_media (l : List Nat) : (s.freeNotices l).media = s.media := rfl
@[simp] theorem State.freeNotices_check (l : List Nat) : (s.freeNotices l).check = s.check := rfl
@[simp] theorem State.freeNotices_editions (l : List Nat) : (s.freeNotices l).editions = s.editions := rfl
@[simp] theorem State.freeNotices_prices (l : List Nat) : (s.freeNotices l).prices = s.prices := rfl
@[simp] theorem State.freeNotices_pricesBad (l : List Nat) : (s.freeNotices l).pricesBad = s.pricesBad := rfl
@[simp] theorem State.freeNotices_stripMode (l : List Nat) : (s.freeNotices l).stripMode = s.stripMode := rfl
@[simp] theorem State.freeNotices_overhead (l : List Nat) : (s.freeNotices l).overhead = s.overhead := rfl
@[simp] theorem State.freeNotices_merged (l : List Nat) : (s.freeNotices l).merged = s.merged := rfl
@[simp] theorem State.freeNotices_store (l : List Nat) : (s.freeNotices l).store = s.store := rfl
@[simp] theorem State.freeNotices_handling (l : List Nat) : (s.freeNotices l).handling = s.handling := rfl
@[simp] theorem State.freeNotices_out (l : List Nat) : (s.freeNotices l).out = s.out := rfl
@[simp] theorem State.freeNotices_fresh (l : List Nat) : (s.freeNotices l).fresh = s.fresh := rfl

/-! ### moveInk: only reserved totals change -/

@[simp] theorem State.moveInk_pending (v w : Vec12) : (s.moveInk v w).pending = s.pending := rfl
@[simp] theorem State.moveInk_phase (v w : Vec12) : (s.moveInk v w).phase = s.phase := rfl
@[simp] theorem State.moveInk_cause (v w : Vec12) : (s.moveInk v w).cause = s.cause := rfl
@[simp] theorem State.moveInk_pfail (v w : Vec12) : (s.moveInk v w).pfail = s.pfail := rfl
@[simp] theorem State.moveInk_port (v w : Vec12) : (s.moveInk v w).port = s.port := rfl
@[simp] theorem State.moveInk_notices (v w : Vec12) : (s.moveInk v w).notices = s.notices := rfl
@[simp] theorem State.moveInk_head (v w : Vec12) : (s.moveInk v w).head = s.head := rfl
@[simp] theorem State.moveInk_lots (v w : Vec12) : (s.moveInk v w).lots = s.lots := rfl
@[simp] theorem State.moveInk_jobs (v w : Vec12) : (s.moveInk v w).jobs = s.jobs := rfl
@[simp] theorem State.moveInk_seqCounter (v w : Vec12) : (s.moveInk v w).seqCounter = s.seqCounter := rfl
@[simp] theorem State.moveInk_day (v w : Vec12) : (s.moveInk v w).day = s.day := rfl
@[simp] theorem State.moveInk_rolls (v w : Vec12) : (s.moveInk v w).rolls = s.rolls := rfl
@[simp] theorem State.moveInk_media (v w : Vec12) : (s.moveInk v w).media = s.media := rfl
@[simp] theorem State.moveInk_check (v w : Vec12) : (s.moveInk v w).check = s.check := rfl
@[simp] theorem State.moveInk_editions (v w : Vec12) : (s.moveInk v w).editions = s.editions := rfl
@[simp] theorem State.moveInk_prices (v w : Vec12) : (s.moveInk v w).prices = s.prices := rfl
@[simp] theorem State.moveInk_pricesBad (v w : Vec12) : (s.moveInk v w).pricesBad = s.pricesBad := rfl
@[simp] theorem State.moveInk_stripMode (v w : Vec12) : (s.moveInk v w).stripMode = s.stripMode := rfl
@[simp] theorem State.moveInk_overhead (v w : Vec12) : (s.moveInk v w).overhead = s.overhead := rfl
@[simp] theorem State.moveInk_merged (v w : Vec12) : (s.moveInk v w).merged = s.merged := rfl
@[simp] theorem State.moveInk_store (v w : Vec12) : (s.moveInk v w).store = s.store := rfl
@[simp] theorem State.moveInk_handling (v w : Vec12) : (s.moveInk v w).handling = s.handling := rfl
@[simp] theorem State.moveInk_out (v w : Vec12) : (s.moveInk v w).out = s.out := rfl
@[simp] theorem State.moveInk_fresh (v w : Vec12) : (s.moveInk v w).fresh = s.fresh := rfl

/-! ### respond and dropFrame: only the port changes -/

@[simp] theorem State.respond_pending (c n : Nat) (x : Status) (b : Body) : (s.respond c n x b).pending = s.pending := rfl
@[simp] theorem State.dropFrame_pending : s.dropFrame.pending = s.pending := rfl
@[simp] theorem State.respond_phase (c n : Nat) (x : Status) (b : Body) : (s.respond c n x b).phase = s.phase := rfl
@[simp] theorem State.dropFrame_phase : s.dropFrame.phase = s.phase := rfl
@[simp] theorem State.respond_cause (c n : Nat) (x : Status) (b : Body) : (s.respond c n x b).cause = s.cause := rfl
@[simp] theorem State.dropFrame_cause : s.dropFrame.cause = s.cause := rfl
@[simp] theorem State.respond_pfail (c n : Nat) (x : Status) (b : Body) : (s.respond c n x b).pfail = s.pfail := rfl
@[simp] theorem State.dropFrame_pfail : s.dropFrame.pfail = s.pfail := rfl
@[simp] theorem State.respond_notices (c n : Nat) (x : Status) (b : Body) : (s.respond c n x b).notices = s.notices := rfl
@[simp] theorem State.dropFrame_notices : s.dropFrame.notices = s.notices := rfl
@[simp] theorem State.respond_head (c n : Nat) (x : Status) (b : Body) : (s.respond c n x b).head = s.head := rfl
@[simp] theorem State.dropFrame_head : s.dropFrame.head = s.head := rfl
@[simp] theorem State.respond_channels (c n : Nat) (x : Status) (b : Body) : (s.respond c n x b).channels = s.channels := rfl
@[simp] theorem State.dropFrame_channels : s.dropFrame.channels = s.channels := rfl
@[simp] theorem State.respond_lots (c n : Nat) (x : Status) (b : Body) : (s.respond c n x b).lots = s.lots := rfl
@[simp] theorem State.dropFrame_lots : s.dropFrame.lots = s.lots := rfl
@[simp] theorem State.respond_jobs (c n : Nat) (x : Status) (b : Body) : (s.respond c n x b).jobs = s.jobs := rfl
@[simp] theorem State.dropFrame_jobs : s.dropFrame.jobs = s.jobs := rfl
@[simp] theorem State.respond_seqCounter (c n : Nat) (x : Status) (b : Body) : (s.respond c n x b).seqCounter = s.seqCounter := rfl
@[simp] theorem State.dropFrame_seqCounter : s.dropFrame.seqCounter = s.seqCounter := rfl
@[simp] theorem State.respond_day (c n : Nat) (x : Status) (b : Body) : (s.respond c n x b).day = s.day := rfl
@[simp] theorem State.dropFrame_day : s.dropFrame.day = s.day := rfl
@[simp] theorem State.respond_rolls (c n : Nat) (x : Status) (b : Body) : (s.respond c n x b).rolls = s.rolls := rfl
@[simp] theorem State.dropFrame_rolls : s.dropFrame.rolls = s.rolls := rfl
@[simp] theorem State.respond_media (c n : Nat) (x : Status) (b : Body) : (s.respond c n x b).media = s.media := rfl
@[simp] theorem State.dropFrame_media : s.dropFrame.media = s.media := rfl
@[simp] theorem State.respond_check (c n : Nat) (x : Status) (b : Body) : (s.respond c n x b).check = s.check := rfl
@[simp] theorem State.dropFrame_check : s.dropFrame.check = s.check := rfl
@[simp] theorem State.respond_editions (c n : Nat) (x : Status) (b : Body) : (s.respond c n x b).editions = s.editions := rfl
@[simp] theorem State.dropFrame_editions : s.dropFrame.editions = s.editions := rfl
@[simp] theorem State.respond_prices (c n : Nat) (x : Status) (b : Body) : (s.respond c n x b).prices = s.prices := rfl
@[simp] theorem State.dropFrame_prices : s.dropFrame.prices = s.prices := rfl
@[simp] theorem State.respond_pricesBad (c n : Nat) (x : Status) (b : Body) : (s.respond c n x b).pricesBad = s.pricesBad := rfl
@[simp] theorem State.dropFrame_pricesBad : s.dropFrame.pricesBad = s.pricesBad := rfl
@[simp] theorem State.respond_stripMode (c n : Nat) (x : Status) (b : Body) : (s.respond c n x b).stripMode = s.stripMode := rfl
@[simp] theorem State.dropFrame_stripMode : s.dropFrame.stripMode = s.stripMode := rfl
@[simp] theorem State.respond_overhead (c n : Nat) (x : Status) (b : Body) : (s.respond c n x b).overhead = s.overhead := rfl
@[simp] theorem State.dropFrame_overhead : s.dropFrame.overhead = s.overhead := rfl
@[simp] theorem State.respond_merged (c n : Nat) (x : Status) (b : Body) : (s.respond c n x b).merged = s.merged := rfl
@[simp] theorem State.dropFrame_merged : s.dropFrame.merged = s.merged := rfl
@[simp] theorem State.respond_store (c n : Nat) (x : Status) (b : Body) : (s.respond c n x b).store = s.store := rfl
@[simp] theorem State.dropFrame_store : s.dropFrame.store = s.store := rfl
@[simp] theorem State.respond_handling (c n : Nat) (x : Status) (b : Body) : (s.respond c n x b).handling = s.handling := rfl
@[simp] theorem State.dropFrame_handling : s.dropFrame.handling = s.handling := rfl
@[simp] theorem State.respond_out (c n : Nat) (x : Status) (b : Body) : (s.respond c n x b).out = s.out := rfl
@[simp] theorem State.dropFrame_out : s.dropFrame.out = s.out := rfl
@[simp] theorem State.respond_fresh (c n : Nat) (x : Status) (b : Body) : (s.respond c n x b).fresh = s.fresh := rfl
@[simp] theorem State.dropFrame_fresh : s.dropFrame.fresh = s.fresh := rfl

end Sys2Proof.Machine
end

