-- ==== Sys2Proof/Laws/Tables.lean ====
section
/-!
SUPPORT. What the tables of the part do: a table kept in ascending key order stays so under every write and removal, and a
lookup finds what was written.
-/

namespace Sys2Proof.Machine

section
variable {α : Type} {key : α → Nat}

/-- The records of a table after a write are the one written and records that stood before. -/
theorem mem_insertBy {x y : α} {l : List α} (h : y ∈ insertBy key x l) : y = x ∨ y ∈ l := by
  induction l with
  | nil => simpa [insertBy] using h
  | cons a l ih =>
    unfold insertBy at h
    split at h
    · simpa using h
    · split at h
      · rcases List.mem_cons.mp h with h | h
        · exact .inl h
        · exact .inr (List.mem_cons_of_mem _ h)
      · rcases List.mem_cons.mp h with h | h
        · exact .inr (h ▸ List.mem_cons_self)
        · rcases ih h with h | h
          · exact .inl h
          · exact .inr (List.mem_cons_of_mem _ h)

/-- A write keeps the order of a table. -/
theorem insertBy_ordered {x : α} {l : List α} (h : ordered key l) : ordered key (insertBy key x l) := by
  induction l with
  | nil => simp [insertBy, ordered]
  | cons a l ih =>
    obtain ⟨ha, hl⟩ := List.pairwise_cons.mp h
    unfold insertBy
    split
    · rename_i hx
      refine List.pairwise_cons.mpr ⟨fun y hy => ?_, h⟩
      rcases List.mem_cons.mp hy with rfl | hy
      · exact hx
      · exact hx.trans (ha y hy)
    · split
      · rename_i hx
        exact List.pairwise_cons.mpr ⟨fun y hy => hx ▸ ha y hy, hl⟩
      · refine List.pairwise_cons.mpr ⟨fun y hy => ?_, ih hl⟩
        rcases mem_insertBy hy with rfl | hy
        · omega
        · exact ha y hy

/-- A removal keeps the order of a table. -/
theorem removeBy_ordered {k : Nat} {l : List α} (h : ordered key l) : ordered key (removeBy key k l) := h.filter _

/-- After a write, the lookup of the key written finds the record. -/
theorem find_insertBy_self {x : α} {l : List α} (h : ordered key l) :
    (insertBy key x l).find? (fun y => key y == key x) = some x := by
  induction l with
  | nil => simp [insertBy]
  | cons a l ih =>
    obtain ⟨_, hl⟩ := List.pairwise_cons.mp h
    unfold insertBy
    split
    · simp
    · split
      · simp
      · rename_i h1 h2
        have : ¬ key a = key x := fun e => h2 e.symm
        simp [this, ih hl]

/-- After a write, the lookup of another key finds what it found before. -/
theorem find_insertBy_ne {x : α} {l : List α} {k : Nat} (h : k ≠ key x) :
    (insertBy key x l).find? (fun y => key y == k) = l.find? (fun y => key y == k) := by
  have hx : ¬ key x = k := fun e => h e.symm
  induction l with
  | nil => simp [insertBy, hx]
  | cons a l ih =>
    unfold insertBy
    split
    · simp [hx]
    · split
      · rename_i e
        have : ¬ key a = k := fun e' => hx (e.trans e')
        simp [hx, this]
      · by_cases ha : key a = k <;> simp [ha, ih]

/-- After a removal, the lookup of the key removed finds nothing. -/
theorem find_removeBy_self {l : List α} {k : Nat} : (removeBy key k l).find? (fun y => key y == k) = none := by
  simp [removeBy, List.find?_eq_none]

/-- After a removal, the lookup of another key finds what it found before. -/
theorem find_removeBy_ne {l : List α} {k n : Nat} (h : k ≠ n) :
    (removeBy key n l).find? (fun y => key y == k) = l.find? (fun y => key y == k) := by
  unfold removeBy
  induction l with
  | nil => rfl
  | cons a l ih =>
    by_cases ha : key a = n
    · have hk : ¬ key a = k := fun e => h (e.symm.trans ha)
      have e1 : (key a != n) = false := by simp [ha]
      have e2 : (key a == k) = false := by simp [hk]
      rw [List.filter_cons, e1, List.find?_cons, e2]
      exact ih
    · have e1 : (key a != n) = true := by simp [ha]
      rw [List.filter_cons, e1, if_pos rfl, List.find?_cons, List.find?_cons, ih]

end

/-! ### Job records -/

theorem State.job_setJob_self {s : State} {x : Job} (h : ordered Job.tag s.jobs) : (s.setJob x).job? x.tag = some x := by
  simp only [State.job?, State.setJob_jobs]
  exact find_insertBy_self h

theorem State.job_setJob_ne {s : State} {x : Job} {n : Nat} (h : n ≠ x.tag) : (s.setJob x).job? n = s.job? n := by
  simp only [State.job?, State.setJob_jobs]
  exact find_insertBy_ne h

theorem State.job_removeJob_self {s : State} {n : Nat} : (s.removeJob n).job? n = none := by
  simp only [State.job?, State.removeJob_jobs]
  exact find_removeBy_self

theorem State.job_removeJob_ne {s : State} {k n : Nat} (h : k ≠ n) : (s.removeJob n).job? k = s.job? k := by
  simp only [State.job?, State.removeJob_jobs]
  exact find_removeBy_ne h

/-- The record a lookup finds has the key looked up. -/
theorem State.job_key {s : State} {n : Nat} {x : Job} (h : s.job? n = some x) : x.tag = n := by
  simpa using List.find?_some h

theorem State.job_mem {s : State} {n : Nat} {x : Job} (h : s.job? n = some x) : x ∈ s.jobs := List.mem_of_find?_eq_some h

/-! ### Lot records -/

theorem State.lot_setLot_self {s : State} {x : Lot} (h : ordered Lot.code s.lots) : (s.setLot x).lot? x.code = some x := by
  simp only [State.lot?, State.setLot_lots]
  exact find_insertBy_self h

theorem State.lot_setLot_ne {s : State} {x : Lot} {n : Nat} (h : n ≠ x.code) : (s.setLot x).lot? n = s.lot? n := by
  simp only [State.lot?, State.setLot_lots]
  exact find_insertBy_ne h

theorem State.lot_removeLot_self {s : State} {n : Nat} : (s.removeLot n).lot? n = none := by
  simp only [State.lot?, State.removeLot_lots]
  exact find_removeBy_self

theorem State.lot_removeLot_ne {s : State} {k n : Nat} (h : k ≠ n) : (s.removeLot n).lot? k = s.lot? k := by
  simp only [State.lot?, State.removeLot_lots]
  exact find_removeBy_ne h

/-- The record a lookup finds has the key looked up. -/
theorem State.lot_key {s : State} {n : Nat} {x : Lot} (h : s.lot? n = some x) : x.code = n := by
  simpa using List.find?_some h

theorem State.lot_mem {s : State} {n : Nat} {x : Lot} (h : s.lot? n = some x) : x ∈ s.lots := List.mem_of_find?_eq_some h

/-! ### Roll records -/

theorem State.roll_setRoll_self {s : State} {x : Roll} (h : ordered Roll.id s.rolls) : (s.setRoll x).roll? x.id = some x := by
  simp only [State.roll?, State.setRoll_rolls]
  exact find_insertBy_self h

theorem State.roll_setRoll_ne {s : State} {x : Roll} {n : Nat} (h : n ≠ x.id) : (s.setRoll x).roll? n = s.roll? n := by
  simp only [State.roll?, State.setRoll_rolls]
  exact find_insertBy_ne h

theorem State.roll_removeRoll_self {s : State} {n : Nat} : (s.removeRoll n).roll? n = none := by
  simp only [State.roll?, State.removeRoll_rolls]
  exact find_removeBy_self

theorem State.roll_removeRoll_ne {s : State} {k n : Nat} (h : k ≠ n) : (s.removeRoll n).roll? k = s.roll? k := by
  simp only [State.roll?, State.removeRoll_rolls]
  exact find_removeBy_ne h

/-- The record a lookup finds has the key looked up. -/
theorem State.roll_key {s : State} {n : Nat} {x : Roll} (h : s.roll? n = some x) : x.id = n := by
  simpa using List.find?_some h

theorem State.roll_mem {s : State} {n : Nat} {x : Roll} (h : s.roll? n = some x) : x ∈ s.rolls := List.mem_of_find?_eq_some h

/-! ### Edition records -/

theorem State.edition_setEdition_self {s : State} {x : Edition} (h : ordered Edition.id s.editions) : (s.setEdition x).edition? x.id = some x := by
  simp only [State.edition?, State.setEdition_editions]
  exact find_insertBy_self h

theorem State.edition_setEdition_ne {s : State} {x : Edition} {n : Nat} (h : n ≠ x.id) : (s.setEdition x).edition? n = s.edition? n := by
  simp only [State.edition?, State.setEdition_editions]
  exact find_insertBy_ne h

theorem State.edition_removeEdition_self {s : State} {n : Nat} : (s.removeEdition n).edition? n = none := by
  simp only [State.edition?, State.removeEdition_editions]
  exact find_removeBy_self

theorem State.edition_removeEdition_ne {s : State} {k n : Nat} (h : k ≠ n) : (s.removeEdition n).edition? k = s.edition? k := by
  simp only [State.edition?, State.removeEdition_editions]
  exact find_removeBy_ne h

/-- The record a lookup finds has the key looked up. -/
theorem State.edition_key {s : State} {n : Nat} {x : Edition} (h : s.edition? n = some x) : x.id = n := by
  simpa using List.find?_some h

theorem State.edition_mem {s : State} {n : Nat} {x : Edition} (h : s.edition? n = some x) : x ∈ s.editions := List.mem_of_find?_eq_some h

end Sys2Proof.Machine
end

