-- ==== Sys2Proof/Laws/Ops.lean ====
section
/-!
SUPPORT. What the shared operations of Machine/Ops.lean and Machine/Handling.lean can do, said once: handing a commit group,
taking a request, taking a Head Link frame and a link message, and the notice queue.
-/

namespace Sys2Proof.Machine

/-! ### Handing commit groups (R193) -/

/-- A waiting commit point whose images are renewed is the same one otherwise. -/
theorem CommitPoint.renew_waits (p : CommitPoint) (keys : List RecKey) (image : RecKey → Image) :
    (p.renew keys image).waits = p.waits := by
  unfold CommitPoint.waits CommitPoint.renew
  simp only [List.map_map]
  congr 2
  apply List.map_congr_left
  intro w _
  by_cases h : w.key ∈ keys <;> simp [h]

/-- What handing the group of a commit point may change of the store: it gives one number, takes from the change list at
most, and leaves the commit points that wait but for their images (R192, R193). -/
theorem State.place_store (s : State) (id : Nat) (regions : List Region) (ws : List Write) :
    (s.place id regions ws).store =
        { s.store with
          count := s.store.count + 1
          closed := (s.place id regions ws).store.closed
          lastDone := (s.place id regions ws).store.lastDone
          groups := (s.place id regions ws).store.groups
          behind := (s.place id regions ws).store.behind
          changed := (s.place id regions ws).store.changed } ∧
      (s.place id regions ws).store.behind.map CommitPoint.waits = s.store.behind.map CommitPoint.waits ∧
      ∀ k ∈ (s.place id regions ws).store.changed, k ∈ s.store.changed := by
  unfold State.place; dsimp only; split
  · exact ⟨rfl, rfl, fun k h => h⟩
  · refine ⟨rfl, ?_, fun k h => (List.mem_filter.mp h).1⟩
    rw [List.map_map]
    exact List.map_congr_left fun p _ => p.renew_waits _ _

/-- Handing a group leaves as many commit points waiting. -/
theorem State.place_waiting (s : State) (id : Nat) (regions : List Region) (ws : List Write) :
    (s.place id regions ws).store.behind.length = s.store.behind.length := by
  simpa using congrArg List.length (s.place_store id regions ws).2.1

/-- A waiting commit point hands its group: numbers given and commit points waiting keep their sum. -/
theorem State.placeFirst_store (f : CommitPoint → Bool) (s : State) :
    (s.placeFirst f).store =
        { s.store with
          count := (s.placeFirst f).store.count
          closed := (s.placeFirst f).store.closed
          lastDone := (s.placeFirst f).store.lastDone
          groups := (s.placeFirst f).store.groups
          behind := (s.placeFirst f).store.behind
          changed := (s.placeFirst f).store.changed } ∧
      (s.placeFirst f).store.count + (s.placeFirst f).store.behind.length = s.store.count + s.store.behind.length ∧
      (s.placeFirst f).store.behind.map CommitPoint.waits = (s.store.behind.eraseP f).map CommitPoint.waits ∧
      ∀ k ∈ (s.placeFirst f).store.changed, k ∈ s.store.changed := by
  unfold State.placeFirst
  split
  · rename_i p hp
    obtain ⟨h1, h2, h3⟩ := State.place_store { s with store := { s.store with behind := s.store.behind.eraseP f } } p.id
      (p.writes.map fun (w : Write) => regionOf w.key) p.writes
    refine ⟨?_, ?_, h2, h3⟩
    · rw [h1]
    · rw [h1, State.place_waiting]
      have hm := List.mem_of_find?_eq_some hp
      have hl := List.length_eraseP_of_mem hm (List.find?_some hp)
      have := List.length_pos_of_mem hm
      simp only [hl]; omega
  · rename_i h
    refine ⟨rfl, rfl, ?_, fun k h => h⟩
    rw [List.eraseP_of_forall_not fun a ha => by simpa using List.find?_eq_none.mp h a ha]

/-- Several waiting commit points hand their groups: numbers given and commit points waiting keep their sum. -/
theorem State.placeThose_store (f : CommitPoint → Bool) (s : State) :
    (s.placeThose f).store =
        { s.store with
          count := (s.placeThose f).store.count
          closed := (s.placeThose f).store.closed
          lastDone := (s.placeThose f).store.lastDone
          groups := (s.placeThose f).store.groups
          behind := (s.placeThose f).store.behind
          changed := (s.placeThose f).store.changed } ∧
      (s.placeThose f).store.count + (s.placeThose f).store.behind.length = s.store.count + s.store.behind.length ∧
      ∀ k ∈ (s.placeThose f).store.changed, k ∈ s.store.changed := by
  have H : ∀ (l : List CommitPoint) (s : State),
      (l.foldl (fun s _ => s.placeFirst f) s).store =
        { s.store with
          count := (l.foldl (fun s _ => s.placeFirst f) s).store.count
          closed := (l.foldl (fun s _ => s.placeFirst f) s).store.closed
          lastDone := (l.foldl (fun s _ => s.placeFirst f) s).store.lastDone
          groups := (l.foldl (fun s _ => s.placeFirst f) s).store.groups
          behind := (l.foldl (fun s _ => s.placeFirst f) s).store.behind
          changed := (l.foldl (fun s _ => s.placeFirst f) s).store.changed } ∧
      (l.foldl (fun s _ => s.placeFirst f) s).store.count +
          (l.foldl (fun s _ => s.placeFirst f) s).store.behind.length = s.store.count + s.store.behind.length ∧
      ∀ k ∈ (l.foldl (fun s _ => s.placeFirst f) s).store.changed, k ∈ s.store.changed := by
    intro l
    induction l with
    | nil => exact fun s => ⟨rfl, rfl, fun k h => h⟩
    | cons p l ih =>
      intro s
      obtain ⟨h1, h2, h3⟩ := ih (s.placeFirst f)
      obtain ⟨k1, k2, -, k4⟩ := s.placeFirst_store f
      rw [List.foldl_cons]
      refine ⟨?_, by omega, fun k h => k4 k (h3 k h)⟩
      generalize (l.foldl (fun s _ => s.placeFirst f) (s.placeFirst f)).store = b at h1
      refine h1.trans ?_
      rw [k1]
  exact H s.store.behind s

/-- Taking the first of a list that meets `g` out of it leaves one less of them. -/
theorem countP_eraseP {α : Type} (g : α → Bool) (b : List α) : (b.eraseP g).countP g = b.countP g - 1 := by
  induction b with
  | nil => rfl
  | cons y b ih =>
    cases hy : g y
    · rw [List.eraseP_cons_of_neg (by simp [hy])]; simp [hy, ih]
    · rw [List.eraseP_cons_of_pos hy]; simp [hy]

/-- Taking the first of a list that meets `g` out of it as often as there are such leaves those that do not. -/
theorem eraseP_all {α β : Type} (g : α → Bool) (l : List β) (b : List α) (h : b.countP g ≤ l.length) :
    l.foldl (fun b _ => b.eraseP g) b = b.filter fun x => !g x := by
  induction l generalizing b with
  | nil =>
    have h0 := List.countP_eq_zero.mp (Nat.le_zero.mp h)
    exact (List.filter_eq_self.mpr fun a ha => by simpa using h0 a ha).symm
  | cons x l ih =>
    rw [List.foldl_cons, ih]
    · induction b with
      | nil => rfl
      | cons y b hb =>
        cases hy : g y
        · rw [List.eraseP_cons_of_neg (by simp [hy])]
          simp only [List.filter_cons, hy, Bool.not_false, if_true]
          rw [hb (by simpa [List.countP_cons, hy] using h)]
        · rw [List.eraseP_cons_of_pos hy]; simp [hy]
    · rw [countP_eraseP]; rw [List.length_cons] at h; omega

/-- The commit points that wait once those that meet `f` have handed their groups. -/
theorem State.placeThose_behind (f : CommitPoint → Bool) (g : Nat × List Nat × List RecKey → Bool)
    (hf : ∀ p, f p = g p.waits) (s : State) :
    (s.placeThose f).store.behind.map CommitPoint.waits =
      (s.store.behind.map CommitPoint.waits).filter fun x => !g x := by
  have step : ∀ (l : List CommitPoint) (s : State),
      (l.foldl (fun s _ => s.placeFirst f) s).store.behind.map CommitPoint.waits =
        l.foldl (fun b _ => b.eraseP g) (s.store.behind.map CommitPoint.waits) := by
    intro l
    induction l with
    | nil => exact fun s => rfl
    | cons p l ih =>
      intro s
      rw [List.foldl_cons, List.foldl_cons, ih, (s.placeFirst_store f).2.2.1, List.eraseP_map]
      rw [show f = g ∘ CommitPoint.waits from funext hf]
  unfold State.placeThose
  rw [step, eraseP_all]
  exact List.countP_le_length.trans (by simp)

/-- A newer commit point makes older ones hand their groups: numbers given and commit points waiting keep their sum. -/
theorem State.overtake_store (s : State) (keys : List RecKey) :
    (s.overtake keys).store =
        { s.store with
          count := (s.overtake keys).store.count
          closed := (s.overtake keys).store.closed
          lastDone := (s.overtake keys).store.lastDone
          groups := (s.overtake keys).store.groups
          behind := (s.overtake keys).store.behind
          changed := (s.overtake keys).store.changed } ∧
      (s.overtake keys).store.count + (s.overtake keys).store.behind.length = s.store.count + s.store.behind.length ∧
      ∀ k ∈ (s.overtake keys).store.changed, k ∈ s.store.changed :=
  State.placeThose_store ..

/-- Between two states of the store no commit point was made: a record may have been touched. -/
theorem Store.hands_refl (a : Store) : a.hands a 0 := ⟨by cases a; rfl, rfl, id⟩

/-- Making one commit point makes one (R193, R194). -/
theorem State.hand_makes (s : State) (names : List RecKey) : s.store.hands (s.hand names).store 1 := by
  obtain ⟨h1, h2, -⟩ := s.overtake_store (s.store.groupKeys names)
  unfold Store.hands State.hand
  dsimp only
  split
  · obtain ⟨k1, k2, -⟩ := State.place_store { s.overtake (s.store.groupKeys names) with store :=
      { (s.overtake (s.store.groupKeys names)).store with
        called := s.store.called + 1
        changed := (s.overtake (s.store.groupKeys names)).store.changed.filter fun k =>
          !(s.store.groupKeys names).contains k } } (s.store.called + 1) (names.map regionOf)
      ((s.store.groupKeys names).map fun k => (⟨k, s.image k, 0, .waiting, false⟩ : Write))
    rw [k1]
    refine ⟨?_, ?_, ?_⟩
    · rw [h1]
    · have k3 := congrArg List.length k2
      simp only [List.length_map] at k3
      simp only at k3 ⊢
      rw [k3]; omega
    · rw [h1]; exact id
  · refine ⟨?_, ?_, ?_⟩
    · rw [h1]
    · simp only [List.length_append, List.length_singleton]; omega
    · rw [h1]; exact id

/-- One stretch of commit points behind another. -/
theorem Store.hands.trans {a b c : Store} {n m : Nat} (h : a.hands b n) (k : b.hands c m) : a.hands c (n + m) := by
  obtain ⟨h1, h2, h3⟩ := h
  obtain ⟨k1, k2, k3⟩ := k
  refine ⟨?_, by omega, fun e => h3 (k3 e)⟩
  rw [k1, h1, show a.called + n + m = a.called + (n + m) by omega]

/-- Touching records and then making one commit point makes one (R193, R196). -/
theorem State.hand_hands {a : Store} {n : Nat} {s : State} (h : a.hands s.store n) (names : List RecKey) :
    a.hands (s.hand names).store (n + 1) := h.trans (s.hand_makes names)

/-- Noting a change hands nothing. -/
theorem State.noting_hands {a : Store} {n : Nat} {s t : State} {k : RecKey} (h : a.hands t.store n) :
    a.hands (s.noting k t).store n := by
  rw [State.noting_store]
  split
  · exact h
  · obtain ⟨h1, h2, h3⟩ := h
    refine ⟨?_, h2, by simp⟩
    unfold Store.touch
    rw [h1]

/-- What is left changed by a commit point was changed before it, and is none of the records it holds (R193, R201). -/
theorem State.hand_changed (s : State) (names : List RecKey) {k : RecKey} (h : k ∈ (s.hand names).store.changed) :
    k ∈ s.store.changed ∧ k ∉ s.store.groupKeys names := by
  obtain ⟨-, -, h3⟩ := s.overtake_store (s.store.groupKeys names)
  have key : k ∈ (s.overtake (s.store.groupKeys names)).store.changed.filter
      (fun k => !(s.store.groupKeys names).contains k) := by
    unfold State.hand at h
    dsimp only at h
    split at h
    · exact (State.place_store ..).2.2 k h
    · exact h
  have := List.mem_filter.mp key
  exact ⟨h3 k this.1, by simpa using this.2⟩

/-- A record that a commit point names has no change left that no commit point has taken (R193). -/
theorem State.hand_saved (s : State) {names : List RecKey} {k : RecKey} (h : k ∈ names) : (s.hand names).saved k := by
  intro hk
  obtain ⟨h1, h2⟩ := s.hand_changed names hk
  apply h2
  unfold Store.groupKeys
  rw [if_pos (List.any_eq_true.mpr ⟨k, h, by simpa using h1⟩)]
  exact List.mem_dedup.mpr h

/-- A commit point takes no record out of the saved ones. -/
theorem State.saved_hand {s : State} {names : List RecKey} {k : RecKey} (h : s.saved k) : (s.hand names).saved k :=
  fun hk => h (s.hand_changed names hk).1

/-- Each commit point has the next number (R193). -/
theorem State.hand_store_called (s : State) (names : List RecKey) : (s.hand names).store.called = s.store.called + 1 := by
  rw [(s.hand_makes names).1]

/-! ### Commit points (R193, R194) -/

/-- A commit point is either made or gathered (R80, R147, R193). -/
theorem State.commit_cases (s : State) (names : List RecKey) :
    (s.handling.gathered = none ∧ s.commit names = s.hand names) ∨
      ∃ l, s.handling.gathered = some l ∧
        s.commit names =
          { s with handling := { s.handling with gathered := some { l with points := l.points ++ [names] } } } := by
  unfold State.commit
  cases h : s.handling.gathered with
  | none => exact .inl ⟨rfl, rfl⟩
  | some l => exact .inr ⟨l, rfl, rfl⟩

/-- A commit point outside a gathering is made. -/
theorem State.commit_now {s : State} (h : s.handling.gathered = none) (names : List RecKey) :
    s.commit names = s.hand names := by unfold State.commit; rw [h]

/-- A commit point in a gathering is called for alone. -/
theorem State.commit_later {s : State} {l : Gathered} (h : s.handling.gathered = some l) (names : List RecKey) :
    s.commit names =
      { s with handling := { s.handling with gathered := some { l with points := l.points ++ [names] } } } := by
  unfold State.commit; rw [h]

/-- A commit point outside a gathering leaves the handling as it was. -/
theorem State.commit_handling {s : State} (h : s.handling.gathered = none) (names : List RecKey) :
    (s.commit names).handling = s.handling := by rw [State.commit_now h]; simp

/-- A commit point outside a gathering is one (R193). -/
theorem State.commit_hands {a : Store} {n : Nat} {s : State} (h : a.hands s.store n) (hg : s.handling.gathered = none)
    (names : List RecKey) : a.hands (s.commit names).store (n + 1) := by
  rw [State.commit_now hg]; exact State.hand_hands h _

/-- A record that a commit point names outside a gathering is saved (R193, R201). -/
theorem State.commit_saved {s : State} (hg : s.handling.gathered = none) {names : List RecKey} {k : RecKey}
    (h : k ∈ names) : (s.commit names).saved k := by
  rw [State.commit_now hg]; exact s.hand_saved h

/-- A commit point takes no record out of the saved ones. -/
theorem State.saved_commit {s : State} {names : List RecKey} {k : RecKey} (h : s.saved k) : (s.commit names).saved k := by
  rcases s.commit_cases names with ⟨-, e⟩ | ⟨l, -, e⟩
  · rw [e]; exact State.saved_hand h
  · rw [e]; exact h

/-! ### Gathered commit points (R80, R147) -/

/-- A record named by a gathered commit point is in one of the groups they make. -/
theorem mem_joinPoints {l : List (List RecKey)} {k : RecKey} (h : ∃ a ∈ l, k ∈ a) : ∃ g ∈ joinPoints l, k ∈ g := by
  induction l with
  | nil => obtain ⟨a, ha, -⟩ := h; cases ha
  | cons x rest ih =>
    obtain ⟨a, ha, hk⟩ := h
    unfold joinPoints
    simp only
    rcases List.mem_cons.mp ha with rfl | ha
    · exact ⟨_, List.mem_cons_self, List.mem_dedup.mpr (List.mem_append_left _ hk)⟩
    · obtain ⟨g, hg, hkg⟩ := ih ⟨a, ha, hk⟩
      by_cases hm : (g.any fun k => x.contains k) = true
      · refine ⟨_, List.mem_cons_self, List.mem_dedup.mpr (List.mem_append_right _ ?_)⟩
        exact List.mem_flatten.mpr ⟨g, List.mem_filter.mpr ⟨hg, hm⟩, hkg⟩
      · exact ⟨g, List.mem_cons_of_mem _ (List.mem_filter.mpr ⟨hg, by simpa using hm⟩), hkg⟩

/-- Commit points outside a gathering, one behind the other, and every record they name is saved. -/
theorem State.commits_hand {a : Store} {n : Nat} {s : State} (h : a.hands s.store n) (hg : s.handling.gathered = none)
    (l : List (List RecKey)) : a.hands (l.foldl State.commit s).store (n + l.length) := by
  induction l generalizing s n with
  | nil => exact h
  | cons g gs ih =>
    rw [List.foldl_cons, List.length_cons, show n + (gs.length + 1) = n + 1 + gs.length by omega]
    exact ih (State.commit_hands h hg g) (by rw [State.commit_handling hg]; exact hg)

theorem State.saved_commits {s : State} {k : RecKey} (h : s.saved k) (l : List (List RecKey)) :
    (l.foldl State.commit s).saved k := by
  induction l generalizing s with
  | nil => exact h
  | cons g gs ih => exact ih (State.saved_commit h)

theorem State.commits_saved {s : State} (hg : s.handling.gathered = none) {l : List (List RecKey)} {a : List RecKey}
    {k : RecKey} (ha : a ∈ l) (hk : k ∈ a) : (l.foldl State.commit s).saved k := by
  induction l generalizing s with
  | nil => cases ha
  | cons x xs ih =>
    rw [List.foldl_cons]
    rcases List.mem_cons.mp ha with h | h
    · subst h; exact State.saved_commits (State.commit_saved hg hk) xs
    · exact ih (by rw [State.commit_handling hg]; exact hg) h

/-- The store once the gathered commit points are made: the notices behind them leave it as it is. -/
theorem State.handGathered_store (s : State) :
    s.handGathered.store =
      ((joinPoints (s.handling.gathered.getD {}).points).foldl State.commit
        { s with handling := { s.handling with gathered := none } }).store := by
  unfold State.handGathered; dsimp only; rw [State.raises_shape]

/-- The gathered commit points are made: one for each of `joinPoints`. -/
theorem State.handGathered_hands {a : Store} {n : Nat} {s : State} (h : a.hands s.store n) :
    a.hands s.handGathered.store (n + (joinPoints (s.handling.gathered.getD {}).points).length) := by
  rw [s.handGathered_store]
  exact State.commits_hand (s := { s with handling := { s.handling with gathered := none } }) h rfl _

/-- A record that a gathered commit point names is saved once they are made (R193, R201). -/
theorem State.handGathered_saved {s : State} {l : Gathered} (hl : s.handling.gathered = some l) {a : List RecKey}
    {k : RecKey} (ha : a ∈ l.points) (hk : k ∈ a) : s.handGathered.saved k := by
  obtain ⟨g, hg, hkg⟩ := mem_joinPoints ⟨a, ha, hk⟩
  unfold State.saved; rw [s.handGathered_store, hl]
  exact State.commits_saved (s := { s with handling := { s.handling with gathered := none } }) rfl hg hkg

/-! ### The open groups (R193, R194) -/

/-- Starting a write changes no group's commit points and numbers. -/
theorem startGroup_keeps (all gs : List OpenGroup) :
    (startGroup all gs).map (fun g => (g.ids, g.nums)) = gs.map fun g => (g.ids, g.nums) := by
  induction gs with
  | nil => rfl
  | cons g gs ih => unfold startGroup; split <;> simp [ih]

theorem startWrite_keeps (gs : List OpenGroup) :
    (startWrite gs).map (fun g => (g.ids, g.nums)) = gs.map fun g => (g.ids, g.nums) := by
  unfold startWrite; split
  · rfl
  · exact startGroup_keeps gs gs

/-- Starting a write loses no image of its group. -/
theorem startFirst_keeps (held : RecKey → Bool) (ws : List Write) {w : Write} (h : w ∈ ws) :
    ∃ v ∈ startFirst held ws, v = { w with stage := v.stage } := by
  induction ws with
  | nil => cases h
  | cons x xs ih =>
    unfold startFirst
    rcases List.mem_cons.mp h with rfl | h
    · split
      · exact ⟨_, List.mem_cons_self .., rfl⟩
      · exact ⟨_, List.mem_cons_self .., rfl⟩
    · split
      · exact ⟨w, List.mem_cons_of_mem _ h, rfl⟩
      · obtain ⟨v, hv, e⟩ := ih h
        exact ⟨v, List.mem_cons_of_mem _ hv, e⟩

/-- Starting a write loses no image: at most a stage changes (R193). -/
theorem startWrite_holds (gs : List OpenGroup) {w : Write} (h : w ∈ gs.flatMap OpenGroup.writes) :
    ∃ v ∈ (startWrite gs).flatMap OpenGroup.writes, v = { w with stage := v.stage } := by
  unfold startWrite
  split
  · exact ⟨w, h, rfl⟩
  · have key : ∀ l : List OpenGroup, w ∈ l.flatMap OpenGroup.writes →
        ∃ v ∈ (startGroup gs l).flatMap OpenGroup.writes, v = { w with stage := v.stage } := by
      intro l
      induction l with
      | nil => exact fun h => ⟨w, h, rfl⟩
      | cons g l ih =>
        intro h
        rw [List.flatMap_cons, List.mem_append] at h
        unfold startGroup
        split
        · rw [List.flatMap_cons]
          rcases h with h | h
          · obtain ⟨v, hv, e⟩ := startFirst_keeps (heldBack gs g) g.writes h
            exact ⟨v, List.mem_append_left _ hv, e⟩
          · exact ⟨w, List.mem_append_right _ h, rfl⟩
        · rw [List.flatMap_cons]
          rcases h with h | h
          · exact ⟨w, List.mem_append_left _ h, rfl⟩
          · obtain ⟨v, hv, e⟩ := ih h
            exact ⟨v, List.mem_append_right _ hv, e⟩
    exact key gs h

/-- The joined group stands in the queue (R193). -/
theorem placeJoined_holds (joins : OpenGroup → Bool) (g : OpenGroup) (gs : List OpenGroup) :
    g ∈ placeJoined joins g gs := by
  induction gs with
  | nil => exact List.mem_cons_self ..
  | cons x xs ih =>
    unfold placeJoined; split
    · exact List.mem_cons_self ..
    · exact List.mem_cons_of_mem _ ih

/-- A waiting image that the newest group replaces, or one it brings, is not set aside for an older one (R193). -/
theorem mem_newestWrites {ws : List Write} {w : Write} (h : w ∈ ws)
    (hn : ∀ v ∈ ws, v.key = w.key → v.group ≤ w.group) : w ∈ newestWrites ws := by
  unfold newestWrites
  refine List.mem_dedup.mpr (List.mem_filter.mpr ⟨h, ?_⟩)
  have : (ws.any fun v => v.key == w.key && decide (w.group < v.group)) = false := by
    simp only [List.any_eq_false, Bool.and_eq_true, beq_iff_eq, decide_eq_true_eq, not_and]
    exact fun v hv e => by have := hn v hv e; omega
  simp [this]

/-- A group handed keeps each of its images, with its number and its retry, whatever groups it joins (R193, R199). -/
theorem handGroup_holds {id num : Nat} {new : List Write} {gs : List OpenGroup}
    (older : ∀ g ∈ gs, ∀ w ∈ g.writes, w.group < num) (numbered : ∀ n ∈ new, n.group = num)
    (keys : ∀ a ∈ new, ∀ b ∈ new, a.key = b.key → a = b) {n : Write} (hn : n ∈ new) :
    ∃ w ∈ (handGroup id num new gs).flatMap OpenGroup.writes, w = { n with stage := w.stage } := by
  unfold handGroup
  refine startWrite_holds _ (List.mem_flatMap.mpr ⟨_, placeJoined_holds .., ?_⟩)
  dsimp only
  have found : ∀ w : Write, w.key = n.key → (new.find? fun m => m.key == w.key) = some n := by
    intro w e
    obtain ⟨m, hm⟩ : ∃ m, (new.find? fun m => m.key == w.key) = some m := by
      rw [← Option.isSome_iff_exists, List.find?_isSome]
      exact ⟨n, hn, by simp [e]⟩
    have km : m.key = n.key := by simpa [e] using List.find?_some hm
    rw [hm, keys m (List.mem_of_find?_eq_some hm) n hn km]
  by_cases hj : (gs.filter fun g => g.awaits new).any fun g =>
      g.writes.any fun w => w.stage == .waiting && w.key == n.key
  · refine List.mem_append_left _ (mem_newestWrites ?_ ?_)
    · obtain ⟨g, hg, hw⟩ := List.any_eq_true.mp hj
      obtain ⟨w, hw, e⟩ := List.any_eq_true.mp hw
      simp only [Bool.and_eq_true, beq_iff_eq] at e
      refine List.mem_map.mpr ⟨w, List.mem_flatMap.mpr ⟨g, hg, hw⟩, ?_⟩
      unfold replaceWaiting
      rw [if_pos e.1, found w e.2]; rfl
    · intro v hv _
      obtain ⟨w, hw, rfl⟩ := List.mem_map.mp hv
      obtain ⟨g, hg, hw⟩ := List.mem_flatMap.mp hw
      have lt := older g (List.mem_filter.mp hg).1 w hw
      rw [numbered n hn]
      unfold replaceWaiting
      split
      · cases hf : new.find? fun m => m.key == w.key with
        | none => exact lt.le
        | some m => exact (numbered m (List.mem_of_find?_eq_some hf)).le
      · exact lt.le
  · refine List.mem_append_right _ (List.mem_filter.mpr ⟨hn, ?_⟩)
    simpa using hj

/-- The group of a commit point that is handed holds the point's images as they were taken, and takes up the unsaved
records of its regions, those it holds no image of with their images as they stand (R193, R199). -/
theorem State.place_holds {s : State} {id : Nat} {regions : List Region} {ws : List Write}
    (older : ∀ g ∈ s.store.groups, ∀ w ∈ g.writes, w.group ≤ s.store.count)
    (keys : ∀ a ∈ ws, ∀ b ∈ ws, a.key = b.key → a = b) :
    let all := (s.place id regions ws).store.groups.flatMap OpenGroup.writes
    (∀ w ∈ ws, ∃ v ∈ all, v.key = w.key ∧ v.image = w.image ∧ v.retry = s.store.unsaved.contains w.key) ∧
      ∀ k ∈ s.store.unsaved, regionOf k ∈ regions →
        ∃ v ∈ all, v.key = k ∧ v.retry = true ∧ (k ∉ ws.map Write.key → v.image = s.image k) := by
  intro all
  let num := s.store.count + 1
  let own (w : Write) : Write := { w with group := num, retry := s.store.unsaved.contains w.key }
  let added (k : RecKey) : Write := ⟨k, s.image k, num, .waiting, true⟩
  let more := s.store.takesUp regions ws
  let new := ws.map own ++ more.map added
  have apart : ∀ k ∈ more, ∀ w ∈ ws, k ≠ w.key := by
    intro k hk w hw e
    have := (List.mem_filter.mp hk).2
    simp only [Bool.and_eq_true, Bool.not_eq_true', List.contains_eq_mem, decide_eq_false_iff_not] at this
    exact this.2 (e ▸ List.mem_map_of_mem hw)
  have uniq : ∀ a ∈ new, ∀ b ∈ new, a.key = b.key → a = b := by
    intro a ha b hb e
    rcases List.mem_append.mp ha with ha | ha <;> rcases List.mem_append.mp hb with hb | hb <;>
      obtain ⟨x, hx, rfl⟩ := List.mem_map.mp ha <;> obtain ⟨y, hy, rfl⟩ := List.mem_map.mp hb
    · rw [keys x hx y hy e]
    · exact absurd e.symm (apart y hy x hx)
    · exact absurd e (apart x hx y hy)
    · rw [show x = y from e]
  have held : ∀ n ∈ new, ∃ v ∈ all, v.key = n.key ∧ v.image = n.image ∧ v.retry = n.retry := by
    intro n hn
    have ne : new.isEmpty = false := by cases h : new with
      | nil => rw [h] at hn; cases hn
      | cons _ _ => rfl
    have ids : ∀ m ∈ new, m.group = num := by
      intro m hm
      rcases List.mem_append.mp hm with hm | hm <;> obtain ⟨x, _, rfl⟩ := List.mem_map.mp hm <;> rfl
    obtain ⟨v, hv, e⟩ := handGroup_holds (id := id) (num := num) (new := new)
      (fun g hg w hw => Nat.lt_succ_of_le (older g hg w hw)) ids uniq hn
    refine ⟨v, ?_, by rw [e], by rw [e], by rw [e]⟩
    have : (s.place id regions ws).store.groups = handGroup id num new s.store.groups := by
      unfold State.place
      dsimp only
      rw [if_neg (by simpa [new, own, added, more, num] using ne)]
    show v ∈ (s.place id regions ws).store.groups.flatMap OpenGroup.writes
    rw [this]; exact hv
  refine ⟨fun w hw => held (own w) (List.mem_append_left _ (List.mem_map_of_mem hw)), fun k hk hr => ?_⟩
  by_cases h : k ∈ ws.map Write.key
  · obtain ⟨w, hw, rfl⟩ := List.mem_map.mp h
    obtain ⟨v, hv, e1, _, e3⟩ := held (own w) (List.mem_append_left _ (List.mem_map_of_mem hw))
    exact ⟨v, hv, e1, by rw [e3]; simpa [own] using hk, fun n => absurd h n⟩
  · have hm : k ∈ more := List.mem_filter.mpr ⟨hk, by simpa using ⟨hr, by simpa using h⟩⟩
    obtain ⟨v, hv, e1, e2, e3⟩ := held (added k) (List.mem_append_right _ (List.mem_map_of_mem hm))
    exact ⟨v, hv, e1, e3, fun _ => e2⟩

/-- What follows a group's end touches the store's groups, numbers, unsaved list and change list alone, and hands the
groups of the commit points that wait for none any more (R193, R194). -/
theorem State.follow_shape (s : State) (done : List Nat) (rest : List OpenGroup) (unsaved : List RecKey) :
    ∃ b, s.follow done rest unsaved = { s with store := b } ∧
      b = { s.store with
            count := b.count, closed := b.closed, lastDone := b.lastDone, groups := b.groups, behind := b.behind
            changed := b.changed, unsaved := unsaved } ∧
      b.count + b.behind.length = s.store.count + s.store.behind.length ∧
      b.behind.map CommitPoint.waits =
        (((s.store.behind.map CommitPoint.waits).map fun x => (x.1, x.2.1.filter (fun n => !done.contains n), x.2.2)).filter
          fun x => !x.2.1.isEmpty) ∧
      ∀ k ∈ b.changed, k ∈ s.store.changed := by
  refine ⟨(s.follow done rest unsaved).store, State.placeThose_shape .., ?_⟩
  unfold State.follow
  dsimp only
  obtain ⟨h1, h2, h3⟩ := State.placeThose_store (fun p => p.after.isEmpty) { s with store := { s.store with
    groups := startWrite rest
    behind := s.store.behind.map fun (p : CommitPoint) => { p with after := p.after.filter fun n => !done.contains n }
    unsaved := unsaved } }
  refine ⟨?_, ?_, ?_, h3⟩
  · rw [h1]
  · simpa using h2
  · rw [State.placeThose_behind (fun p => p.after.isEmpty) (fun x => x.2.1.isEmpty) fun _ => rfl]
    simp only [List.map_map]
    rfl

/-! ### Writing records hands no group -/

theorem State.setJob_hands {a : Store} {n : Nat} {s : State} (h : a.hands s.store n) (j : Job) :
    a.hands (s.setJob j).store n := State.noting_hands h

theorem State.removeJob_hands {a : Store} {n : Nat} {s : State} (h : a.hands s.store n) (k : Nat) :
    a.hands (s.removeJob k).store n := State.noting_hands h

theorem State.setLot_hands {a : Store} {n : Nat} {s : State} (h : a.hands s.store n) (l : Lot) :
    a.hands (s.setLot l).store n := State.noting_hands h

theorem State.removeLot_hands {a : Store} {n : Nat} {s : State} (h : a.hands s.store n) (k : Nat) :
    a.hands (s.removeLot k).store n := State.noting_hands h

theorem State.setRoll_hands {a : Store} {n : Nat} {s : State} (h : a.hands s.store n) (r : Roll) :
    a.hands (s.setRoll r).store n := State.noting_hands h

theorem State.removeRoll_hands {a : Store} {n : Nat} {s : State} (h : a.hands s.store n) (k : Nat) :
    a.hands (s.removeRoll k).store n := State.noting_hands h

theorem State.setEdition_hands {a : Store} {n : Nat} {s : State} (h : a.hands s.store n) (e : Edition) :
    a.hands (s.setEdition e).store n := State.noting_hands h

theorem State.removeEdition_hands {a : Store} {n : Nat} {s : State} (h : a.hands s.store n) (k : Nat) :
    a.hands (s.removeEdition k).store n := State.noting_hands h

theorem State.setPrices_hands {a : Store} {n : Nat} {s : State} (h : a.hands s.store n) (p : PriceTable) :
    a.hands (s.setPrices p).store n := State.noting_hands h

theorem State.setPlan_hands {a : Store} {n : Nat} {s : State} (h : a.hands s.store n) (p : CheckPlan) :
    a.hands (s.setPlan p).store n := State.noting_hands h

theorem State.setGeometry_hands {a : Store} {n : Nat} {s : State} (h : a.hands s.store n) (g : Geometry) :
    a.hands (s.setGeometry g).store n := State.noting_hands h

theorem State.setStripMode_hands {a : Store} {n : Nat} {s : State} (h : a.hands s.store n) (m : StripMode) :
    a.hands (s.setStripMode m).store n := State.noting_hands h

theorem State.setCounters_hands {a : Store} {n : Nat} {s : State} (h : a.hands s.store n) (k d : Nat) (o : Overhead) :
    a.hands (s.setCounters k d o).store n := State.noting_hands h

theorem State.setChan_hands {a : Store} {n : Nat} {s : State} (h : a.hands s.store n) (c : Chan) (ch : Channel) :
    a.hands (s.setChan c ch).store n := State.noting_hands (State.noting_hands h)

/-! ### Requests (R209 to R213) -/

/-- A request that is ready is served by its block. -/
theorem State.request_ready {s : State} (h : s.ready) (code seq : Nat) (f : State → Reply) :
    s.request code seq f = s.quiet.serve code seq f := by
  simp [State.request, h.1, h.2]

/-- A served request leaves the state its block leaves, its commit groups handed and the port answered. -/
theorem State.serve_shape (s : State) (code seq : Nat) (f : State → Reply) :
    s.serve code seq f =
      { (f s.beginHandling).state.endHandling s.handling with port := (s.serve code seq f).port } := by
  unfold State.serve; simp only; split <;> rfl

/-- A served request whose block leaves the port alone answers it (R194, R211, R213). -/
theorem State.serve_answered (s : State) (code seq : Nat) (f : State → Reply)
    (h : (f s.beginHandling).state.port = s.port) :
    s.answered (s.serve code seq f) code seq (f s.beginHandling).status (f s.beginHandling).body := by
  have hp : ((f s.beginHandling).state.endHandling s.handling).port = s.port := (State.endHandling_port _ _).trans h
  unfold State.answered State.serve
  simp only
  generalize (f s.beginHandling).state.endHandling s.handling = t at hp
  by_cases hw : (t.store.openAbove s.store.called).isEmpty
  · simp only [hw, if_true]
    have : t.store.openAbove s.store.called = [] := by simpa using hw
    simp [State.respond, State.formed, this, hp]
  · simp only [hw]
    have : ¬ t.store.openAbove s.store.called = [] := by simpa using hw
    simp [this, hp]

/-- A ready request leaves the state its block leaves, its commit groups handed and the port answered (R194, R211,
R213). -/
theorem State.request_taken {s : State} (h : s.ready) (code seq : Nat) {f : State → Reply} {r : Reply}
    (hf : f s.quiet.beginHandling = r) (hp : r.state.port = s.port) :
    ∃ p, s.request code seq f = { r.state.endHandling s.handling with port := p } ∧
      s.answered { r.state.endHandling s.handling with port := p } code seq r.status r.body := by
  subst hf
  refine ⟨(s.quiet.serve code seq f).port, ?_, ?_⟩
  · rw [State.request_ready h]; exact State.serve_shape _ _ _ _
  · have := State.serve_answered s.quiet code seq f hp
    rw [State.serve_shape] at this
    unfold State.answered State.formed at *
    exact this

/-- A ready request whose block changes nothing is answered at once (R211, R213, R214). -/
theorem State.request_same {s : State} (h : s.ready) (h0 : s.store.openAbove s.store.called = []) (code seq : Nat)
    {f : State → Reply} {st : Status} {b : Body} (hf : f s.quiet.beginHandling = ⟨s.quiet.beginHandling, st, b⟩) :
    s.request code seq f = s.answerOnly code seq st b := by
  rw [State.request_ready h]
  unfold State.serve
  simp only [hf]
  simp [h0, State.respond, State.answerOnly, State.formed, State.quiet, State.beginHandling, State.endHandling]

/-! ### The notice queue (R215, R216) -/

/-- Raising a notice leaves everything but the notice queue as it was. -/
theorem State.raise_shape (s : State) (u : Subject) (d : Detail) :
    s.raise u d = { s with notices := s.notices.take s.awaited u d } := rfl

/-- A notice past a commit point waits for its groups, in its place (R194, R215). -/
theorem NoticeQueue.take_cons (q : NoticeQueue) (n : Nat) (l : List Nat) (u : Subject) (d : Detail) :
    q.take (n :: l) u d = { q with later := q.later ++ [⟨n :: l, q.entries.length, u, d⟩] } := rfl

/-- Raising a notice leaves the late notices as they were. -/
@[simp] theorem NoticeQueue.raise_later (q : NoticeQueue) (u : Subject) (d : Detail) : (q.raise u d).later = q.later := by
  unfold NoticeQueue.raise; dsimp only; split <;> [rfl; split] <;> [rfl; split] <;> rfl

/-- What raising a notice does to the queue: replace in place, count a dropped one, append, or append OVERFLOW. -/
theorem NoticeQueue.raise_cases (q : NoticeQueue) (u : Subject) (d : Detail) :
    ((∃ e ∈ q.entries, e.detail.kind = d.kind ∧ e.subject = u) ∧
        q.raise u d = { q with entries := replaceDetail d.kind u d ((q.raised + 1) % 65536) q.entries
                               raised := (q.raised + 1) % 65536 }) ∨
      ((∀ e ∈ q.entries, ¬ (e.detail.kind = d.kind ∧ e.subject = u)) ∧
        ((q.dropping = true ∧ q.raise u d = { q with entries := countDropped q.episode q.entries }) ∨
          (q.dropping = false ∧ q.entries.length < 31 ∧
            q.raise u d = { q with entries := q.entries ++ [⟨u, d, (q.raised + 1) % 65536⟩]
                                   raised := (q.raised + 1) % 65536 }) ∨
          (q.dropping = false ∧ 31 ≤ q.entries.length ∧
            q.raise u d =
              { q with
                entries := q.entries ++ [⟨.num ((q.episode + 1) % 256), .overflow 1, (q.raised + 1) % 65536⟩]
                dropping := true, raised := (q.raised + 1) % 65536, episode := (q.episode + 1) % 256 }))) := by
  unfold NoticeQueue.raise
  simp only [Notice.is]
  by_cases h : q.entries.any (fun e => e.detail.kind == d.kind && e.subject == u) = true
  · left
    refine ⟨by simpa using h, ?_⟩
    simp [h]
  · right
    have h' : ∀ e ∈ q.entries, ¬ (e.detail.kind = d.kind ∧ e.subject = u) := by simpa using h
    refine ⟨h', ?_⟩
    have hf : (q.entries.any fun e => e.detail.kind == d.kind && e.subject == u) = false := by
      simpa using h
    cases hd : q.dropping
    · by_cases hl : q.entries.length < 31
      · simp [hf, hl]
      · simp [hf, hl]; omega
    · simp [hf]

/-- Behind every entry, a notice is raised as R215 and R216 say of the tail. -/
theorem NoticeQueue.raiseAt_length (q : NoticeQueue) (u : Subject) (d : Detail) :
    q.raiseAt q.entries.length u d = q.raise u d := by
  unfold NoticeQueue.raiseAt
  split
  · rename_i h
    simp only [NoticeQueue.adds, Bool.and_eq_true, Bool.not_eq_true', decide_eq_true_eq] at h
    obtain ⟨⟨h1, h2⟩, h3⟩ := h
    unfold NoticeQueue.raise
    simp [h1, h2, h3]
  · rfl

/-- With no notice held, one that waits for no group is raised at the tail (R215). -/
theorem NoticeQueue.take_nil {q : NoticeQueue} (h : q.later = []) (u : Subject) (d : Detail) :
    q.take [] u d = q.raise u d := by
  have hr : ({ q.raise u d with later := [] } : NoticeQueue) = q.raise u d := by
    rw [← h, ← NoticeQueue.raise_later q u d]
  unfold NoticeQueue.take NoticeQueue.settle
  by_cases ha : q.adds u d = true <;> simp [h, ha, NoticeQueue.raiseAt_length, hr]

/-- What raising a notice in its place leaves: the queue that `raise` leaves but for the place of an entry added, and held
notices that were held before, some moved on by one. -/
theorem NoticeQueue.settle_cases (q : NoticeQueue) (p : Nat) (a b : List LateNotice) (u : Subject) (d : Detail) :
    (∃ i, { q.settle p a b u d with later := [] } = { q.raiseAt i u d with later := [] }) ∧
      ∀ n ∈ (q.settle p a b u d).later, ∃ m ∈ a ++ b, n.detail = m.detail ∧ n.subject = m.subject ∧ n.after = m.after := by
  unfold NoticeQueue.settle
  dsimp only
  by_cases ha : q.adds u d = true
  · rw [if_pos ha]
    refine ⟨⟨_, rfl⟩, fun n hn => ?_⟩
    rcases List.mem_append.1 hn with hn | hn
    · exact ⟨n, List.mem_append_left _ (List.takeWhile_subset _ hn), rfl, rfl, rfl⟩
    · obtain ⟨m, hm, rfl⟩ := List.mem_map.1 hn
      refine ⟨m, ?_, rfl, rfl, rfl⟩
      rcases List.mem_append.1 hm with hm | hm
      · exact List.mem_append_left _ (List.dropWhile_subset _ (List.mem_of_mem_filter hm))
      · exact List.mem_append_right _ hm
  · rw [if_neg ha]
    refine ⟨⟨0, by simp [NoticeQueue.raiseAt, ha]⟩, fun n hn => ⟨n, ?_, rfl, rfl, rfl⟩⟩
    rcases List.mem_append.1 hn with hn | hn
    · refine List.mem_append_left _ ?_
      split at hn
      · exact List.mem_of_mem_filter hn
      · exact hn
    · exact List.mem_append_right _ hn

end Sys2Proof.Machine
end

