-- ==== Sys2Proof/Laws/Frames.lean ====
section
/-!
SUPPORT. What each shared operation leaves as it was. `s.within l t` says that `t` differs from `s` in the fields of `l` at
most; one lemma for each operation gives its fields, and a proof cites `h .lots (by decide)` for one field.
-/

namespace Sys2Proof.Machine

/-- The fields of the state. -/
inductive Field where
  | pending | phase | cause | pfail | port | notices | head | channels | lots | jobs | seqCounter | day | rolls | media
  | check | editions | prices | pricesBad | stripMode | overhead | merged | store | handling | out | fresh
deriving DecidableEq

/-- Two states agree in a field. -/
def Field.same (s t : State) : Field → Prop
  | .pending => t.pending = s.pending
  | .phase => t.phase = s.phase
  | .cause => t.cause = s.cause
  | .pfail => t.pfail = s.pfail
  | .port => t.port = s.port
  | .notices => t.notices = s.notices
  | .head => t.head = s.head
  | .channels => t.channels = s.channels
  | .lots => t.lots = s.lots
  | .jobs => t.jobs = s.jobs
  | .seqCounter => t.seqCounter = s.seqCounter
  | .day => t.day = s.day
  | .rolls => t.rolls = s.rolls
  | .media => t.media = s.media
  | .check => t.check = s.check
  | .editions => t.editions = s.editions
  | .prices => t.prices = s.prices
  | .pricesBad => t.pricesBad = s.pricesBad
  | .stripMode => t.stripMode = s.stripMode
  | .overhead => t.overhead = s.overhead
  | .merged => t.merged = s.merged
  | .store => t.store = s.store
  | .handling => t.handling = s.handling
  | .out => t.out = s.out
  | .fresh => t.fresh = s.fresh

/-- `t` differs from `s` in the fields of `l` at most. -/
def State.within (s : State) (l : List Field) (t : State) : Prop := ∀ f, f ∉ l → f.same s t

theorem Field.same_refl (s : State) (f : Field) : f.same s s := by cases f <;> rfl

theorem Field.same_trans {s t u : State} {f : Field} (h : f.same s t) (k : f.same t u) : f.same s u := by
  cases f <;> exact Eq.trans k h

theorem State.within_refl (s : State) (l : List Field) : s.within l s := fun f _ => f.same_refl s

theorem State.within.trans {s t u : State} {l : List Field} (h : s.within l t) (k : t.within l u) : s.within l u :=
  fun f hf => Field.same_trans (h f hf) (k f hf)

theorem State.within.mono {s t : State} {l m : List Field} (h : s.within l t) (hl : l ⊆ m) : s.within m t :=
  fun f hf => h f fun hm => hf (hl hm)

/-- Two steps one after the other, each with its own fields. -/
theorem State.within.next {s t u : State} {l m : List Field} (h : s.within l t) (n : List Field) (k : t.within m u)
    (hl : l ⊆ n := by decide) (hm : m ⊆ n := by decide) : s.within n u := (h.mono hl).trans (k.mono hm)

theorem within_foldl {α : Type} {l : List Field} (f : State → α → State) (h : ∀ (s : State) (a : α), s.within l (f s a)) (as : List α)
    (s : State) : s.within l (as.foldl f s) := by
  induction as generalizing s with
  | nil => exact s.within_refl l
  | cons a as ih => exact (h s a).trans (ih _)

theorem within_ite {s t u : State} {l : List Field} {p : Prop} [Decidable p] (h : s.within l t) (k : s.within l u) :
    s.within l (if p then t else u) := by split <;> assumption

/-- Two states that agree in every field are equal. -/
theorem State.within_nil {s t : State} (h : s.within [] t) : t = s :=
  State.ext (h .pending (by decide)) (h .phase (by decide)) (h .cause (by decide)) (h .pfail (by decide))
    (h .port (by decide)) (h .notices (by decide)) (h .head (by decide)) (h .channels (by decide)) (h .lots (by decide))
    (h .jobs (by decide)) (h .seqCounter (by decide)) (h .day (by decide)) (h .rolls (by decide)) (h .media (by decide))
    (h .check (by decide)) (h .editions (by decide)) (h .prices (by decide)) (h .pricesBad (by decide))
    (h .stripMode (by decide)) (h .overhead (by decide)) (h .merged (by decide)) (h .store (by decide)) (h .handling (by decide))
    (h .out (by decide)) (h .fresh (by decide))

variable (s : State)

/-! ### Writing records (Machine/Ops.lean) -/

theorem State.setJob_within (j : Job) : s.within [.jobs, .store] (s.setJob j) := by
  intro f hf; cases f <;> simp_all [Field.same]
theorem State.removeJob_within (k : Nat) : s.within [.jobs, .store] (s.removeJob k) := by
  intro f hf; cases f <;> simp_all [Field.same]
theorem State.modJob_within (k : Nat) (g : Job → Job) : s.within [.jobs, .store] (s.modJob k g) := by
  unfold State.modJob; split
  · exact s.setJob_within _
  · exact s.within_refl _
theorem State.setLot_within (x : Lot) : s.within [.lots, .store] (s.setLot x) := by
  intro f hf; cases f <;> simp_all [Field.same]
theorem State.setRoll_within (x : Roll) : s.within [.rolls, .store] (s.setRoll x) := by
  intro f hf; cases f <;> simp_all [Field.same]
theorem State.modRoll_within (k : Nat) (g : Roll → Roll) : s.within [.rolls, .store] (s.modRoll k g) := by
  unfold State.modRoll; split
  · exact s.setRoll_within _
  · exact s.within_refl _
theorem State.setEdition_within (x : Edition) : s.within [.editions, .store] (s.setEdition x) := by
  intro f hf; cases f <;> simp_all [Field.same]
theorem State.modChan_within (c : Chan) (g : Channel → Channel) : s.within [.channels, .store] (s.modChan c g) := by
  intro f hf; cases f <;> simp_all [Field.same]
theorem State.setOverhead_within (o : Overhead) : s.within [.overhead, .store] (s.setOverhead o) := by
  intro f hf; cases f <;> simp_all [Field.same]
theorem State.hand_within (l : List RecKey) : s.within [.store] (s.hand l) := by
  rw [s.hand_shape l]; intro f hf; cases f <;> first | rfl | simp_all
theorem State.commit_within (l : List RecKey) : s.within [.store, .handling] (s.commit l) := by
  intro f hf; cases f <;> simp_all [Field.same]
theorem State.commitRest_within (l : List RecKey) : s.within [.store, .handling] (s.commitRest l) := by
  unfold State.commitRest; exact within_ite (s.within_refl _) (s.commit_within _)
theorem State.gather_within : s.within [.handling] s.gather := by
  intro f hf; cases f <;> first | rfl | simp_all
theorem State.handGathered_within : s.within [.notices, .store, .handling] s.handGathered := by
  intro f hf; cases f <;> simp_all [Field.same]
/-- The start of a handling touches nothing but what the handling keeps. -/
theorem State.beginHandling_within : s.within [.handling] s.beginHandling := by
  intro f hf; cases f <;> first | rfl | simp_all
/-- The end of a handling touches nothing but what the handling kept. -/
theorem State.endHandling_within (h : Handling) : s.within [.handling] (s.endHandling h) := by
  intro f hf; cases f <;> first | rfl | simp_all
theorem State.markDirty_within (k : RecKey) : s.within [.store] (s.markDirty k) := by
  intro f hf; cases f <;> simp_all [Field.same]
theorem State.raise_within (u : Subject) (d : Detail) : s.within [.notices] (s.raise u d) := by
  intro f hf; cases f <;> first | rfl | simp_all
theorem State.raiseBehind_within (u : Subject) (d : Detail) : s.within [.notices, .handling] (s.raiseBehind u d) := by
  unfold State.raiseBehind; split
  · intro f hf; cases f <;> first | rfl | simp_all
  · exact (s.raise_within u d).mono (by decide)
theorem State.send_within (o : Output) : s.within [.out] (s.send o) := by
  intro f hf; cases f <;> first | rfl | simp_all
theorem State.setMedia_within (g : Media → Media) : s.within [.media] (s.setMedia g) := by
  intro f hf; cases f <;> first | rfl | simp_all
theorem State.moveInk_within (a b : Vec12) : s.within [.channels] (s.moveInk a b) := by
  intro f hf; cases f <;> first | rfl | simp_all

/-! ### Holdings (Machine/Holdings.lean) -/

theorem State.moveRoll_within (id a b : Nat) : s.within [.rolls, .store] (s.moveRoll id a b) := s.modRoll_within _ _
theorem State.moveChanInk_within (c : Chan) (a b : Nat) : s.within [.channels, .store] (s.moveChanInk c a b) :=
  s.modChan_within _ _
theorem State.release_within (j : Job) : s.within [.channels, .rolls, .store] (s.release j) :=
  (s.moveInk_within _ _).next _ (State.moveRoll_within _ _ _ _)

/-- What a withdrawal or a trimming may change: the job records, the reserved totals, the notices and the store. -/
def lawFields : List Field := [.jobs, .channels, .rolls, .notices, .store, .handling]

theorem State.withdraw_within (j : Job) (r : Resource) : s.within lawFields (s.withdraw j r) :=
  (((s.release_within j).next lawFields (State.setJob_within _ _)).next lawFields (State.raise_within _ _ _)).next lawFields
    (State.commit_within _ _)
theorem withdrawWhile_within (p : State → Bool) (q : Job → Bool) (r : Resource) (n : Nat) :
    s.within lawFields (withdrawWhile p q r n s) := by
  induction n generalizing s with
  | zero => exact s.within_refl _
  | succ n ih =>
    unfold withdrawWhile
    split
    · split
      · exact (s.withdraw_within _ r).trans (ih _)
      · exact s.within_refl _
    · exact s.within_refl _
theorem State.trimInk_within (c : Chan) : s.within lawFields (s.trimInk c) := by
  unfold State.trimInk
  split
  · exact s.within_refl _
  · exact within_ite (s.within_refl _)
      (((s.moveChanInk_within _ _ _).next lawFields (State.setJob_within _ _)).next lawFields (State.commit_within _ _))
theorem State.trimRoll_within (id : Nat) : s.within lawFields (s.trimRoll id) := by
  unfold State.trimRoll
  split
  · exact within_ite (s.within_refl _)
      (((s.moveRoll_within _ _ _).next lawFields (State.setJob_within _ _)).next lawFields (State.commit_within _ _))
  · exact s.within_refl _
theorem State.enforceInk_within (c : Chan) : s.within lawFields (s.enforceInk c) :=
  (withdrawWhile_within s _ _ _ _).trans (State.trimInk_within _ c)
theorem State.enforceRoll_within (id : Nat) : s.within lawFields (s.enforceRoll id) :=
  (withdrawWhile_within s _ _ _ _).trans (State.trimRoll_within _ id)
theorem State.withdrawRoll_within (id : Nat) : s.within lawFields (s.withdrawRoll id) := withdrawWhile_within s _ _ _ _

/-! ### Settlement (Machine/Settle.lean) -/

/-- What a settlement may change: the job, its edition, the accounts, the notices and the store. -/
def settleFields : List Field := [.jobs, .editions, .overhead, .merged, .notices, .store, .handling]

theorem State.costAndCarry_within (j : Job) : s.within settleFields (s.costAndCarry j) := by
  unfold State.costAndCarry
  simp only
  split
  · split
    · exact ((s.setOverhead_within _).next settleFields (State.setEdition_within _ _)).next settleFields
        (State.setJob_within _ _)
    · exact (s.setOverhead_within _).next settleFields (State.setJob_within _ _)
  · refine State.within.next (l := settleFields) ?_ settleFields (State.setJob_within _ _)
    split
    · exact (s.setOverhead_within _).next settleFields (State.setOverhead_within _ _)
    · exact (s.setOverhead_within _).mono (by decide)
theorem State.forgetMerged_within (tag : Nat) : s.within [.merged] (s.forgetMerged tag) := by
  intro f hf; cases f <;> first | rfl | simp_all
theorem State.raiseJobState_within (tag : Nat) : s.within [.notices, .handling] (s.raiseJobState tag) := by
  unfold State.raiseJobState; split
  · exact s.raiseBehind_within _ _
  · exact s.within_refl _
theorem State.settle_within (j : Job) : s.within settleFields (s.settle j) :=
  (((s.costAndCarry_within _).next settleFields (State.commit_within _ _)).next settleFields
    (State.forgetMerged_within _ _)).next settleFields (State.raiseJobState_within _ _)
theorem State.settleTest_within (tag : Nat) : s.within settleFields (s.settleTest tag) := by
  unfold State.settleTest; split
  · exact within_ite (s.settle_within _) (s.within_refl _)
  · exact s.within_refl _
theorem State.finish_within (tag : Nat) : s.within lawFields (s.finish tag) := by
  unfold State.finish; split
  · exact (((s.release_within _).next lawFields (State.setJob_within _ _)).next lawFields (State.commit_within _ _)).next
      lawFields (State.raiseJobState_within _ _)
  · exact s.within_refl _

/-- What a job that leaves PRINTING and settles may change. -/
def finishFields : List Field := [.jobs, .channels, .rolls, .editions, .overhead, .merged, .notices, .store, .handling]

theorem State.finishAndTest_within (tag : Nat) : s.within finishFields (s.finishAndTest tag) :=
  (s.finish_within tag).next finishFields (State.settleTest_within _ tag)

/-! ### Editions (Machine/EditionOps.lean) -/

theorem State.lockEdition_within (e : Edition) (c : LockCause) (h : Option Chan) :
    s.within [.editions, .notices, .store, .handling] (s.lockEdition e c h) :=
  ((s.setEdition_within _).next [.editions, .notices, .store, .handling] (State.raise_within _ _ _)).next _ (State.commit_within _ _)
theorem State.treatEdition_within (e : Edition) (c : LockCause) (h : Chan) :
    s.within [.editions, .notices, .store, .handling] (s.treatEdition e c h) := by
  unfold State.treatEdition; split
  · exact s.lockEdition_within _ _ _
  · exact s.lockEdition_within _ _ _
  · unfold State.discardProving; simp only; split
    · exact s.within_refl _
    · exact (s.setEdition_within _).next _ (State.commit_within _ _)
  · exact s.within_refl _
theorem State.treatChannel_within (c : LockCause) (h : Chan) :
    s.within [.editions, .notices, .store, .handling] (s.treatChannel c h) :=
  within_foldl _ (fun s e => s.treatEdition_within e c h) _ _

/-! ### Ink (Machine/Ink.lean) -/

theorem State.evalChannel_within (c : Chan) : s.within [.channels, .notices, .store] (s.evalChannel c) := by
  unfold State.evalChannel; simp only
  refine within_ite ((s.modChan_within _ _).mono (by decide)) ?_
  split
  · exact (s.modChan_within _ _).mono (by decide)
  · exact (s.modChan_within _ _).next _ (State.raise_within _ _ _)
  · exact (s.modChan_within _ _).next _ (State.raise_within _ _ _)
theorem State.evalExpired_within (c : Chan) : s.within [.channels, .store] (s.evalExpired c) := s.modChan_within _ _
theorem State.evalExpiry_within (l : Lot) : s.within [.lots, .notices, .store, .handling] (s.evalExpiry l) := by
  unfold State.evalExpiry
  exact within_ite
    (((s.setLot_within _).next [.lots, .notices, .store, .handling] (State.commit_within _ _)).next _ (State.raise_within _ _ _))
    (s.within_refl _)
theorem State.flagLotChanged_within (c : Chan) : s.within [.jobs, .store] (s.flagLotChanged c) := by
  unfold State.flagLotChanged; split
  · exact within_ite (s.setJob_within _) (s.within_refl _)
  · exact s.within_refl _

/-- What a lot change may change. -/
def changeFields : List Field := [.channels, .editions, .jobs, .notices, .store, .handling]

theorem State.lotChange_within (v : ChangeBy) (c : Chan) (a b : Nat) : s.within changeFields (s.lotChange v c a b) :=
  ((((s.evalExpired_within c).next changeFields (State.raise_within _ _ _)).next changeFields
    (State.treatChannel_within _ _ _)).next changeFields (State.flagLotChanged_within _ _)).next changeFields
    (State.commit_within _ _)
theorem State.nextActive_within (v : ChangeBy) (c : Chan) (t : TankSlot) (n : Nat) :
    s.within changeFields (s.nextActive v c t n) := by
  have h : s.within changeFields ((s.setActive c none).evalExpired c) :=
    (s.modChan_within _ _).next changeFields (State.evalExpired_within _ _)
  unfold State.nextActive; split
  · exact within_ite ((s.modChan_within _ _).next changeFields (State.lotChange_within _ _ _ _ _)) h
  · exact h
theorem State.exhaustActive_within (v : ChangeBy) (c : Chan) (t : TankSlot) (n : Nat) :
    s.within changeFields (s.exhaustActive v c t n) :=
  within_ite (s.nextActive_within v c t n) ((s.nextActive_within v c t n).next changeFields (State.commit_within _ _))
theorem State.book_within (k : Option SwathKind) (l : Lot) (v : Nat) : s.within [.lots, .store] (s.book k l v) :=
  (s.markDirty_within _).next _ (State.setLot_within _ _)

/-- What a draw may change. -/
def drawFields : List Field := .lots :: changeFields

theorem State.drawActive_within (k : Option SwathKind) (c : Chan) (v : Nat) :
    s.within drawFields (s.drawActive k c v).1 := by
  unfold State.drawActive; split
  · simp only; split
    · exact s.within_refl _
    · exact within_ite ((s.book_within _ _ _).next drawFields (State.exhaustActive_within _ _ _ _ _))
        ((s.book_within _ _ _).mono (by decide))
  · exact s.within_refl _
theorem State.drawChannel_within (k : Option SwathKind) (c : Chan) (v : Nat) :
    s.within drawFields (s.drawChannel k c v).1 := (s.drawActive_within k c v).trans (State.drawActive_within _ _ _ _)

/-- What an accepted frame may change. -/
def frameFields : List Field := .rolls :: .overhead :: .merged :: drawFields

theorem State.noteMerged_within (j : Job) (c : Chan) (p : List Part) : s.within [.merged] (s.noteMerged j c p) := by
  intro f hf; cases f <;> first | rfl | simp_all
theorem State.chargeJob_within (tag : Nat) (k : SwathKind) (c : Chan) (v : Nat) (p : List Part) :
    s.within [.channels, .jobs, .merged, .store] (s.chargeJob tag k c v p) := by
  unfold State.chargeJob; split
  · exact ((s.moveChanInk_within _ _ _).next [.channels, .jobs, .merged, .store] (State.setJob_within _ _)).next _
      (State.noteMerged_within _ _ _ _)
  · exact s.within_refl _
theorem State.chargeMaintenance_within (p : List Part) : s.within [.overhead, .store] (s.chargeMaintenance p) :=
  within_foldl _ (fun s _ => s.setOverhead_within _) _ _
theorem State.applyChannel_within (j : Option (Nat × SwathKind)) (c : Chan) (v n : Nat) :
    s.within frameFields (s.applyChannel j c v n) := by
  unfold State.applyChannel
  refine within_ite ((s.modChan_within _ _).mono (by decide)) ?_
  refine State.within.next (l := frameFields) ?_ frameFields (State.modChan_within _ _ _)
  cases j with
  | none => exact (s.drawChannel_within _ c v).next frameFields (State.chargeMaintenance_within _ _)
  | some p => exact (s.drawChannel_within _ c v).next frameFields (State.chargeJob_within _ _ _ _ _ _)
theorem State.afterDraws_within (v : Vec12) : s.within lawFields (s.afterDraws v) := by
  refine within_foldl _ (fun s c => ?_) _ _
  split
  · exact s.within_refl _
  · exact (s.evalChannel_within c).next lawFields (State.enforceInk_within _ c)
theorem State.applyFrame_within (j : Option (Nat × SwathKind)) (v n : Vec12) : s.within frameFields (s.applyFrame j v n) :=
  (within_foldl (l := frameFields) _ (fun s c => s.applyChannel_within j c (v.get c) (n.get c)) Chan.list s).next frameFields
    (State.afterDraws_within _ v)
theorem State.raiseUncovered_within (l : List Chan) : s.within [.notices] (s.raiseUncovered l) := by
  refine within_foldl _ (fun s c => ?_) _ _
  split
  · exact s.within_refl _
  · exact s.raise_within _ _

/-! ### Checks (Machine/CheckOps.lean) -/

theorem State.missCheck_within (tag : Nat) (w : MissedReason) :
    s.within [.jobs, .check, .notices, .store] (s.missCheck tag w) := by
  unfold State.missCheck; split
  · rename_i j _
    dsimp only
    have h : s.within [.jobs, .check, .notices, .store]
        ((s.setJob { j with strip := .resolved, flags := { j.flags with unchecked := true } }).raise (.num tag)
          (.checkMissed w)) := (s.setJob_within _).next _ (State.raise_within _ _ _)
    split
    · refine h.trans ?_
      intro f hf; cases f <;> first | rfl | simp_all
    · exact h
  · exact s.within_refl _
theorem State.missUnread_within (tag : Nat) (w : MissedReason) :
    s.within [.jobs, .check, .notices, .store] (s.missUnread tag w) := by
  unfold State.missUnread; split
  · exact within_ite (s.missCheck_within _ _) (s.within_refl _)
  · exact s.within_refl _

/-- What arming the sensor may change. -/
def armFields : List Field := [.jobs, .check, .editions, .overhead, .merged, .notices, .store, .handling, .out]

theorem State.supersede_within : s.within armFields s.supersede := by
  unfold State.supersede; split
  · rename_i a _
    refine State.within.next (l := armFields) ?_ armFields (State.settleTest_within _ _)
    refine State.within.next (l := armFields) ?_ armFields (State.commit_within _ _)
    refine ((s.missCheck_within a.tag .superseded).mono (by decide)).trans ?_
    intro f hf; cases f <;> first | rfl | simp_all [armFields]
  · exact s.within_refl _
theorem State.arrive_within (tag : Nat) : s.within armFields (s.arrive tag) := by
  unfold State.arrive; split
  · refine within_ite ?_ (s.within_refl _)
    unfold State.armFor; simp only; split
    · refine s.supersede_within.trans ?_
      intro f hf; cases f <;> first | rfl | simp_all [armFields]
    · exact s.supersede_within
  · exact s.within_refl _
theorem State.updateGains_within (st : Standard) (a b : Vec12) : s.within [.channels, .store] (s.updateGains st a b) :=
  within_foldl _ (fun s _ => s.modChan_within _ _) _ _

/-! ### Cuts (Machine/Cuts.lean) -/

theorem State.startCut_within : s.within [.media, .out] s.startCut := by
  unfold State.startCut; split
  · exact within_ite ((s.setMedia_within _).next _ (State.send_within _ _)) (s.within_refl _)
  · exact s.within_refl _
theorem State.planCuts_within (es : List CutEntry) : s.within [.media, .rolls, .store, .out] (s.planCuts es) := by
  unfold State.planCuts; split
  · rename_i last r _ _
    have h := (s.setMedia_within fun m => { m with queue := m.queue ++ es }).next [.media, .rolls, .store, .out]
      (State.setRoll_within _ { r with boundary := last.point })
    exact within_ite ((h.next [.media, .rolls, .store, .out] (State.send_within _ _)).next _ (State.startCut_within _)) h
  · exact s.within_refl _
theorem State.planJobCuts_within (tag : Nat) (es : List CutEntry) :
    s.within [.jobs, .media, .rolls, .store, .out] (s.planJobCuts tag es) :=
  (s.modJob_within _ _).next _ (State.planCuts_within _ _)

/-- What the end of a cut may change. -/
def cutFields : List Field :=
  [.jobs, .channels, .rolls, .editions, .overhead, .merged, .media, .check, .notices, .store, .handling, .out]

theorem State.attribute_within (e : CutEntry) (r : Roll) (n : Nat) (b : Bool) :
    s.within cutFields (s.attribute e r n b) := by
  unfold State.attribute; simp only; split
  · exact (s.setOverhead_within _).mono (by decide)
  · exact (s.modJob_within _ _).mono (by decide)
  · exact (s.modJob_within _ _).next cutFields (State.missUnread_within _ _ _)
  · exact s.within_refl _
theorem State.afterCut_within (e : CutEntry) : s.within finishFields (s.afterCut e) := by
  unfold State.afterCut; split
  · split
    · exact within_ite (s.finishAndTest_within _) ((s.settleTest_within _).mono (by decide))
    · exact s.within_refl _
  · exact s.within_refl _
theorem State.endCut_within (b : Bool) : s.within cutFields (s.endCut b) := by
  unfold State.endCut; split
  · exact (((((((s.setMedia_within _).next cutFields (State.setRoll_within _ _)).trans
      (State.attribute_within _ _ _ _ _)).next cutFields (State.setMedia_within _ _)).next cutFields
      (State.send_within _ _)).next cutFields (State.startCut_within _)).next cutFields (State.commit_within _ _)).next
      cutFields (State.afterCut_within _ _)
  · exact s.within_refl _
theorem State.followFeed_within (n : Nat) (b : Bool) : s.within [.jobs, .rolls, .store] (s.followFeed n b) := by
  unfold State.followFeed; split
  · exact (s.moveRoll_within _ _ _).next _ (State.setJob_within _ _)
  · exact s.within_refl _
theorem State.stripTest_within (n : Nat) : s.within cutFields (s.stripTest n) :=
  ((s.setMedia_within _).mono (by decide)).trans
    ((within_foldl (l := armFields) State.arrive (fun s t => s.arrive_within t) _ _).mono (by decide))
theorem State.moveFeed_within (r : Roll) (n : Nat) (b : Bool) : s.within [.jobs, .rolls, .store] (s.moveFeed r n b) :=
  within_ite (s.within_refl _)
    (((s.markDirty_within _).next [.jobs, .rolls, .store] (State.setRoll_within _ _)).next _ (State.followFeed_within _ _ _))
theorem State.applyFeed_within (r : Roll) (d : Int) : s.within cutFields (s.applyFeed r d) :=
  (((s.moveFeed_within r _ _).next cutFields (State.enforceRoll_within _ r.id)).next cutFields
    (State.startCut_within _)).trans (State.stripTest_within _ _)
theorem State.endActiveRoll_within (r : Roll) (b : Bool) : s.within cutFields (s.endActiveRoll r b) := by
  unfold State.endActiveRoll; simp only
  have h1 := ((s.setRoll_within (if b then { r with state := .shelved, slot := none }
    else { r with length := r.fed, state := .ended })).next cutFields (State.setMedia_within _ fun m =>
      { m with cutter := .idle, timer := none, queue := [] }))
  have h2 := (h1.trans (within_foldl (l := cutFields) (fun s t => s.modJob t Job.uncutNow)
    (fun s t => (s.modJob_within t _).mono (by decide)) (s.media.queue.filterMap CutEntry.owner).dedup _)).next cutFields
    (State.send_within _ (.stopAt none))
  have h3 : ∀ t : State, t.within cutFields t.endPrinting := by
    intro t; unfold State.endPrinting; split
    · exact (t.setJob_within _).next cutFields (State.finish_within _ _)
    · exact t.within_refl _
  have h4 := (h2.trans (h3 _)).trans (within_foldl (l := cutFields) (fun s t => (s.missUnread t .discarded).settleTest t)
    (fun s t => (s.missUnread_within _ _).next cutFields (State.settleTest_within _ _))
    ((s.media.queue.filterMap CutEntry.owner).dedup ++ (s.printing?.map Job.tag).toList).dedup _)
  have h5 := h4.trans (within_ite (p := b = true) ((State.withdrawRoll_within _ r.id).mono (by decide))
    ((State.enforceRoll_within _ r.id).mono (by decide)))
  exact (h5.next cutFields (State.raise_within _ _ _)).next cutFields (State.commitRest_within _ _)

end Sys2Proof.Machine
end

