-- ==== Sys2Proof/Laws/Holdings.lean ====
section
/-!
SUPPORT. What the shared operations write in the fields they change: channel records, reserved totals, channel states, and
the groups a withdrawal hands.
-/

namespace Sys2Proof.Machine

variable (s : State)

/-! ### Reading a record after an operation that leaves its table alone -/

theorem State.within.chan {s t : State} {l : List Field} (h : s.within l t) (hl : Field.channels ∉ l) (c : Chan) :
    t.chan c = s.chan c := congrArg (fun v => Vector.get v c) (h .channels hl)
theorem State.within.job {s t : State} {l : List Field} (h : s.within l t) (hl : Field.jobs ∉ l) (n : Nat) :
    t.job? n = s.job? n := congrArg (List.find? fun j : Job => j.tag == n) (h .jobs hl)
theorem State.within.lot {s t : State} {l : List Field} (h : s.within l t) (hl : Field.lots ∉ l) (n : Nat) :
    t.lot? n = s.lot? n := congrArg (List.find? fun x : Lot => x.code == n) (h .lots hl)
theorem State.within.roll {s t : State} {l : List Field} (h : s.within l t) (hl : Field.rolls ∉ l) (n : Nat) :
    t.roll? n = s.roll? n := congrArg (List.find? fun r : Roll => r.id == n) (h .rolls hl)
theorem State.within.edition {s t : State} {l : List Field} (h : s.within l t) (hl : Field.editions ∉ l) (n : Nat) :
    t.edition? n = s.edition? n := congrArg (List.find? fun e : Edition => e.id == n) (h .editions hl)

/-! ### Channel records -/

theorem get_getElem {α : Type} {n : Nat} (v : Vector α n) (c : Fin n) : v.get c = v[c.val] := rfl

theorem State.chan_modChan_self (c : Chan) (f : Channel → Channel) : (s.modChan c f).chan c = f (s.chan c) := by
  simp [State.chan, State.modChan, State.setChan, get_getElem]

theorem State.chan_modChan_ne {c d : Chan} (h : d ≠ c) (f : Channel → Channel) : (s.modChan c f).chan d = s.chan d := by
  have : c.val ≠ d.val := fun e => h (Fin.ext e.symm)
  simp [State.chan, State.modChan, State.setChan, get_getElem, this]

theorem State.chan_moveInk (a b : Vec12) (c : Chan) :
    (s.moveInk a b).chan c = { s.chan c with reserved := (s.chan c).reserved + b.get c - a.get c } := by
  simp [State.chan, State.moveInk, get_getElem]

/-- A release takes a job's reservation out of every reserved total (R10, R15). -/
theorem State.chan_release (j : Job) (c : Chan) :
    (s.release j).chan c = { s.chan c with reserved := (s.chan c).reserved - j.ink.get c } := by
  unfold State.release
  rw [(State.moveRoll_within _ _ _ _).chan (by decide), State.chan_moveInk]
  simp [Vec12.all, get_getElem]

/-- Re-evaluating a channel writes the state of its remaining total and nothing else of it (R29). -/
theorem State.chan_evalChannel_self (c : Chan) :
    (s.evalChannel c).chan c =
      { s.chan c with state := channelStateOf (s.remainingTotal c) (s.chan c).cfg.reserve } := by
  unfold State.evalChannel
  simp only
  split
  · exact s.chan_modChan_self c _
  · split
    · exact s.chan_modChan_self c _
    · rw [(State.raise_within _ _ _).chan (by decide)]; exact s.chan_modChan_self c _
    · rw [(State.raise_within _ _ _).chan (by decide)]; exact s.chan_modChan_self c _

/-! ### Rolls -/

/-- A modified roll record (R103). -/
theorem State.roll_modRoll_self {id : Nat} {r : Roll} (f : Roll → Roll) (ho : ordered Roll.id s.rolls)
    (h : s.roll? id = some r) (hf : (f r).id = r.id) : (s.modRoll id f).roll? id = some (f r) := by
  have hk : r.id = id := State.roll_key h
  unfold State.modRoll
  rw [h]
  have := State.roll_setRoll_self (x := f r) ho
  rw [hf, hk] at this
  exact this

theorem State.roll_modRoll_ne {id n : Nat} (f : Roll → Roll) (hf : ∀ r, (f r).id = r.id) (h : n ≠ id) :
    (s.modRoll id f).roll? n = s.roll? n := by
  unfold State.modRoll
  split
  · rename_i r hr
    exact State.roll_setRoll_ne (by rw [hf, State.roll_key hr]; exact h)
  · rfl

/-! ### Groups handed -/

theorem State.modRoll_hands {a : Store} {n : Nat} {s : State} (h : a.hands s.store n) (id : Nat) (f : Roll → Roll) :
    a.hands (s.modRoll id f).store n := by
  unfold State.modRoll; split
  · exact State.setRoll_hands h _
  · exact h

theorem State.modJob_hands {a : Store} {n : Nat} {s : State} (h : a.hands s.store n) (tag : Nat) (f : Job → Job) :
    a.hands (s.modJob tag f).store n := by
  unfold State.modJob; split
  · exact State.setJob_hands h _
  · exact h

theorem State.release_hands {a : Store} {n : Nat} {s : State} (h : a.hands s.store n) (j : Job) :
    a.hands (s.release j).store n := State.modRoll_hands (s := s.moveInk _ _) h _ _

/-- A withdrawal outside a gathering hands one commit group (R10, R194). -/
theorem State.withdraw_hands {a : Store} {n : Nat} {s : State} (h : a.hands s.store n) (hg : s.handling.gathered = none)
    (j : Job) (r : Resource) : a.hands (s.withdraw j r).store (n + 1) := by
  have hs := State.setJob_hands (State.release_hands h j) { j.unheld with state := .deferred, seqNo := none }
  refine State.commit_hands (s := ((s.release j).setJob _).raise _ _) hs ?_ _
  rw [State.raise_handling, State.setJob_handling, (s.release_within j) .handling (by decide)]; exact hg

/-- A withdrawal outside a gathering leaves the handling as it was. -/
theorem State.withdraw_handling {s : State} (hg : s.handling.gathered = none) (j : Job) (r : Resource) :
    (s.withdraw j r).handling = s.handling := by
  have h : (((s.release j).setJob { j.unheld with state := .deferred, seqNo := none }).raise (.num j.tag)
      (.withdrawn r)).handling = s.handling := by
    rw [State.raise_handling, State.setJob_handling, (s.release_within j) .handling (by decide)]
  unfold State.withdraw
  rw [State.commit_handling (by rw [h]; exact hg), h]

/-- Withdrawals outside a gathering hand one commit group each (R10). -/
theorem withdrawWhile_hands {a : Store} {n : Nat} {s : State} (h : a.hands s.store n) (hg : s.handling.gathered = none)
    (p : State → Bool) (q : Job → Bool) (r : Resource) (k : Nat) :
    ∃ m, m ≤ k ∧ a.hands (withdrawWhile p q r k s).store (n + m) ∧
      (withdrawWhile p q r k s).handling = s.handling := by
  induction k generalizing s n with
  | zero => exact ⟨0, le_refl _, h, rfl⟩
  | succ k ih =>
    unfold withdrawWhile
    split
    · split
      · rename_i j _
        obtain ⟨m, hm, hh, he⟩ := ih (State.withdraw_hands h hg j r) (by rw [State.withdraw_handling hg]; exact hg)
        exact ⟨m + 1, by omega, by rw [show n + (m + 1) = n + 1 + m by omega]; exact hh,
          he.trans (State.withdraw_handling hg j r)⟩
      · exact ⟨0, by omega, h, rfl⟩
    · exact ⟨0, by omega, h, rfl⟩

end Sys2Proof.Machine
end

