-- ==== Sys2Proof/Tests/Slice0.lean ====
section
/-!
SUPPORT. Tests: the refusals of the well-formedness check, the worked cases of the manual, one or two small tests for each
command, and a witness for every obligation that has hypotheses. Expected figures come from the chapters' worked cases or
were worked out by hand from the rules each test names.
-/

namespace Sys2Proof.Tests

open Sys2Proof Sys2Proof.Machine

/- One theorem after the other: the kernel evaluations below are many, and each would take a thread. -/
set_option Elab.async false

/-! ### Helpers -/

/-- The state after a command, and the state itself where the command does not go on. -/
def after (i : Instr) (s : State) : State :=
  match exec i s with
  | .next t => t
  | _ => s

/-- The status and the body of the response in the buffer, formed or pending. -/
def reply (s : State) : Option (Status × Body) :=
  match s.port.buffer with
  | .done r => some (r.status, r.body)
  | .pending _ _ st b _ => some (st, b)
  | .none => none

/-- The status of the response in the buffer, formed or pending. -/
def status (i : Instr) (s : State) : Option Status := (reply (after i s)).map Prod.fst

/-- No drops on any channel. -/
def dry : DropCounts := Vector.replicate 12 ⟨0, 0, 0⟩

/-- A lot in a slot of channel 0. -/
def lotIn (code fill remaining price : Nat) (slot : Option TankSlot) : Lot :=
  { code := code, channel := 0, product := 0x2C00, fill := fill, remaining := remaining, imageDrawn := fill - remaining,
    stripDrawn := 0, maintDrawn := 0, price := price, expiry := 30, location := slot,
    state := if slot.isSome then .loaded else .shelved, unpriced := false, uncertain := false, expired := false }

/-- A roll record 1,118 mm wide. -/
def rollOf (id : Nat) (st : RollState) (slot : Option RollSlot) (reserved : Nat) : Roll :=
  { id := id, product := 0x3100, width := 1118, length := 12000000, fed := 1000000, reserved := reserved,
    boundary := 900000, lastCut := 900000, lastTarget := 948000, price := 182000, unpriced := false, state := st,
    slot := slot, uncertain := false }

/-- A colour reference of one patch. -/
def house : Reference := ⟨Vec12.all 1024, Vec12.all 1400, [⟨5000, 0, 0⟩]⟩

/-- An edition over channel 0 with a limit of 10. -/
def editionOf (id : Nat) (st : EditionState) (ref : Option Reference) (pro : Option Provisional) : Edition :=
  { id := id, limit := 10, issued := 3, voided := 0, state := st, mask := 1#12, tolerance := 150, band := 48,
    reference := ref, provisional := pro, stale := false, causes := {}, generation := 4, printTotal := 100,
    wasteTotal := 0 }

/-- The fields of a job of two swaths that estimates 50,000 nL on channel 0. -/
def specOf (k : JobKind) (edition : Option Nat) (roll : Nat) : JobSpec :=
  { kind := k, edition := edition, roll := roll, lead := 1500, image := 70750, tail := 1500, swaths := 2,
    estimates := (Vec12.all 0).set 0 50000 }

/-- 95,000 nL on channel 0: 55,000 by R64 at gain 1024 and margin 110, and the strip allowance of 40,000. -/
def held : Vec12 := (Vec12.all 0).set 0 95000

/-- An ADMITTED job. -/
def admitted : Job :=
  { newJob 2 (specOf .proof none 0xB7) with state := .admitted, ink := held, rollRes := 78250, seqNo := some 1 }

/-- A DEFERRED job. -/
def deferred : Job := newJob 3 (specOf .proof none 0xB8)

/-- A PRINTING job of edition 9 at its first swath. -/
def printing : Job :=
  { newJob 1 (specOf .edition (some 9) 0xB7) with
    state := .printing, ink := held, rollRes := 78250, seqNo := some 2, gains := some (Vec12.all 1024),
    handling := some 25000, pLead := some 1000000, plannedEnd := some 1078250 }

/-- A FINISHING job of edition 9 whose strip is printed and whose strip-end cut is pending. -/
def finishing : Job :=
  { newJob 4 (specOf .edition (some 9) 0xB7) with
    state := .finishing, swathsLeft := 0, gains := some (Vec12.all 1024), handling := some 25000, seqNo := some 3,
    strip := .printed, cut := .pending, separated := true, printPiece := 73750,
    draws := [⟨0, 0x6A0001, 9080340, 40000⟩] }

/-- A SETTLED job of no edition. -/
def settled : Job := { newJob 5 (specOf .proof none 0xB7) with state := .settled, strip := .none, cut := .done }

/-- The strip-end cut of the finishing job. -/
def stripCut : CutEntry :=
  { kind := .stripEnd, point := 990000, target := 1038000, owner := some 4, stripStart := some 986000, armed := false }

/-- A channel without strip allowance. -/
def plainChannel : Channel := { cfg := { allowance := 0 } }

/-- Channel 0 with lots 0x6A0001, active, and 0x6A0002 in its slots. -/
def channel0 : Channel :=
  { cfg := { product := 0x2C00 }, slots := ⟨some 0x6A0001, some 0x6A0002, some .A⟩, reserved := 190000, state := .ready }

/-- The part in RUN with nothing printing: lots, two rolls, an ADMITTED, a DEFERRED and a SETTLED job, and an edition in
each state but LOCKED. -/
def calm : State :=
  { State.reset with
    phase := .run
    channels := (Vector.replicate 12 plainChannel).set 0 { channel0 with reserved := 95000 }
    lots := [lotIn 0x6A0001 500000000 400000000 7450 (some .A), lotIn 0x6A0002 300000000 300000000 7610 (some .B),
      lotIn 0x6A0003 300000000 200000000 7610 none]
    jobs := [admitted, deferred, settled]
    seqCounter := 3
    rolls := [rollOf 0xB7 .active (some .upper) 78250, rollOf 0xB8 .loaded (some .lower) 0, rollOf 0xB9 .shelved none 0]
    editions := [editionOf 9 .opened (some house) none, editionOf 10 .proving none (some ⟨house, 4⟩),
      editionOf 11 .closed none none]
    prices := PriceTable.withEntries {} [⟨.ink, 0x2C00, 7450, true⟩, ⟨.handling, 1, 25000, false⟩] }

/-- The part in RUN with a job printing and one finishing, whose strip the sensor is armed for. -/
def busyPart : State :=
  { calm with
    channels := (Vector.replicate 12 plainChannel).set 0 channel0
    jobs := [printing, admitted, deferred, finishing, settled]
    rolls := [rollOf 0xB7 .active (some .upper) 156500, rollOf 0xB8 .loaded (some .lower) 0, rollOf 0xB9 .shelved none 0]
    media := { calm.media with queue := [stripCut] }
    check := { calm.check with arm := some ⟨1, 4⟩, armSeq := 1 } }

/-- The busy part with its cutter in another state. -/
def cutting (c : CutterState) : State :=
  { busyPart with media := { busyPart.media with cutter := c, timer := if c = .cutting then some 3000 else none } }

/-- The busy part in another phase. -/
def inPhase (p : Phase) : State := { busyPart with phase := p }

/-- The busy part with a request that waits for commit group 1. -/
def waiting : State := { busyPart with port := { buffer := .pending 0x26 7 .ok .empty [1], dropped := 0 } }

/-! ### Well-formedness: an ill-formed term for each check -/

/-- A SUBMIT JOB that fits its fields. -/
def submit : SubmitReq :=
  { kind := 1, editionSupplied := false, tag := 8, edition := 0, roll := 0xB7, lead := 1500, image := 70750, tail := 1500,
    swaths := 2, estimates := (Vec12.all 0).set 0 50000 }

/-- A SET CHANNEL that fits its fields. -/
def setting : ChannelReq :=
  { channel := 1, product := 0x2C01, vS := 20, vM := 45, vL := 80, weight := 4096, gain := 1024, margin := 110,
    allowance := 40000, reserve := 15000000 }

/-- An INSTALL LOT that fits its fields. -/
def install : InstallReq := { channel := 1, slot := 0, code := 0x6B0001, product := 0x2C01, fill := 1000, expiry := 30 }

/-- A LOAD ROLL that fits its fields. -/
def load : LoadRollReq := { slot := 1, product := 0x3100, width := 1118, id := 0xBA, length := 12000000 }

/-- A SET CHECK PLAN that fits its fields. -/
def planReq : PlanReq :=
  { interval := 5, cadence := 1, stripSwaths := 2, tolerance := 150, densities := Vec12.all 1400, labs := [⟨5000, 0, 0⟩] }

/-- A CREATE EDITION that fits its fields. -/
def create : EditionReq := { id := 12, limit := 10, mask := 1, tolerance := 65535, band := 65535, reference := some house }

/-- A READING that fits its fields and matches the arm record of the busy part. -/
def inTolerance : ReadingMsg := { seq := 1, status := 0, densities := Vec12.all 1400, labs := [⟨5000, 0, 0⟩] }

theorem test_well_formed_terms :
    ([.submitJob 1 submit, .setChannel 1 setting, .installLot 1 install, .loadRoll 1 load,
      .setMediaGeometry 1 defaultGeometry, .setCheckPlan 1 planReq, .createEdition 1 create,
      .writePrice 1 ⟨1, true, 65535, 4294967295⟩, .swath 1 0 true dry, .purge false dry, .reading inTolerance,
      .feed (-2147483648), .restoreEnd ⟨[.plan], false⟩, .storeWriteFailure (.images 1 [.plan])] : List Instr).all
      Instr.wellFormed = true := by decide +kernel

theorem test_ill_formed_submit_job :
    ([{ submit with kind := 256 }, { submit with tag := 4294967296 }, { submit with edition := 4294967296 },
      { submit with roll := 4294967296 }, { submit with lead := 4294967296 }, { submit with image := 4294967296 },
      { submit with tail := 4294967296 }, { submit with swaths := 65536 },
      { submit with estimates := (Vec12.all 0).set 11 4294967296 }] : List SubmitReq).all
      (fun r => !(Instr.submitJob 1 r).wellFormed) = true := by decide +kernel

theorem test_ill_formed_set_channel :
    ([{ setting with channel := 256 }, { setting with product := 65536 }, { setting with vS := 256 },
      { setting with vM := 256 }, { setting with vL := 256 }, { setting with weight := 65536 },
      { setting with gain := 65536 }, { setting with margin := 256 }, { setting with allowance := 4294967296 },
      { setting with reserve := 4294967296 }] : List ChannelReq).all
      (fun r => !(Instr.setChannel 1 r).wellFormed) = true := by decide +kernel

theorem test_ill_formed_install_lot :
    ([{ install with channel := 256 }, { install with slot := 256 }, { install with code := 281474976710656 },
      { install with product := 65536 }, { install with fill := 4294967296 },
      { install with expiry := 65536 }] : List InstallReq).all
      (fun r => !(Instr.installLot 1 r).wellFormed) = true := by decide +kernel

theorem test_ill_formed_load_roll :
    ([{ load with slot := 256 }, { load with product := 65536 }, { load with width := 65536 },
      { load with id := 4294967296 }, { load with length := 4294967296 }] : List LoadRollReq).all
      (fun r => !(Instr.loadRoll 1 r).wellFormed) = true := by decide +kernel

theorem test_ill_formed_geometry :
    ([{ defaultGeometry with sensorOffset := 4294967296 }, { defaultGeometry with cutterOffset := 4294967296 },
      { defaultGeometry with stripGap := 4294967296 }, { defaultGeometry with stripLength := 4294967296 },
      { defaultGeometry with leadTrim := 4294967296 }, { defaultGeometry with cutTimeout := 4294967296 }] : List Geometry).all
      (fun g => !(Instr.setMediaGeometry 1 g).wellFormed) = true := by decide +kernel

theorem test_ill_formed_check_plan :
    ([{ planReq with interval := 256 }, { planReq with cadence := 256 }, { planReq with stripSwaths := 256 },
      { planReq with tolerance := 65536 }, { planReq with densities := Vec12.all 65536 },
      { planReq with labs := [⟨32768, 0, 0⟩] }, { planReq with labs := [⟨0, -32769, 0⟩] },
      { planReq with labs := [⟨0, 0, 32768⟩] }, { planReq with labs := List.replicate 256 ⟨0, 0, 0⟩ }] : List PlanReq).all
      (fun r => !(Instr.setCheckPlan 1 r).wellFormed) = true := by decide +kernel

theorem test_ill_formed_create_edition :
    ([{ create with id := 4294967296 }, { create with limit := 65536 }, { create with mask := 65536 },
      { create with tolerance := 65536 }, { create with band := 65536 },
      { create with reference := some { house with gains := Vec12.all 65536 } },
      { create with reference := some { house with densities := Vec12.all 65536 } },
      { create with reference := some { house with labs := [⟨0, 0, 32768⟩] } }] : List EditionReq).all
      (fun r => !(Instr.createEdition 1 r).wellFormed) = true := by decide +kernel

theorem test_ill_formed_requests :
    ([.submitJob 256 submit, .admitJob 256 1, .admitJob 1 4294967296, .beginJob 1 4294967296, .cancelJob 1 4294967296 0,
      .cancelJob 1 1 256, .readJob 1 4294967296, .retireJob 1 4294967296, .readChannel 1 256, .removeLot 1 256 0,
      .removeLot 1 0 256, .amendLot 1 281474976710656 0, .amendLot 1 1 4294967296, .retireLot 1 281474976710656,
      .readLot 1 281474976710656, .setDay 1 65536, .setRowMask 1 256 0 true true, .setRowMask 1 0 256 true true,
      .substituteRow 1 256 0 0, .substituteRow 1 0 256 0, .substituteRow 1 0 0 256, .selectRoll 1 4294967296,
      .unloadRoll 1 4294967296, .retireRoll 1 4294967296, .readRoll 1 4294967296, .readMedia 256, .clearJamRetry 256,
      .clearJamSkip 256, .forceCheck 256, .readCheckState 256] : List Instr).all (fun i => !i.wellFormed) = true := by
  decide +kernel

theorem test_ill_formed_later_requests :
    ([.adoptReference 1 4294967296, .rejectReference 1 4294967296, .closeEdition 1 4294967296, .retireEdition 1 4294967296,
      .readEdition 1 4294967296, .writePrice 1 ⟨256, true, 1, 1⟩, .writePrice 1 ⟨1, true, 65536, 1⟩,
      .writePrice 1 ⟨1, true, 1, 4294967296⟩, .removePrice 1 256 1, .removePrice 1 1 65536, .lockPrices 256,
      .unlockPrices 256, .readPrices 256, .setStripAccounting 256 0, .setStripAccounting 1 256, .readOverhead 256,
      .clearOverhead 256, .readNotices 256, .identify 256, .readStatus 256] : List Instr).all
      (fun i => !i.wellFormed) = true := by decide +kernel

theorem test_ill_formed_messages_and_events :
    ([.swath 4294967296 0 true dry, .swath 1 256 true dry, .swath 1 0 true (Vector.replicate 12 ⟨16777216, 0, 0⟩),
      .purge true (Vector.replicate 12 ⟨0, 16777216, 0⟩), .purge true (Vector.replicate 12 ⟨0, 0, 16777216⟩),
      .rowStatus 256 0 0, .rowStatus 0 256 0, .rowStatus 0 0 256, .feed 2147483648, .feed (-2147483649), .cutFault 256,
      .rollPresent 256 0, .rollPresent 0 256, .rollEnd 256, .reading { inTolerance with seq := 256 },
      .reading { inTolerance with status := 256 }, .reading { inTolerance with densities := Vec12.all 65536 },
      .reading { inTolerance with labs := List.replicate 9 ⟨0, 0, 0⟩ },
      .reading { inTolerance with labs := [⟨0, 0, -32769⟩] }, .restoreEnd ⟨[.plan, .plan], false⟩,
      .storeWriteFailure (.images 1 []), .storeWriteFailure (.images 1 [.plan, .plan])] : List Instr).all
      (fun i => !i.wellFormed) = true := by decide +kernel

/-! ### The worked cases of the manual -/

/-- 3.1.1: a draw of 717 nL with a candidate residue of 28,875,000; the same counts again draw 718 nL and leave
4,790,000. -/
theorem test_draw_of_section_3_1_1 :
    let ch : Channel := { cfg := { vS := 15, vM := 42, vL := 75, weight := 4177 }, residue := 12000000 }
    let next : Channel := { ch with residue := 28875000 }
    let d : Drops := ⟨120000, 80000, 25000⟩
    ch.draw d = 717 ∧ ch.candidate d = 28875000 ∧ next.draw d = 718 ∧ next.candidate d = 4790000 := by decide +kernel

/-- 3.5.1: the reservation at admission and, at gain 1072, at BEGIN JOB. -/
theorem test_reservation_of_section_3_5_1 :
    baseReservation 8400000 1061 110 + 40000 = 9613868 ∧ baseReservation 8400000 1072 110 + 40000 = 9713125 := by decide

/-- 3.6.1: channel 2 and its two lots. -/
def purgePart : State :=
  { calm with
    channels := calm.channels.set 2 { plainChannel with slots := ⟨some 0x5C0020, some 0x5C0021, some .A⟩, state := .ready }
    lots := [{ lotIn 0x5C0020 3000 3000 7450 (some .A) with channel := 2 },
      { lotIn 0x5C0021 90000000 90000000 7610 (some .B) with channel := 2 }] }

/-- 3.6.1: the purge exhausts the first lot, takes 200 nL from the second and costs 23,872,000. -/
theorem test_purge_of_section_3_6_1 :
    let t := after (.purge true (dry.set 2 ⟨0, 0, 400000⟩)) purgePart
    (t.lots.map fun l => (l.remaining, l.maintDrawn, l.state)) = [(0, 3000, .exhausted), (89999800, 200, .loaded)] ∧
      t.overhead.maintenance = 23872000 ∧ (t.chan 2).slots.active = some .B ∧ (t.chan 2).residue = 0 ∧
      t.head.purgeToggle = some false := by decide +kernel

/-- 7.6.1: the second of three patches is the worst, with a squared difference of 30,000, a DRIFT of 1.73. -/
theorem test_verdict_of_section_7_6_1 :
    let m : List Lab := [⟨5040, 290, -1795⟩, ⟨7100, 100, 100⟩, ⟨2510, -1210, -12800⟩]
    let r : List Lab := [⟨5012, 312, -1840⟩, ⟨7000, 0, 0⟩, ⟨2500, -1200, -12700⟩]
    labDiffs m r = [3293, 30000, 10200] ∧ worstPatch (labDiffs m r) = 2 ∧ verdictOf 30000 150 = .drift ∧
      Nat.sqrt 30000 = 173 ∧ verdictOf 10200 150 = .pass ∧ clampLab ⟨2510, -1210, -13000⟩ = ⟨2510, -1210, -12800⟩ := by
  decide +kernel

/-- 7.7.1: the new gains of the four channels, and 952 on channel 5 with a band of 48. -/
theorem test_gains_of_section_7_7_1 :
    newGain 1040 1480 1422 (some (1024, 64)) = 1072 ∧ newGain 980 1200 1300 (some (1000, 64)) = 948 ∧
      newGain 980 1200 1300 (some (1000, 48)) = 952 ∧ gainHeld 1480 1477 = true ∧ gainHeld 900 0 = true := by decide

/-- 9.7: the finished job, with its three draw list entries. -/
def costed : Job :=
  { finishing with
    printPiece := 73750, stripPiece := 4500, strip := .resolved, cut := .done
    draws := [⟨0, 0x6A0001, 9080340, 40000⟩, ⟨0, 0x6A0002, 310005, 0⟩, ⟨1, 0x6B0001, 3962118, 40000⟩] }

/-- The busy part with the finished job of 9.7 in a strip accounting mode. -/
def costPart (m : StripMode) : State :=
  { busyPart with
    jobs := [printing, admitted, deferred, costed, settled], stripMode := m
    lots := busyPart.lots ++ [lotIn 0x6B0001 300000000 200000000 6980 none] }

/-- 9.7.1 and 9.7.2: the cost records in the two modes, and the overhead strips. -/
theorem test_costs_of_section_9_7 :
    (costPart .job).costOf costed = ⟨98240, 159220, 25000, 282460⟩ ∧
      (costPart .overhead).costOf costed = ⟨97663, 150064, 25000, 272727⟩ ∧
      (costPart .overhead).stripOverhead costed = 973362000000 ∧ (costPart .job).stripOverhead costed = 0 := by
  decide +kernel

/-- The published check values of the two generators over the digits 1 to 9, and the checksum of an empty Price Table
(R177, R222). -/
theorem test_crc_check_values :
    let digits : List Byte := [0x31, 0x32, 0x33, 0x34, 0x35, 0x36, 0x37, 0x38, 0x39]
    crc16 digits = 0x29B1#16 ∧ crc32 digits = 0xCBF43926#32 ∧ checksumOf [] = 0 := by decide +kernel

/-! ### One step of each command -/

/-- R7: a job whose two parts fit is ADMITTED with the next sequence number. -/
theorem test_submit_job :
    let t := after (.submitJob 1 submit) calm
    (t.job? 8).map (fun j => (j.state, j.seqNo, j.rollRes)) = some (.admitted, some 4, 78250) ∧
      (t.chan 0).reserved = 190000 := by decide +kernel

theorem test_submit_job_refused :
    status (.submitJob 1 { submit with tag := 0, kind := 9 }) calm = some .badKey ∧
      status (.submitJob 1 { submit with lead := 0, tail := 0, image := 9999 }) calm = some .badParam ∧
      status (.submitJob 1 { submit with tag := 2 }) calm = some .tagExists ∧
      status (.submitJob 1 { submit with roll := 0xB9 }) calm = some .notLoaded := by decide +kernel

theorem test_admit_job :
    ((after (.admitJob 1 3) calm).job? 3).map Job.state = some .admitted ∧
      status (.admitJob 1 2) calm = some .wrongState := by decide +kernel

/-- R13: P_lead is the larger of F and the last boundary, and the planned end lies 78,250 beyond it. -/
theorem test_begin_job :
    ((after (.beginJob 1 2) calm).job? 2).map (fun j => (j.state, j.pLead, j.plannedEnd)) =
      some (.printing, some 1000000, some 1078250) := by decide +kernel

theorem test_begin_job_busy : status (.beginJob 1 2) busyPart = some .busy := by decide +kernel

/-- R18: the SEPARATE cut of an aborted job lies its tail beyond F. -/
theorem test_cancel_printing_job :
    let t := after (.cancelJob 1 1 0) busyPart
    (t.job? 1).map (fun j => (j.state, j.cause, j.flags.abortPending)) = some (.finishing, some .cancelled, true) ∧
      (t.media.queue.map fun e => e.point) = [990000, 1001500] := by decide +kernel

theorem test_cancel_admitted_job :
    let t := after (.cancelJob 1 2 1) calm
    t.job? 2 = none ∧ (t.chan 0).reserved = 0 ∧ (t.roll? 0xB7).map Roll.reserved = some 0 := by decide +kernel

theorem test_read_job :
    reply (after (.readJob 1 0) calm) =
      some (.ok, .jobList [(2, .proof, .admitted), (3, .proof, .deferred), (5, .proof, .settled)]) := by decide +kernel

theorem test_retire_job :
    (after (.retireJob 1 5) calm).job? 5 = none ∧ status (.retireJob 1 3) calm = some .wrongState := by decide +kernel

/-- R31: a gain below its range is written as 768. -/
theorem test_set_channel :
    ((after (.setChannel 1 { setting with gain := 1 }) calm).chan 1).cfg.gain = 768 ∧
      status (.setChannel 1 { setting with gain := 1 }) calm = some .okClamped := by decide +kernel

theorem test_read_channel :
    status (.readChannel 1 12) calm = some .badParam ∧ status (.readChannel 1 11) calm = some .ok := by decide +kernel

/-- R37: a shelved lot is resumed with its remaining volume. -/
theorem test_install_lot :
    let s : State := { calm with channels := calm.channels.set 1 { plainChannel with cfg := { product := 0x2C00 } } }
    let t := after (.installLot 1 { install with code := 0x6A0003, product := 0x2C00, fill := 300000000 }) s
    (t.lot? 0x6A0003).map (fun l => (l.remaining, l.channel, l.location)) = some (200000000, 1, some .A) ∧
      (t.chan 1).slots.active = some .A ∧ t.notices.entries.length = 1 := by decide +kernel

theorem test_install_lot_refused :
    status (.installLot 1 install) calm = some .mismatch ∧
      status (.installLot 1 { install with channel := 0, product := 0x2C00 }) calm = some .slotOccupied := by decide +kernel

/-- R41, R33: the standby lot becomes active. -/
theorem test_remove_lot :
    let t := after (.removeLot 1 0 0) calm
    (t.lot? 0x6A0001).map (fun l => (l.state, l.location)) = some (.shelved, none) ∧
      (t.chan 0).slots = ⟨none, some 0x6A0002, some .B⟩ := by decide +kernel

theorem test_remove_lot_empty : status (.removeLot 1 1 0) calm = some .slotEmpty := by decide +kernel

/-- The figures given with R42. -/
theorem test_amend_lot :
    let s : State :=
      { calm with lots := [{ lotIn 0x6A0003 60000000 50000000 7610 none with maintDrawn := 1000000 }] }
    ((after (.amendLot 1 0x6A0003 47500000) s).lot? 0x6A0003).map Lot.maintDrawn = some 3500000 ∧
      ((after (.amendLot 1 0x6A0003 52000000) s).lot? 0x6A0003).map Lot.maintDrawn = some (-1000000) := by decide +kernel

theorem test_retire_lot :
    (after (.retireLot 1 0x6A0003) calm).lot? 0x6A0003 = none ∧
      status (.retireLot 1 0x6A0001) calm = some .lotInUse := by decide +kernel

theorem test_read_lot :
    status (.readLot 1 0x6A0009) calm = some .unknownLot ∧ status (.readLot 1 0) calm = some .ok := by decide +kernel

/-- R46: a lot is expired on the day after its expiry day. -/
theorem test_set_day :
    ((after (.setDay 1 31) calm).lots.map Lot.expired) = [true, true, true] ∧
      ((after (.setDay 1 30) calm).lots.map Lot.expired) = [false, false, false] ∧
      ((after (.setDay 1 31) calm).chan 0).expired = true := by decide +kernel

theorem test_set_row_mask :
    ((after (.setRowMask 1 11 3 true false) calm).chan 11).segments.get 3 = { maskMissing := true } := by decide +kernel

/-- R95, R96: a substitution locks the OPEN edition and discards the provisional reference of the PROVING one. -/
theorem test_substitute_row :
    let t := after (.substituteRow 1 0 2 1) calm
    ((t.chan 0).segments.get 2).spare = .hard ∧ t.check.forced = true ∧
      (t.edition? 9).map (fun e => (e.state, e.generation)) = some (.locked, 5) ∧
      (t.edition? 10).map Edition.provisional = some none := by decide +kernel

theorem test_substitute_row_busy : status (.substituteRow 1 0 2 1) busyPart = some .busy := by decide +kernel

theorem test_load_roll :
    let s : State := { calm with rolls := [rollOf 0xB7 .active (some .upper) 78250] }
    ((after (.loadRoll 1 load) s).roll? 0xBA).map (fun r => (r.state, r.slot, r.price, r.unpriced)) =
      some (.loaded, some .lower, 0, true) ∧ status (.loadRoll 1 load) calm = some .slotOccupied := by decide +kernel

/-- R106, R115: the lead trim of 2,000 lies 48,000 below its target. -/
theorem test_select_roll :
    let t := after (.selectRoll 1 0xB8) calm
    t.out = [.stopAt (some 1050000)] ∧ (t.rolls.map Roll.state) = [.loaded, .active, .shelved] := by decide +kernel

/-- R107: the job that holds the roll is withdrawn. -/
theorem test_unload_roll :
    let t := after (.unloadRoll 1 0xB7) calm
    (t.job? 2).map Job.state = some .deferred ∧ t.activeRoll = none ∧ t.out = [.stopAt none] := by decide +kernel

theorem test_retire_roll :
    (after (.retireRoll 1 0xB9) calm).roll? 0xB9 = none ∧ status (.retireRoll 1 0xB7) calm = some .rollInUse := by
  decide +kernel

theorem test_read_roll : status (.readRoll 1 0xBA) calm = some .unknownRoll ∧ status (.readRoll 1 0xB7) calm = some .ok := by
  decide +kernel

theorem test_read_media : status (.readMedia 1) (cutting .cutting) = some .ok ∧
    (after (.readMedia 1) (cutting .cutting)).fresh = 1 := ⟨rfl, rfl⟩

/-- R104: the sensor offset is at most the cutter offset. -/
theorem test_set_media_geometry :
    (after (.setMediaGeometry 1 { defaultGeometry with sensorOffset := 60000, cutterOffset := 40000 }) calm).media.geometry =
      { defaultGeometry with sensorOffset := 40000, cutterOffset := 40000 } := by decide +kernel

theorem test_clear_jam_retry :
    (after (.clearJamRetry 1) (cutting .jammed)).media.cutter = .idle ∧
      status (.clearJamRetry 1) (cutting .idle) = some .wrongState := by decide +kernel

/-- R122: a skipped cut leaves the owner UNCUT and its strip unread. -/
theorem test_clear_jam_skip :
    let t := after (.clearJamSkip 1) (cutting .jammed)
    (t.job? 4).map (fun j => (j.cut, j.flags.uncut, j.stripPiece, j.state)) = some (.uncut, true, 90000, .settled) := by
  decide +kernel

/-- R134: an interval of 5 in DOUBLE cadence is an effective interval of 3. -/
theorem test_set_check_plan :
    (after (.setCheckPlan 1 planReq) calm).check.plan.effective = 3 ∧ status (.setCheckPlan 1 planReq) calm = some .ok ∧
      status (.setCheckPlan 1 planReq) busyPart = some .busy := by decide +kernel

theorem test_force_check :
    let s : State := { calm with check := { calm.check with forced := false, counter := 3 } }
    (after (.forceCheck 1) s).check.forced = true ∧ reply (after (.forceCheck 1) s) = some (.ok, .forced true 3 8) := by
  decide +kernel

theorem test_read_check_state : status (.readCheckState 1) busyPart = some .ok := by decide +kernel

theorem test_create_edition :
    ((after (.createEdition 1 create) calm).edition? 12).map (fun e => (e.state, e.tolerance, e.band)) =
      some (.opened, 150, 48) ∧ status (.createEdition 1 { create with id := 9 }) calm = some .editionExists := by
  decide +kernel

theorem test_adopt_reference :
    ((after (.adoptReference 1 10) calm).edition? 10).map (fun e => (e.state, e.reference)) = some (.opened, some house) ∧
      status (.adoptReference 1 9) calm = some .wrongState := by decide +kernel

theorem test_reject_reference :
    ((after (.rejectReference 1 10) calm).edition? 10).map (fun e => (e.state, e.provisional)) = some (.proving, none) := by
  decide +kernel

theorem test_close_edition :
    ((after (.closeEdition 1 9) calm).edition? 9).map Edition.state = some .closed ∧
      status (.closeEdition 1 9) busyPart = some .busy := by decide +kernel

theorem test_retire_edition :
    (after (.retireEdition 1 11) calm).edition? 11 = none ∧ status (.retireEdition 1 9) calm = some .wrongState := by
  decide +kernel

/-- R158: a limit of 10 less 3 issued and 2 live jobs. -/
theorem test_read_edition :
    reply (after (.readEdition 1 9) busyPart) = some (.ok, .editionView (editionOf 9 .opened (some house) none) 5 2) := by
  decide +kernel

/-- R174: a price above the maximum of its class is written as the maximum. -/
theorem test_write_price :
    let t := after (.writePrice 1 ⟨2, false, 0x3100, 2000000⟩) calm
    (t.prices.entry? .media 0x3100).map PriceEntry.price = some 1048575 ∧ t.prices.entries.map PriceEntry.cls =
      [.ink, .media, .handling] := by decide +kernel

/-- R175, R176: a protected entry is removed only while PRICE_LOCK is clear. -/
theorem test_remove_price :
    (after (.removePrice 1 1 0x2C00) calm).prices.entry? .ink 0x2C00 = none ∧
      status (.removePrice 1 1 0x2C00) { calm with prices := { calm.prices with lock := true } } = some .priceProtected := by
  decide +kernel

theorem test_lock_prices : (after (.lockPrices 1) calm).prices.lock = true := by decide +kernel

theorem test_unlock_prices :
    (after (.unlockPrices 1) { calm with prices := { calm.prices with lock := true } }).prices.lock = false := by
  decide +kernel

theorem test_read_prices : reply (after (.readPrices 1) calm) = some (.ok, .prices calm.prices false 2) := by decide +kernel

theorem test_set_strip_accounting :
    (after (.setStripAccounting 1 1) calm).stripMode = .overhead ∧
      status (.setStripAccounting 1 2) calm = some .badParam := by decide +kernel

/-- 9.7.2: 973,362,000,000 is shown as 9,734 cost units. -/
theorem test_read_overhead :
    reply (after (.readOverhead 1) { calm with overhead := ⟨0, 0, 0, 973362000000⟩ }) =
      some (.ok, .overhead ⟨0, 0, 0, 973362000000⟩ ⟨0, 0, 0, 9734⟩) := by decide +kernel

theorem test_clear_overhead :
    (after (.clearOverhead 1) { calm with overhead := ⟨1, 2, 3, 4⟩ }).overhead = ⟨0, 0, 0, 0⟩ := by decide +kernel

/-- A queue of nine notices, each of a lot. -/
def nine : NoticeQueue :=
  { entries := (List.range 9).map fun i => ⟨.num (i + 1), .lotExpired 0 30, i + 1⟩, raised := 9 }

theorem test_read_notices :
    let t := after (.readNotices 1) { calm with notices := nine }
    t.notices.entries.map Notice.raiseNo = [9] ∧ t.attn = true := by decide +kernel

theorem test_identify : status (.identify 1) calm = some .ok ∧ identityFigures.part = 0x1240 := by decide +kernel

theorem test_read_status :
    status (.readStatus 1) calm = some .ok ∧ status (.readStatus 1) (inPhase .restore) = some .notReady := by
  decide +kernel

/-- An IDENTIFY frame with sequence number 5, from the bytes of section 11.7 and its CRC-16. -/
def identifyFrame : List Byte := sealed [0x71, 0x05, 0x00, 0x00]

/-- The same frame with a wrong CRC-16. -/
def badFrame : List Byte := [0x71, 0x05, 0x00, 0x00, 0x00, 0x00]

theorem test_request_frame_refused :
    reply (after (.requestFrameRefused badFrame) calm) = some (.badFrame, .empty) ∧
      reply (after (.requestFrameRefused identifyFrame) calm) = some (.ok, .identity identityFigures) := by decide +kernel

theorem test_request_frame_dropped :
    (after (.requestFrameDropped identifyFrame) waiting).port.dropped = 1 ∧
      (after (.requestFrameDropped [0x71, 0x05]) calm).port = calm.port := by decide +kernel

/-- Section 11.7, R110, R136, R209: a FEED of -2, a ROLL_END of LOWER, a READING of one patch, a WRITE, and what is
discarded. -/
theorem test_messages_spell_commands :
    mediaCommand (sealed [0x21, 0xFE, 0xFF, 0xFF, 0xFF]) = some (.feed (-2)) ∧
      mediaCommand (sealed [0x25, 1]) = some (.rollEnd 1) ∧ mediaCommand (sealed [0x22, 0]) = none ∧
      mediaCommand [0x22, 0, 0] = none ∧
      sensorCommand (sealed ([0x12, 3, 0] ++ List.replicate 24 1 ++ [1, 0x88, 0x13, 0, 0, 0xFF, 0xFF])) =
        some (.reading ⟨3, 0, Vec12.all 257, [⟨5000, 0, -1⟩]⟩) ∧
      sensorCommand (sealed ([0x12, 3, 0] ++ List.replicate 24 1 ++ [1])) = none ∧
      transferCommand (1 :: identifyFrame) = some (.requestFrameRefused identifyFrame) ∧ transferCommand [2, 0] = none := by
  decide +kernel

/-- R14, R77: the toggle flips and a swath is counted; 50,000 drops of 80 at weight 4096 draw 400 nL. -/
theorem test_swath :
    let t := after (.swath 1 0 false (dry.set 0 ⟨0, 0, 50000⟩)) busyPart
    (t.job? 1).map (fun j => (j.toggle, j.swathsLeft, j.draws, j.ink.get 0)) =
      some (true, 1, [⟨0, 0x6A0001, 400, 0⟩], 94600) ∧ t.out = [.head (.accept .none)] := by decide +kernel

theorem test_swath_blocked :
    (after (.swath 99 0 false dry) busyPart).out = [.head (.block .unknownTag)] ∧
      (after (.swath 1 1 false dry) busyPart).out = [.head (.block .noStrip)] ∧
      (after (.swath 1 0 true dry) busyPart).out = [.head (.block .sequence)] ∧
      (after (.swath 2 0 false dry) busyPart).out = [.head (.hold .notBegun)] := by decide +kernel

theorem test_purge_repeat :
    (after (.purge true dry) { calm with head := { calm.head with purgeToggle := some false } }).out =
      [.head (.accept .none)] ∧ (after (.purge true dry) (inPhase .flush)).out = [.head (.hold .power)] := by decide +kernel

theorem test_row_status :
    let t := after (.rowStatus 0 1 1) busyPart
    ((t.chan 0).segments.get 1).fault = .missing ∧ (t.job? 1).map (fun j => j.flags.rowFaultDuring) = some true ∧
      t.notices.entries = [⟨.segment 0 1, .rowFault .missing .unused, 1⟩] := by decide +kernel

theorem test_row_map_query : (after .rowMapQuery calm).out = [.head (.rowMap (List.replicate 48 false))] := by decide +kernel

theorem test_head_frame_crc_bad :
    (after (.headFrameCrcBad [4, 0, 0]) calm).out = [.head .crcBad] ∧
      (after (.headFrameCrcBad (sealed [4])) calm).out = [.head (.rowMap (List.replicate 48 false))] := by decide +kernel

/-- R111, R117: F reaches the target of the head entry and the cut is sent. -/
theorem test_feed :
    let t := after (.feed 38000) busyPart
    (t.roll? 0xB7).map Roll.fed = some 1038000 ∧ t.out.head? = some (.cut .stripEnd 1038000) ∧
      t.media.cutter = .cutting := by decide +kernel

/-- R111: a backward feed stops at the target of the last completed cut. -/
theorem test_feed_back : ((after (.feed (-100000)) busyPart).roll? 0xB7).map Roll.fed = some 948000 := by decide +kernel

/-- R119: the strip piece reaches from the last cut point of 900,000 to 990,000. -/
theorem test_cut_done :
    let t := after .cutDone (cutting .cutting)
    (t.job? 4).map (fun j => (j.cut, j.stripPiece, j.flags.unchecked, j.state)) = some (.done, 90000, true, .settled) ∧
      t.media.queue = [] ∧ t.media.cutter = .idle := by decide +kernel

theorem test_cut_fault :
    let t := after (.cutFault 9) (cutting .cutting)
    t.media.cutter = .jammed ∧ t.notices.entries = [⟨.num 0xB7, .cutJam .stripEnd (some 4) 1038000 (.fault 9), 1⟩] := by
  decide +kernel

theorem test_cut_timeout : (after .cutTimeout (cutting .cutting)).media.cutter = .jammed ∧
    after .cutTimeout (cutting .idle) = cutting .idle := by decide +kernel

theorem test_roll_present :
    (after (.rollPresent 1 0) busyPart).media.lower = .absent ∧
      ((after (.rollPresent 1 0) busyPart).roll? 0xB8).map Roll.state = some .shelved := by decide +kernel

/-- R125: the printing job is voided by the end of its roll. -/
theorem test_roll_end :
    let t := after (.rollEnd 0) busyPart
    (t.job? 1).map (fun j => (j.state, j.cause)) = some (.voided, some .mediaEnd) ∧
      (t.roll? 0xB7).map (fun r => (r.state, r.length)) = some (.ended, 1000000) ∧ t.out = [.stopAt none] := by decide +kernel

theorem test_reading :
    let t := after (.reading inTolerance) busyPart
    (t.job? 4).map (fun j => (j.strip, j.check.map CheckResult.verdict)) = some (.resolved, some .pass) ∧
      t.check.forced = false ∧ t.check.arm = none := by decide +kernel

/-- R149: a FAIL on an EDITION job of an edition with a reference dooms the job and locks the edition. -/
theorem test_reading_fail :
    let t := after (.reading { inTolerance with labs := [⟨6000, 0, 0⟩] }) busyPart
    (t.job? 4).map (fun j => (j.flags.voidOnSettle, j.cause)) = some (true, some .fail) ∧
      (t.edition? 9).map (fun e => (e.state, e.causes.fail)) = some (.locked, true) ∧ t.check.forced = true := by
  decide +kernel

theorem test_pfail_assert :
    (after .pfailAssert calm).phase = .flush ∧ (after .pfailAssert calm).store.marker = true ∧
      (after .pfailAssert (inPhase .restore)).phase = .restore := by decide +kernel

theorem test_pfail_deassert :
    let s : State := { inPhase .flush with pfail := true, store := { marker := true, flush := { marked := true } } }
    (after .pfailDeassert s).phase = .run ∧ (after .pfailDeassert s).store.marker = false := by decide +kernel

theorem test_power_on :
    (after .powerOn busyPart).phase = .restore ∧ (after .powerOn busyPart).jobs = [] ∧
      (after .powerOn busyPart).cause = .powerOn := by decide +kernel

theorem test_reset :
    (after .reset busyPart).cause = .reset ∧ after .reset { State.reset with phase := .off } =
      { State.reset with phase := .off } := by decide +kernel

theorem test_power_loss : (after .powerLoss busyPart).phase = .off ∧ (after .powerLoss busyPart).lots = [] := by
  decide +kernel

/-- A store that holds the printing job and a lot with its dirty mark, in commit groups 1 and 2. -/
def stored : Store :=
  { records := [⟨.job 1, some ⟨1, .job printing, true⟩, none⟩,
      ⟨.lot 0x6A0001, some ⟨1, .lot (lotIn 0x6A0001 9 5 7 none), true⟩, some ⟨2, .lot (lotIn 0x6A0001 9 4 7 none), false⟩⟩]
    closed := [1, 2], dirty := [.lot 0x6A0001] }

/-- R27, R192, R206: the printing job is voided, the torn copy does not stand, and the dirty lot is UNCERTAIN. -/
theorem test_restore_end :
    let t := after (.restoreEnd ⟨[], false⟩) { State.reset with store := stored }
    (t.jobs.map fun j => (j.state, j.cause)) = [(.voided, some .interrupted)] ∧
      (t.lots.map fun l => (l.remaining, l.uncertain)) = [(5, true)] ∧ t.phase = .run ∧
      (t.notices.entries.map fun n => n.detail.kind) = [.restarted, .uncertainRecords] := by decide +kernel

/-- R206: with the clean marker no lot is flagged. -/
theorem test_restore_end_clean :
    let t := after (.restoreEnd ⟨[], false⟩) { State.reset with store := { stored with marker := true } }
    (t.lots.map Lot.uncertain) = [false] ∧ t.store.marker = false ∧ t.store.dirty = [] := by decide +kernel

/-- The open group of commit point `n`, with the number `n`. -/
def groupOf (n : Nat) (ws : List Write) : OpenGroup := ⟨[n], [n], ws⟩

/-- The busy part with the commit group of a lot image in hand, for which a request waits. -/
def writing : State :=
  { waiting with store :=
      { count := 1, called := 1, dirty := [.lot 0x6A0001],
        groups := [groupOf 1
          [⟨.lot 0x6A0001, .lot (lotIn 0x6A0001 500000000 400000000 7450 (some .A)), 1, .writing, false⟩]] } }

theorem test_commit_group_complete :
    let t := after (.commitGroupComplete 1) writing
    t.store.closed = [1] ∧ t.store.dirty = [] ∧ reply t = some (.ok, .empty) ∧ t.busy = false ∧
      t.store.standing (.lot 0x6A0001) = some (.lot (lotIn 0x6A0001 500000000 400000000 7450 (some .A))) := by
  decide +kernel

theorem test_store_write_failure :
    let t := after (.storeWriteFailure (.images 1 [.lot 0x6A0001])) writing
    t.store.closed = [] ∧ t.store.unsaved = [.lot 0x6A0001] ∧ reply t = some (.ok, .empty) ∧
      t.notices.entries = [⟨.region .lots, .writeFault (some (.lot 0x6A0001)) 1, 1⟩] := by decide +kernel

/-- An image of a record in commit group `n`. -/
def img (k : RecKey) (n : Nat) (st : WriteStage) (retry : Bool) : Write := ⟨k, .stripMode .job, n, st, retry⟩

/-- The calm part with commit groups open. -/
def grouped (gs : List OpenGroup) : State := { calm with store := { count := 2, called := 3, groups := gs } }

/-- The number of idle steps `n`, one after the other. -/
def idle (n : Nat) (s : State) : State := (List.range n).foldl (fun s _ => s.idle) s

/-- R193: group 2's newer image of a record waits while group 1's is written and group 1 is not closed; the groups take
turns; group 1 closes with its own image. -/
theorem test_store_takes_turns :
    let s := grouped [groupOf 1 [img .plan 1 .writing false, img .geometry 1 .waiting false],
      groupOf 2 [{ img .plan 2 .waiting false with image := .stripMode .overhead }, img .stripMode 2 .waiting false]]
    ((idle 1 s).store.groups.map fun g => (g.nums, g.writes.map Write.stage)) =
      [([2], [.waiting, .writing]), ([1], [.written, .waiting])] ∧
    (idle 4 s).store.closed = [1] ∧ (idle 4 s).store.standing .plan = some (.stripMode .job) ∧
    (idle 6 s).store.closed = [1, 2] ∧ (idle 6 s).store.standing .plan = some (.stripMode .overhead) := by decide +kernel

/-- R199: only the group that took a record off the unsaved list removes it; an older one does not. -/
theorem test_unsaved_leaves_with_its_retry :
    ([false, true].map fun b =>
      (after (.commitGroupComplete 1)
        { calm with
          store := { count := 1, unsaved := [.plan], groups := [groupOf 1 [img .plan 1 .writing b]] } }).store.unsaved) =
      [[.plan], []] := by decide +kernel

/-- R201: a further flush group that fails after a give-up is handed once more. -/
theorem test_flush_group_is_handed_once_more :
    let g : OpenGroup := groupOf 3 [img .plan 3 .writing false]
    ({ group := some 3, givenUp := [.plan] } : Flush).ended g false [.plan] = { retried := true } ∧
      ({ group := some 3, retried := true } : Flush).ended g false [.plan] = { givenUp := [.plan] } := by decide +kernel

/-- R207, R197: a close entry that fails in stage 6 leaves the records unsaved and the dirty marks as they were. -/
theorem test_restore_close_fails :
    let t := ({ State.reset with store := stored } : State).rebuild [] true
    t.store.unsaved = [.lot 0x6A0001, .job 1] ∧ t.store.dirty = [.lot 0x6A0001] ∧ t.store.closed = [1, 2] ∧ t.fresh = 1 := by
  decide +kernel

/-- The busy part with both lots of channel 0 exhausted. -/
def emptyTanks : State :=
  { busyPart with
    channels := busyPart.channels.set 0 { channel0 with slots := ⟨some 0x6A0001, some 0x6A0002, none⟩ }
    lots := [lotIn 0x6A0001 500000000 0 7450 (some .A), lotIn 0x6A0002 300000000 0 7610 (some .B)] }

/-- R43, R1: the printing job that a lot change flags is committed before the response. -/
theorem test_lot_change_commits_the_job :
    let t := after (.amendLot 1 0x6A0001 90000000) emptyTanks
    (t.job? 1).map (fun j => j.flags.lotChanged) = some true ∧
      (t.store.groups.map fun g => g.writes.map Write.key) = [[.edition 9]] ∧
      (t.store.behind.map fun p => p.writes.map Write.key) = [[.edition 10], [.slots 0, .lot 0x6A0001, .job 1]] := by
  decide +kernel

/-- R103, R112: a back-feed that raises a trimmed reservation again has the roll law tested. -/
theorem test_back_feed_trims_again :
    let s : State := { busyPart with
      jobs := [{ printing with rollRes := 8000 }]
      rolls := [{ rollOf 0xB7 .active (some .upper) 8000 with length := 1008000 }] }
    let t := after (.feed (-2000)) s
    (t.job? 1).map (fun j => (j.rollRes, j.flags.overrunMedia)) = some (10000, true) ∧
      (t.roll? 0xB7).map Roll.reserved = some 10000 := by decide +kernel

/-- R147: the lock of a FAIL is committed in one group with the job. -/
theorem test_fail_makes_one_group :
    ((after (.reading { inTolerance with labs := [⟨6000, 0, 0⟩] }) busyPart).store.groups.map fun g =>
      g.writes.map Write.key) = [[.job 4, .edition 9]] := by decide +kernel

/-- Section 11.7: the header of a READ NOTICES response and its first notice entry: kind 6, subject 1, raise number 1. -/
theorem test_read_transfer :
    let r := (after (.readNotices 5) { calm with notices := nine }).readTransfer
    r.header = [0x70, 5, 0, 2, 1, 1, 0, 0] ∧ r.rest = none ∧ r.entries.length = 8 ∧
      (r.entries.map List.length).all (· == 32) = true ∧
      r.entries.head?.map (List.take 10) =
        some [some 6, some 3, some 1, some 0, some 0, some 0, some 0, some 0, some 1, some 0] := by decide +kernel

/-- R58: a lot whose part was merged is committed at settlement. -/
theorem test_merged_lot_is_committed :
    let s : State := { costPart .job with merged := [(4, 0x6A0003), (1, 7)], store := { changed := [.lot 0x6A0003] } }
    (s.settleTest 4).store.changed = [] ∧ (s.settleTest 4).merged = [(1, 7)] := by decide +kernel

/-- Section 2.6: LOT_CHANGE is raised before the EDITION_LOCKED notices; R194: of two editions, the second's notice waits
for the first's commit. -/
theorem test_lot_change_is_noticed_first :
    let t := after (.amendLot 1 0x6A0001 90000000) emptyTanks
    (t.notices.entries.map fun n => n.detail.kind) = [.lotChange, .editionLocked] := by
  decide +kernel

/-- Sections 4.3, 11.7: the detail of STORE_FAULT begins with the record key, a lot code of 48 bits; that of WITHDRAWN is a
roll id of 32 bits, or a channel. -/
theorem test_notice_details_of_keys :
    (Notice.bytes ⟨.region .lots, .writeFault (some (.lot 0x6A0001)) 1, 7⟩).drop 10 =
      given [1, 0, 0x6A, 0, 0, 0] ++ List.replicate 16 none ∧
    (Notice.bytes ⟨.num 4, .withdrawn (.roll 0xB7), 7⟩).drop 10 = given [0xB7, 0, 0, 0] ++ List.replicate 18 (some 0) ∧
    ((Notice.bytes ⟨.num 4, .withdrawn (.channel 3), 7⟩).drop 1).head? = some (some 1) := by decide +kernel

/-- Section 11.7: the detail of a LOT_CHANGE is two codes of 48 bits; that of a ROW_FAULT is known in its first byte. -/
theorem test_notice_details :
    (Notice.bytes ⟨.num 2, .lotChange 0x6A0001 0x6A0002, 7⟩).drop 1 =
      given [12, 2, 0, 0, 0, 0, 0, 7, 0, 1, 0, 0x6A, 0, 0, 0, 2, 0, 0x6A, 0, 0, 0] ++ List.replicate 10 (some 0) ∧
    (Notice.bytes ⟨.segment 2 1, .rowFault .weeping .soft, 7⟩).take 12 =
      given [7] ++ [none] ++ given [2, 1, 0, 0, 0, 0, 7, 0, 2] ++ [none] ∧
    (Notice.bytes ⟨.num 4, .jobState .settled none {}, 7⟩).drop 10 =
      given [4] ++ [none] ++ given [0, 0] ++ List.replicate 18 (some 0) := by decide +kernel

/-! ### The commit groups of one handling (R193, R194) -/

/-- The keys of the open groups, with their numbers. -/
def openKeys (s : State) : List (List Nat × List RecKey) := s.store.groups.map fun g => (g.nums, g.writes.map Write.key)

/-- The keys of the commit points that wait, with their numbers and those they wait for. -/
def behindKeys (s : State) : List (Nat × List Nat × List RecKey) := s.store.behind.map CommitPoint.waits

/-- The JOB_STATE notices held for their commit groups, by the groups they wait for. -/
def lateJobStates (s : State) : List (List Nat × Subject) :=
  (s.notices.later.filter fun n => n.detail.kind == .jobState).map fun n => (n.after, n.subject)

/-- A finishing job whose SEPARATE cut is in hand and whose strip is read, its cut completed. -/
def cutThrough : State :=
  after .cutDone { cutting .cutting with jobs := [{ finishing with strip := .resolved, draws := [⟨0, 0x6A0001, 9, 0⟩] }] }

/-- R118, R21, R193, R194: the group of a completed cut holds the roll and the owner. Those of the settlement are the five
images of section 10.7 but for a second lot: job, lot, roll and edition as named, whether the roll has changed since or
not; its group is handed, with the next number, when the first has ended. R23: JOB_STATE is raised behind it. -/
theorem test_cut_done_commits_before_the_settlement :
    openKeys cutThrough = [([1], [.roll 0xB7, .job 4])] ∧
      behindKeys cutThrough = [(2, [1], [.job 4, .lot 0x6A0001, .roll 0xB7, .edition 9])] ∧
      cutThrough.notices.entries = [] ∧ lateJobStates cutThrough = [([1, 2], .num 4)] ∧
      (let t := after (.commitGroupComplete 1) cutThrough
       openKeys t = [([2], [.job 4, .lot 0x6A0001, .roll 0xB7, .edition 9])] ∧ lateJobStates t = [([2], .num 4)] ∧
         ((after (.commitGroupComplete 2) t).notices.entries.map fun n => n.detail.kind) = [.jobState]) := by
  decide +kernel

/-- R197, R198, R199, R23: where the group of the completed cut fails, the settlement's group, which names the roll, writes
it; where that one fails too, JOB_STATE stands before the STORE_FAULTs, as the cut did before the failures (R215). -/
theorem test_settlement_saves_the_unsaved_roll :
    let t := after (.storeWriteFailure (.images 1 [.roll 0xB7])) cutThrough
    openKeys t = [([2], [.job 4, .lot 0x6A0001, .roll 0xB7, .edition 9])] ∧ t.store.unsaved = [.roll 0xB7, .job 4] ∧
      (after (.commitGroupComplete 2) t).store.unsaved = [] ∧
      ((after (.storeWriteFailure (.images 2 [.job 4])) t).notices.entries.map fun n => n.detail.kind) =
        [.jobState, .storeFault, .storeFault] := by
  decide +kernel

/-- R215: a row fault reported while the JOB_STATE notice of a settlement waits for its groups is raised within its own
handling, before its answer; the notice held since the earlier cut then stands before it (log 23). -/
theorem test_notices_stand_in_the_order_of_events :
    let t := after (.rowStatus 0 0 1) cutThrough
    (t.notices.entries.map fun n => n.detail.kind) = [.rowFault] ∧ t.out = [.head (.ack .taken)] ∧
      (((after (.commitGroupComplete 1) t).notices.entries.map fun n => n.detail.kind) = [.rowFault]) ∧
      ((after (.commitGroupComplete 2) (after (.commitGroupComplete 1) t)).notices.entries.map fun n => n.detail.kind) =
        [.jobState, .rowFault] := by
  decide +kernel

/-- R193: a request that commits a record whose older image waits behind its handling's group has that one handed first;
each replaces a waiting image of the one before, and the three groups are joined. -/
theorem test_newer_commit_hands_the_older_first :
    let t := after (.closeEdition 1 9) { cutThrough with jobs := [] }
    openKeys t = [([1, 2, 3], [.roll 0xB7, .job 4, .lot 0x6A0001, .roll 0xB7, .edition 9])] ∧
      t.store.behind = [] ∧ (t.port.buffer matches .pending _ _ .ok _ [3]) = true := by
  decide +kernel

/-- The busy part with two finishing jobs of edition 9 whose strips are read and whose cuts are in the queue. -/
def twoFinishing : State :=
  { busyPart with
    jobs := [{ finishing with strip := .resolved, draws := [] }, { finishing with tag := 7, strip := .resolved, draws := [] }]
    media := { busyPart.media with queue := [stripCut, { stripCut with target := 1039000, owner := some 7 }] } }

/-- R166, R193: two settlements in one handling leave each group its own image of the edition, one behind the other. -/
theorem test_two_settlements_number_two_groups :
    let t := after (.rollEnd 0) twoFinishing
    let issued (ws : List Write) : List Nat := ws.filterMap fun w =>
      match w.image with
      | .edition e => some e.issued
      | _ => none
    (t.store.groups.map fun g => (g.nums, issued g.writes)) = [([1], [4])] ∧
      (t.store.behind.map fun p => (p.id, p.after, issued p.writes)).head? = some (2, [1], [5]) ∧
      (t.jobs.map Job.number) = [some 4, some 5] ∧ (t.edition? 9).map Edition.issued = some 5 := by decide +kernel

/-- R194: a group of another party takes turns with the group in hand of a request, and not with those behind it. -/
theorem test_following_group_waits :
    let s := grouped [groupOf 1 [img .plan 1 .writing false, img .geometry 1 .waiting false],
      groupOf 2 [img .stripMode 2 .waiting false]]
    let s' : State := { s with store := { s.store with behind := [⟨3, [img .prices 0 .waiting false], [1]⟩] } }
    ([1, 2, 3, 4, 5, 7].map fun n => (idle n s').store.closed) = [[], [], [2], [2], [2, 1], [2, 1, 3]] := by decide +kernel

/-- R199: a group takes up the unsaved records of its region when it is handed, behind the one it follows. -/
theorem test_following_group_takes_up_unsaved :
    let t := after (.commitGroupComplete 1) { calm with store :=
      { count := 1, called := 2, unsaved := [.stripMode], groups := [groupOf 1 [img .plan 1 .written false]]
        behind := [⟨2, [img .geometry 0 .waiting false], [1]⟩] } }
    openKeys t = [([2], [.geometry, .stripMode])] ∧
      ((after (.commitGroupComplete 2) t).store.unsaved, (after (.commitGroupComplete 2) t).store.closed) = ([], [1, 2]) := by
  decide +kernel

/-- The part whose cut is through and whose lot 0x6A0001, unsaved, has 8 nL less: the settlement's commit point holds its older
image. -/
def unsavedBehind : State :=
  { cutThrough with
    lots := [lotIn 0x6A0001 500000000 399999992 7450 (some .A), lotIn 0x6A0002 300000000 300000000 7610 (some .B)]
    store := { cutThrough.store with unsaved := [.lot 0x6A0001] } }

/-- The remaining volumes of lot 0x6A0001 in a list of images. -/
def imagesOfLot (ws : List Write) : List Nat :=
  ws.filterMap fun w =>
    match w.image with
    | .lot l => if l.code = 0x6A0001 then some l.remaining else none
    | _ => none

/-- R193, R199: a group of the LOTS region takes up the unsaved lot with its image as it stands, although a commit point
that waits holds the lot too, whose image is renewed. -/
theorem test_unsaved_record_is_added_without_exception :
    imagesOfLot (unsavedBehind.store.behind.flatMap CommitPoint.writes) = [400000000] ∧
      (let t := after (.amendLot 1 0x6A0002 5) unsavedBehind
       (t.store.groups.map fun g => (g.nums, imagesOfLot g.writes)) = [([1], []), ([2], [399999992])] ∧
         imagesOfLot (t.store.behind.flatMap CommitPoint.writes) = [399999992]) := by decide +kernel

/-- R201: the first group of the flush holds an unsaved record that a commit point still waiting holds too. -/
theorem test_flush_holds_every_unsaved_record :
    let t := after .pfailAssert unsavedBehind
    t.store.flush.group = some t.store.called ∧
      (t.store.groups.filter fun g => g.ids.contains t.store.called).map (fun g => imagesOfLot g.writes) =
        [[399999992]] := by decide +kernel

/-- R187: a cut commits the Overhead Account, changed by a purge before, where it is a LEAD_TRIM cut alone. -/
theorem test_only_a_lead_trim_commits_the_account :
    let cut (e : CutEntry) : State :=
      let s := cutting .cutting
      after .cutDone { s with media := { s.media with queue := [e] }, store := { s.store with changed := [.counters] } }
    let trim : CutEntry := { stripCut with kind := .leadTrim, owner := none, stripStart := none }
    openKeys (cut trim) = [([1], [.roll 0xB7, .counters])] ∧
      openKeys (cut { stripCut with kind := .separate }) = [([1], [.roll 0xB7, .job 4])] ∧
      openKeys (cut stripCut) = [([1], [.roll 0xB7, .job 4])] := by decide +kernel

/-! ### Witnesses: states and operands that meet the hypotheses of the obligations

One theorem for each obligation with hypotheses, named after it. Where a statement has a table of refusals, the witness shows
a state and operands for each entry by the status that comes back, at the bounds the table draws. -/

theorem calm_ready : calm.ready := ⟨rfl, rfl⟩
theorem busy_ready : busyPart.ready := ⟨rfl, rfl⟩
theorem calm_sound : calm.sound := by unfold State.sound Store.sound ordered; decide +kernel
theorem busy_sound : busyPart.sound := by unfold State.sound Store.sound ordered; decide +kernel

/-- The idle step in each of its cases: no power, no group, an image being written, a group all written, and a restore.
-/
theorem witness_StepTakesTheFrontCommand :
    (inPhase .off).pending = [] ∧ calm.pending = [] ∧ calm.phase = .run ∧ calm.store.groups = [] ∧
      writing.store.groups.find? OpenGroup.allWritten = none ∧ writing.store.inFlight.map Write.group = some 1 ∧
      1 ∉ writing.store.closed ∧
      ((grouped [groupOf 1 [img .plan 1 .written false]]).store.groups.find? OpenGroup.allWritten).isSome = true ∧
      ((grouped [groupOf 1 [img .plan 1 .written false]]).store.openGroup 1).isSome = true ∧
      State.reset.phase = .restore ∧ State.reset.store.restored = none := by decide +kernel

theorem witness_EveryStepKeepsTablesOrdered :
    busyPart.sound ∧ busyPart.atRest ∧ ∃ t, step { busyPart with pending := [.cutDone] } = .next t :=
  ⟨busy_sound, rfl, _, rfl⟩

theorem witness_EveryStepKeepsOneJobPrinting :
    busyPart.onePrinting ∧ ∃ t, step { busyPart with pending := [.beginJob 1 2] } = .next t :=
  ⟨by unfold State.onePrinting; decide, _, rfl⟩

theorem witness_EveryStepConservesLotFill :
    busyPart.conserves ∧ ∃ t, step { busyPart with pending := [.amendLot 1 0x6A0003 5] } = .next t :=
  ⟨⟨by unfold Lot.conserves; decide +kernel, (by intro r h; cases h), (by intro w h; cases (show w ∈ ([] : List Write) from h))⟩, _, rfl⟩

theorem witness_EveryStepKeepsPriceTableOrdered :
    calm.pricesSound ∧ (∀ c ∈ [Instr.writePrice 1 ⟨3, true, 1, 7⟩], c.wellFormed = true) ∧
      ∃ t, step { calm with pending := [.writePrice 1 ⟨3, true, 1, 7⟩] } = .next t :=
  ⟨⟨by unfold PriceTable.sound ordered; decide +kernel, (by intro r h; cases h),
    (by intro w h; cases (show w ∈ ([] : List Write) from h))⟩, by decide, _, rfl⟩

/-- A queue of 31 notices, ACCEPTING: the next notice of another subject overflows. -/
def full : NoticeQueue :=
  { entries := (List.range 31).map fun i => ⟨.num (i + 1), .lotExpired 0 30, i + 1⟩, raised := 31 }

theorem witness_EveryStepKeepsNoticeQueueLaw :
    full.sound ∧ (after (.rowStatus 0 0 1) { calm with notices := full }).notices.entries.length = 32 := by
  unfold NoticeQueue.sound NoticeQueue.lawful NoticeQueue.episodesFit; decide +kernel

theorem witness_RequestsWhileBusyOrOutsideRun :
    (∃ p, requestParts (.readLot 1 2) = some p) ∧ waiting.phase ≠ .off ∧ waiting.busy = true ∧
      (inPhase .restore).busy = false ∧ (inPhase .flush).busy = false :=
  ⟨⟨_, rfl⟩, by decide, rfl, rfl, rfl⟩

/-- A frame whose code is no request, one with a byte too many, and CANCEL JOB of job 1. -/
def frames : List (List Byte) :=
  [sealed [0x7F, 1, 0, 0], sealed [0x71, 1, 1, 0, 9], sealed [0x13, 1, 5, 0, 1, 0, 0, 0, 0]]

theorem witness_FramesAreTestedBeforeTheyAreTaken :
    busyPart.takesFrame ∧ busyPart.sound ∧
    ((readRequestFrame badFrame).map RequestFrame.sound = some false ∧
      (readRequestFrame identifyFrame).map RequestFrame.sound = some true ∧
      (frames.map fun l => (readRequestFrame l).map RequestFrame.sound) = [some true, some true, some true] ∧
      (frames.map fun l => status (.requestFrameRefused l) busyPart) = [some .unknownRequest, some .badFrame, some .ok] ∧
      (frames.map fun l => status (.requestFrameRefused l) (inPhase .restore)) =
        [some .notReady, some .notReady, some .notReady] ∧
      readRequestFrame [0x71, 5] = none ∧ headCommand [4, 0, 0] = none ∧ headCommand (sealed [4]) = some .rowMapQuery ∧
      waiting.phase ≠ .off ∧ busyPart.busy = false) :=
  ⟨(by unfold State.takesFrame; decide), busy_sound, by decide +kernel⟩

theorem witness_ReadNoticesRemovesTheOldestEight :
    ({ calm with notices := nine } : State).ready ∧ ({ calm with notices := nine } : State).sound :=
  ⟨calm_ready, calm_sound⟩

theorem witness_IdentifyAndReadStatusChangeNothing : busyPart.ready ∧ busyPart.sound := ⟨busy_ready, busy_sound⟩

theorem witness_TableReadingsReturnTheRecord :
    calm.ready ∧ calm.sound ∧
    (calm.job? 2 = some admitted ∧ calm.job? 9 = none ∧ (calm.lot? 0x6A0003).isSome = true ∧ calm.lot? 1 = none ∧
      (calm.edition? 11).isSome = true ∧ calm.edition? 12 = none) :=
  ⟨calm_ready, calm_sound, by decide +kernel⟩

/-- R5: one refusal for each entry of the table, and the bounds of BAD_PARAM. -/
theorem witness_SubmitJobRefusesInTableOrder :
    calm.ready ∧ calm.sound ∧
    (([(calm, { submit with roll := 0 }), (calm, { submit with editionSupplied := true }), (calm, { submit with kind := 3 }),
      (calm, { submit with kind := 0 }), (calm, { submit with editionSupplied := true, edition := 9 }),
      (calm, { submit with kind := 2 }), (calm, { submit with image := 0 }), (calm, { submit with image := 6999 }),
      (calm, { submit with image := 4294964296 }), (calm, { submit with swaths := 0 }), (calm, { submit with swaths := 4096 }),
      (calm, { submit with estimates := (Vec12.all 0).set 11 1000000001 }), (calm, { submit with tag := 5 }),
      ({ calm with jobs := (List.range 32).map fun i => { deferred with tag := i + 10 } }, submit),
      (calm, { submit with roll := 0xBA }), (calm, { submit with roll := 0xB9 }),
      (calm, { submit with kind := 0, editionSupplied := true, edition := 12 }),
      (calm, { submit with kind := 0, editionSupplied := true, edition := 11 }),
      ({ calm with jobs := [{ admitted with spec := specOf .edition (some 10) 0xB7 }] },
        { submit with kind := 0, editionSupplied := true, edition := 10 }),
      ({ calm with editions := [{ editionOf 9 .opened (some house) none with issued := 10 }] },
        { submit with kind := 0, editionSupplied := true, edition := 9 })] : List (State × SubmitReq)).map
        (fun p => p.1.submitRefused p.2) =
      [some .badKey, some .badKey, some .badParam, some .badParam, some .badParam, some .badParam, some .badParam,
        some .badParam, some .badParam, some .badParam, some .badParam, some .badParam, some .tagExists, some .tableFull,
        some .unknownRoll, some .notLoaded, some .unknownEdition, some .editionClosed, some .provingBusy,
        some .editionFull] ∧
    ([{ submit with image := 7000 }, { submit with image := 4294964295 }, { submit with swaths := 1 },
      { submit with swaths := 4095 }, { submit with estimates := (Vec12.all 0).set 11 1000000000 }] : List SubmitReq).all
      (fun r => (calm.submitRefused r).isNone) = true) :=
  ⟨calm_ready, calm_sound, by decide +kernel⟩

/-- A pass, a channel short of ink and a roll short of media. -/
theorem witness_SubmitJobAdmitsOrDefers :
    calm.ready ∧ calm.sound ∧
    (calm.submitRefused submit = none ∧ (calm.roll? submit.roll).isSome = true ∧ jobKindOf submit.kind = some .proof ∧
      status (.submitJob 1 submit) calm = some .ok ∧
      status (.submitJob 1 { submit with estimates := (Vec12.all 0).set 3 10 }) calm = some .inkShort ∧
      status (.submitJob 1 { submit with image := 11000000 }) calm = some .mediaShort) :=
  ⟨calm_ready, calm_sound, by decide +kernel⟩

theorem witness_AdmitJobTestsADeferredJob :
    calm.ready ∧ calm.sound ∧
    (calm.job? 3 = some deferred ∧ deferred.state = .deferred ∧ calm.claimRefused deferred.spec = none ∧
      (calm.roll? deferred.spec.roll).isSome = true ∧ calm.job? 9 = none ∧ calm.job? 2 = some admitted ∧
      status (.admitJob 1 3) { calm with rolls := [rollOf 0xB7 .active (some .upper) 78250] } = some .unknownRoll ∧
      status (.admitJob 1 3) { calm with channels := Vector.replicate 12 plainChannel } = some .inkShort ∧
      status (.admitJob 1 3) { calm with rolls := [{ rollOf 0xB8 .loaded (some .lower) 0 with fed := 11900000 }] } =
        some .mediaShort) :=
  ⟨calm_ready, calm_sound, by decide +kernel⟩

/-- The calm part with job 2 an EDITION job of edition 9, changed by `f`. -/
def editionPart (f : State → State) : State :=
  f { calm with jobs := [{ admitted with spec := specOf .edition (some 9) 0xB7 }, deferred] }

/-- R12: one refusal for each entry of the table. -/
theorem witness_BeginJobRefusesInTableOrder :
    calm.ready ∧ calm.sound ∧ busyPart.ready ∧ busyPart.sound ∧
    (([busyPart, { calm with media := { calm.media with cutter := .jammed } },
      { calm with media := { calm.media with queue := List.replicate 11 stripCut } },
      editionPart fun s => { s with editions := [editionOf 9 .locked (some house) none] },
      editionPart fun s => { s with channels := s.channels.set 0 { s.chan 0 with
        segments := (s.chan 0).segments.set 2 { fault := .missing } } },
      editionPart fun s => { s with channels := s.channels.set 0 { s.chan 0 with expired := true } },
      { calm with jobs := [{ admitted with ink := Vec12.all 0 }], lots := [] }, calm] : List State).map
        (fun s => status (.beginJob 1 2) s) =
      [some .busy, some .mediaNotReady, some .cutBacklog, some .locked, some .rowFault, some .expired, some .inkShort,
        some .ok] ∧
    status (.beginJob 1 9) calm = some .unknownTag ∧ status (.beginJob 1 3) calm = some .wrongState) :=
  ⟨calm_ready, calm_sound, busy_ready, busy_sound, by decide +kernel⟩

/-- A CHECK job of edition 9, ADMITTED. -/
def checkJob : Job :=
  { newJob 2 { specOf .check (some 9) 0xB7 with lead := 0, image := 0, tail := 0, swaths := 0 } with
    state := .admitted, ink := (Vec12.all 0).set 0 55000, rollRes := 4500, seqNo := some 1 }

theorem witness_BeginJobStartsPrinting :
    calm.ready ∧ calm.sound ∧
    (calm.job? 2 = some admitted ∧ calm.beginRefused admitted = none ∧
      calm.activeRoll = some (rollOf 0xB7 .active (some .upper) 78250) ∧
      (78250 : Nat) + (fit32 (1000000 + 78250) - 1000000) - 78250 ≤ 12000000 - 1000000 ∧
      ({ calm with jobs := [checkJob] } : State).beginRefused checkJob = none ∧
      (after (.beginJob 1 2) { calm with jobs := [checkJob] }).media.queue.map CutEntry.point = [1004500]) :=
  ⟨calm_ready, calm_sound, by decide +kernel⟩

theorem witness_CancelAndRetireRemoveTheRecord :
    calm.ready ∧ calm.sound ∧
    (calm.job? 2 = some admitted ∧ admitted.state = .admitted ∧ calm.job? 5 = some settled ∧ settled.state = .settled ∧
      calm.job? 77 = none ∧ status (.cancelJob 1 77 0) calm = some .unknownTag ∧
      status (.retireJob 1 77) calm = some .unknownTag) :=
  ⟨calm_ready, calm_sound, by decide +kernel⟩

/-- A printing job with swaths left, one at its strip with its cuts pending, and finishing jobs with and without a flag.
-/
theorem witness_CancelOfAPrintingOrFinishingJob :
    busyPart.ready ∧ busyPart.sound ∧
    (busyPart.job? 1 = some printing ∧ printing.state = .printing ∧
      busyPart.activeRoll = some (rollOf 0xB7 .active (some .upper) 156500) ∧ printing.spec.roll = 0xB7 ∧
      0 < printing.swathsLeft ∧
      ({ busyPart with jobs := [{ printing with swathsLeft := 0, cut := .pending }] } : State).job? 1 =
        some { printing with swathsLeft := 0, cut := .pending } ∧
      busyPart.job? 4 = some finishing ∧ finishing.flags.abortPending = false ∧ finishing.flags.voidOnSettle = false ∧
      status (.cancelJob 1 4 0) busyPart = some .ok ∧
      ((after (.cancelJob 1 1 1) { busyPart with jobs := [{ printing with swathsLeft := 0, cut := .done }] }).job? 1).map
        (fun j => (j.state, j.cause, j.flags.unchecked)) = some (.voided, some .aborted, true) ∧
      (after (.cancelJob 1 1 0) { busyPart with
        jobs := [{ printing with pLead := some 1000500 }] }).media.queue.map CutEntry.point = [990000, 1002000]) :=
  ⟨busy_ready, busy_sound, by decide +kernel⟩

/-- Two ADMITTED jobs and the printing job on channel 0 and roll B7, with ink and media for little more than the older.
-/
def shortPart : State :=
  { busyPart with
    jobs := [printing, admitted, settled, { admitted with tag := 6, seqNo := some 4 }]
    channels := busyPart.channels.set 0 { channel0 with reserved := 285000 }
    lots := [lotIn 0x6A0001 500000000 100000 7450 (some .A), lotIn 0x6A0002 300000000 0 7610 (some .B)]
    rolls := [{ rollOf 0xB7 .active (some .upper) 234750 with length := 1160000 }] }

/-- The ink law fails by 185,000: both ADMITTED jobs are withdrawn and the printing job is left whole. With 90,000 nL it
is trimmed by 5,000. On the roll the youngest alone is withdrawn. -/
theorem witness_WithdrawalAndTrimmingRestoreTheLaws :
    shortPart.sound ∧ shortPart.roll? 0xB7 = some { rollOf 0xB7 .active (some .upper) 234750 with length := 1160000 } ∧
      ((shortPart.enforceInk 0).jobs.map fun j => (j.tag, j.state, j.ink.get 0)) =
        [(1, .printing, 95000), (2, .deferred, 0), (5, .settled, 0), (6, .deferred, 0)] ∧
      shortPart.handling.gathered = none ∧ (shortPart.enforceInk 0).store.count = 2 ∧
      (shortPart.gather.enforceInk 0).handling.gathered = some { points := [[.job 6], [.job 2]] } ∧
      (let s : State := { shortPart with lots := [lotIn 0x6A0001 500000000 90000 7450 (some .A)] }
       ((s.enforceInk 0).job? 1).map (fun j => (j.ink.get 0, j.flags.inkAtRisk)) = some (90000, true) ∧
         ((s.enforceInk 0).chan 0).reserved = 90000 ∧
         ((s.enforceInk 0).notices.entries.map Notice.subject) = [.num 6, .num 2]) ∧
      ((shortPart.enforceRoll 0xB7).jobs.map Job.state) = [.printing, .admitted, .settled, .deferred] ∧
      ((shortPart.enforceRoll 0xB7).roll? 0xB7).map Roll.reserved = some 156500 := by
  unfold State.sound Store.sound ordered; decide +kernel

theorem witness_SetChannelWritesTheFixedFields :
    calm.ready ∧ calm.sound ∧ busyPart.ready ∧ busyPart.sound ∧
    ([status (.setChannel 1 { setting with channel := 12 }) calm, status (.setChannel 1 setting) busyPart,
      status (.setChannel 1 { setting with channel := 0 }) calm, status (.setChannel 1 { setting with channel := 11 }) calm] =
      [some .badParam, some .busy, some .slotOccupied, some .ok]) :=
  ⟨calm_ready, calm_sound, busy_ready, busy_sound, by decide +kernel⟩

/-- An INSTALL LOT of a new lot into channel 1, whose product it has. -/
def inkPart : State := { calm with channels := calm.channels.set 1 { plainChannel with cfg := { product := 0x2C01 } } }

/-- R37: one refusal for each entry of the table, and a lot change with an installation. -/
theorem witness_InstallLotRefusesOrPlacesTheLot :
    calm.ready ∧ calm.sound ∧ inkPart.ready ∧ inkPart.sound ∧
    (([(inkPart, { install with code := 0 }), (inkPart, { install with channel := 12 }), (inkPart, { install with slot := 2 }),
      (inkPart, { install with fill := 0 }), (inkPart, { install with fill := 1000000001 }),
      (inkPart, { install with product := 0 }), (calm, install),
      (inkPart, { install with channel := 0, product := 0x2C00 }), (inkPart, { install with code := 0x6A0001 }),
      ({ inkPart with lots := [{ lotIn 0x6A0003 9 0 7 none with state := .exhausted }] }, { install with code := 0x6A0003 }),
      (inkPart, { install with code := 0x6A0003 }),
      ({ inkPart with lots := (List.range 48).map fun i => lotIn (i + 1) 9 9 7 none }, install),
      (inkPart, install), (inkPart, { install with fill := 1000000000 })] : List (State × InstallReq)).map
        (fun p => status (.installLot 1 p.2) p.1) =
      [some .badKey, some .badParam, some .badParam, some .badParam, some .badParam, some .badParam, some .mismatch,
        some .slotOccupied, some .lotInUse, some .wrongState, some .mismatch, some .tableFull, some .ok, some .ok] ∧
    inkPart.installRefused install 1 .A = none ∧ (inkPart.chan 1).slots.active = none) :=
  ⟨calm_ready, calm_sound, ⟨rfl, rfl⟩, calm_sound, by decide +kernel⟩

theorem witness_RemoveLotEmptiesTheSlot :
    calm.ready ∧ calm.sound ∧
    (calm.lotIn 0 .A = some (lotIn 0x6A0001 500000000 400000000 7450 (some .A)) ∧
      (calm.chan 0).slots.at .B ≠ some 0x6A0001 ∧ calm.lotIn 1 .A = none ∧
      status (.removeLot 1 12 0) calm = some .badParam ∧ status (.removeLot 1 0 2) calm = some .badParam) ∧
    ((calm.chan 0).slots.active = some .A ∧ ((calm.lotIn 0 .B).map Lot.state = some .loaded) ∧
      (let t := after (.removeLot 1 0 0) calm
       (t.edition? 9).map Edition.state = some .locked ∧ (t.chan 0).slots.active = some .B) ∧
      (let t := after (.removeLot 1 0 0) { after (.removeLot 1 0 1) calm with port := calm.port }
       (t.edition? 9).map Edition.state = some .opened ∧ (t.chan 0).slots.active = none) ∧
      ((after (.removeLot 1 0 0) busyPart).job? 1).map (fun j => j.flags.lotChanged) = some true) :=
  ⟨calm_ready, calm_sound, by decide +kernel, by decide +kernel⟩

theorem witness_AmendLotBooksTheDifference :
    calm.ready ∧ calm.sound ∧
    (calm.lot? 0x6A0003 = some (lotIn 0x6A0003 300000000 200000000 7610 none) ∧
      calm.lot? 0x6A0001 = some (lotIn 0x6A0001 500000000 400000000 7450 (some .A)) ∧
      [status (.amendLot 1 0 5) calm, status (.amendLot 1 9 5) calm, status (.amendLot 1 0x6A0003 300000000) calm,
        status (.amendLot 1 0x6A0003 300000001) calm] = [some .badKey, some .unknownLot, some .ok, some .okClamped]) ∧
    ((let t := after (.amendLot 1 0x6A0001 0) calm
      (t.edition? 9).map Edition.state = some .locked ∧ (t.chan 0).slots.active = some .B) ∧
      (let t := after (.amendLot 1 0x6A0001 0) { after (.removeLot 1 0 1) calm with port := calm.port }
       (t.edition? 9).map Edition.state = some .opened ∧ (t.chan 0).slots.active = none ∧
         ((after (.amendLot 1 0x6A0001 5) { t with port := calm.port }).chan 0).slots.active = some .A)) :=
  ⟨calm_ready, calm_sound, by decide +kernel, by decide +kernel⟩

theorem witness_RetireLotRetireRollAndReadRoll :
    calm.ready ∧ calm.sound ∧ busyPart.ready ∧ busyPart.sound ∧
    ([status (.retireLot 1 0) calm, status (.retireLot 1 9) calm, status (.retireLot 1 0x6A0001) calm,
      status (.retireLot 1 0x6A0001) { busyPart with lots := [lotIn 0x6A0001 9 9 7 none] },
      status (.retireLot 1 0x6A0003) calm, status (.retireRoll 1 0) calm, status (.retireRoll 1 9) calm,
      status (.retireRoll 1 0xB7) calm, status (.retireRoll 1 0xB7) { busyPart with rolls := [rollOf 0xB7 .ended none 0] },
      status (.retireRoll 1 0xB9) calm, status (.readRoll 1 0xB9) calm, status (.readRoll 1 9) calm] =
      [some .badKey, some .unknownLot, some .lotInUse, some .lotReferenced, some .ok, some .badKey, some .unknownRoll,
        some .rollInUse, some .rollReferenced, some .ok, some .ok, some .unknownRoll]) :=
  ⟨calm_ready, calm_sound, busy_ready, busy_sound, by decide +kernel⟩

theorem witness_SetDayFlagsExpiredLots : calm.ready ∧ calm.sound := ⟨calm_ready, calm_sound⟩

/-- The largest drop counts, drop volumes and weight draw 1,258,292 nL at most (R51). -/
theorem witness_DrawIsWeightedTotalDivided :
    ({ cfg := { vS := 200, vM := 200, vL := 200, weight := 5120 }, residue := 40959999 } : Channel).draw
      ⟨16777215, 16777215, 16777215⟩ = 1258292 := by decide +kernel

/-- The part of section 3.6.1 without its standby lot. -/
def lastLot : State := { purgePart with lots := purgePart.lots.take 1 }

theorem last_lot_sound : lastLot.sound := by unfold State.sound Store.sound ordered; decide +kernel

/-- The purge case of 3.6.1 with a draw of 3,200 nL from a lot of 3,000 nL, and with one of exactly 3,000 nL. -/
theorem witness_SplitDrawTakesTheExcessFromTheStandbyLot :
    purgePart.sound ∧ (purgePart.drawChannel none 2 3200).2 = [(0x5C0020, 3000), (0x5C0021, 200)] ∧
      (purgePart.drawChannel none 2 3000).2 = [(0x5C0020, 3000)] ∧
      ((purgePart.drawChannel none 2 3000).1.chan 2).slots.active = some .B ∧ (purgePart.chan 2).slots.active = some .A ∧
      purgePart.lotIn 2 .A = some { lotIn 0x5C0020 3000 3000 7450 (some .A) with channel := 2 } ∧
      purgePart.lotIn 2 .B = some { lotIn 0x5C0021 90000000 90000000 7610 (some .B) with channel := 2 } ∧
      (lastLot.lotIn 2 .B).isNone = true ∧ (lastLot.drawChannel none 2 3000).2 = [(0x5C0020, 3000)] ∧
      ((lastLot.drawChannel none 2 3000).1.chan 2).slots.active = none := by
  unfold State.sound Store.sound ordered; decide +kernel

/-- The busy part with 300 nL in the active lot of channel 0: 50,000 drops draw 400. -/
def nearlyEmpty : State :=
  { busyPart with lots := [lotIn 0x6A0001 500000000 300 7450 (some .A), lotIn 0x6A0002 300000000 300000000 7610 (some .B)] }

/-- The busy part with 300 nL in the active lot of channel 0 and 400 nL in that of channel 2. -/
def twoOut : State :=
  { nearlyEmpty with
    channels := nearlyEmpty.channels.set 2 { plainChannel with slots := ⟨some 0x5C0020, some 0x5C0021, some .A⟩ }
    lots := [{ lotIn 0x5C0020 400 400 7450 (some .A) with channel := 2 },
      { lotIn 0x5C0021 500 500 7610 (some .B) with channel := 2 }] ++ nearlyEmpty.lots }

/-- 50,000 drops on channels 0 and 2: 400 nL each. -/
def twoDraws : DropCounts := (dry.set 0 ⟨0, 0, 50000⟩).set 2 ⟨0, 0, 50000⟩

/-- The active lots of the two channels. -/
def leaving : Chan → Lot := fun c =>
  if c = 2 then { lotIn 0x5C0020 400 400 7450 (some .A) with channel := 2 } else lotIn 0x6A0001 500000000 300 7450 (some .A)

/-- Their standby lots. -/
def coming : Chan → Lot := fun c =>
  if c = 2 then { lotIn 0x5C0021 500 500 7610 (some .B) with channel := 2 }
  else lotIn 0x6A0002 300000000 300000000 7610 (some .B)

/-- The draw of each channel. -/
def volume (c : Chan) : Nat := (twoOut.chan c).drawOf (twoDraws.get c)

/-- The channels whose active lot the frame exhausts. -/
abbrev runsOut (c : Chan) : Prop := volume c ≠ 0 ∧ (leaving c).remaining ≤ volume c

/-- The hypotheses on the lots, for a frame that exhausts the lots of two channels, one of them exactly. -/
theorem two_out_leaving (c : Chan) :
    volume c ≠ 0 → (twoOut.chan c).slots.active = some .A ∧ twoOut.lotIn c .A = some (leaving c) ∧
      0 < (leaving c).remaining ∧ (leaving c).location = some .A ∧
      ∀ d, d ≠ c → volume d ≠ 0 → (leaving c).code ≠ (leaving d).code := by revert c; decide +kernel

/-- The same part with the standby lot of channel 2 exhausted: there a draw of 400 nL leaves no active lot. -/
def lastOut : State :=
  { twoOut with lots := [{ lotIn 0x5C0020 400 400 7450 (some .A) with channel := 2 },
      { lotIn 0x5C0021 500 0 7610 (some .B) with channel := 2, state := .exhausted }] ++ nearlyEmpty.lots }

/-- The hypotheses on the standby lots, and, of the part with one of them exhausted, on a channel that none stands by. -/
theorem two_out_coming :
    (∃ c, runsOut c) ∧ ∀ c, runsOut c → twoOut.lotIn c TankSlot.A.other = some (coming c) ∧ (coming c).state = .loaded ∧
      0 < (coming c).remaining ∧ volume c - (leaving c).remaining ≤ (coming c).remaining ∧
      (coming c).location = some TankSlot.A.other ∧ (leaving c).code ≠ 0 ∧
      (∀ d, volume d ≠ 0 → (leaving d).code ≠ (coming c).code) ∧
      ∀ d, d ≠ c → runsOut d → (coming c).code ≠ (coming d).code := by decide +kernel

theorem last_out_alone :
    lastOut.sound ∧ runsOut 2 ∧ volume 2 = (leaving 2).remaining ∧
      (∀ l, lastOut.lotIn 2 TankSlot.A.other = some l → l.state ≠ .loaded ∧ l.remaining = 0 ∧
        (∀ d, volume d ≠ 0 → (leaving d).code ≠ l.code) ∧ (coming 0).code ≠ l.code) ∧
      (let t := after (.swath 1 0 false twoDraws) lastOut
       t.head.forming.map HeldAnswer.answer = some (.accept .none) ∧
         [(t.chan 0).slots.active, (t.chan 2).slots.active] = [some .B, none] ∧ (t.chan 2).state = .out ∧
         (t.notices.entries.filter fun n => n.detail.kind == .lotChange).map Notice.subject = [.num 0]) := by
  refine ⟨by unfold State.sound Store.sound ordered; decide +kernel, by decide +kernel, by decide +kernel, ?_,
    by decide +kernel⟩
  intro l h
  have e : lastOut.lotIn 2 TankSlot.A.other = some { lotIn 0x5C0021 500 0 7610 (some .B) with channel := 2, state := .exhausted } := by
    decide +kernel
  rw [e] at h; cases h; decide +kernel

/-- The swath takes 300 and 100 nL on channel 0 and 400 nL on channel 2; edition 9, over channel 0, is locked once; the
groups hold the lots as the whole draw leaves them. A purge that leaves nothing behind leaves channel 0 without active
slot. -/
theorem witness_ExhaustingFrameMovesToTheStandbyLot :
    twoOut.takesFrame ∧ twoOut.sound ∧ twoOut.phase = .run ∧ twoOut.head.purgeToggle ≠ some false ∧
      twoOut.swathVerdict 1 .image false = .go printing ∧ twoOut.printing? = some printing ∧ printing.uses 0 = true ∧
      (let t := after (.swath 1 0 false twoDraws) twoOut
       (t.job? 1).map (fun j => (j.draws, j.flags.lotChanged, j.ink.get 0)) =
           some ([⟨0, 0x6A0001, 300, 0⟩, ⟨0, 0x6A0002, 100, 0⟩, ⟨2, 0x5C0020, 400, 0⟩], true, 94600) ∧
         (t.edition? 9).map (fun e => (e.state, e.generation)) = some (.locked, 5) ∧
         [(t.chan 0).slots.active, (t.chan 2).slots.active] = [some .B, some .B] ∧
         t.head.forming.map HeldAnswer.answer = some (.accept .none) ∧
         t.store.inHand.any (fun w =>
           w.image == .lot { lotIn 0x6A0002 300000000 300000000 7610 (some .B) with
             remaining := 299999900, imageDrawn := 100 }) = true) ∧
      (let s : State := { nearlyEmpty with
         lots := [lotIn 0x6A0001 500000000 300 7450 (some .A), lotIn 0x6A0002 300000000 100 7610 (some .B)] }
       ((after (.purge true (dry.set 0 ⟨0, 0, 50000⟩)) s).chan 0).slots.active = none ∧
         ((after (.purge true (dry.set 0 ⟨0, 0, 50000⟩)) s).chan 0).state = .out) := by
  unfold State.takesFrame State.sound Store.sound ordered; decide +kernel

theorem busy_frames : busyPart.takesFrame := by unfold State.takesFrame; decide

/-- A job with the fields of `printing`, changed, in the busy part. -/
def withJob (j : Job) : State := { busyPart with jobs := [j] }

/-- Section 4.2: one answer for each entry of the table, and each HOLD of a swath that passes it. -/
theorem witness_SwathIsStoppedInTableOrder :
    busyPart.takesFrame ∧ busyPart.sound ∧
    ([(busyPart, 2, false), (inPhase .restore, 0, false), (withJob deferred, 0, false),
      (withJob { printing with state := .deferred }, 0, false), (withJob { printing with state := .voided }, 0, false),
      (withJob { printing with state := .voided, cause := some .mediaEnd }, 0, false),
      (withJob { printing with state := .admitted }, 0, false),
      (withJob { printing with flags := { abortPending := true } }, 0, false),
      (withJob { printing with cause := some .mediaEnd }, 0, false),
      (withJob { printing with lastKind := some .image, swathsLeft := 0, lastStrip := some true }, 0, true),
      (withJob { printing with lastKind := some .image }, 0, true), (busyPart, 0, true),
      (withJob { printing with swathsLeft := 0 }, 0, false), (busyPart, 1, false),
      (inPhase .flush, 0, false), (cutting .jammed, 0, false),
      ({ busyPart with lots := [] }, 0, false)] : List (State × Nat × Bool)).map
        (fun p => (after (.swath 1 p.2.1 p.2.2 (dry.set 0 ⟨0, 0, 50000⟩)) p.1).out) =
      [[.head .crcBad], [.head (.hold .power)], [.head (.block .unknownTag)], [.head (.block .notLive)],
        [.head (.block .notLive)], [.head (.block .mediaEnd)], [.head (.hold .notBegun)], [.head (.block .aborted)],
        [.head (.block .mediaEnd)], [.head (.accept .yes)], [.head (.accept .none)], [.head (.block .sequence)],
        [.head (.block .noImage)], [.head (.block .noStrip)], [.head (.hold .power)], [.head (.hold .jammed)],
        [.head (.hold (.inkOut 0))]] := ⟨busy_frames, busy_sound, by decide +kernel⟩

/-- The lot channel 0 draws from in the busy part. -/
def lotOf : Chan → Lot := fun _ => lotIn 0x6A0001 500000000 400000000 7450 (some .A)

theorem busy_draws : busyPart.drawsFit (dry.set 0 ⟨0, 0, 50000⟩) lotOf := by unfold State.drawsFit; decide +kernel

/-- An image swath that is not the last, the last one with and without a strip, and the last strip swath. -/
theorem witness_AcceptedSwathMetersAndAdvances :
    busyPart.takesFrame ∧ busyPart.sound ∧ busyPart.phase = .run ∧
      busyPart.drawsFit (dry.set 0 ⟨0, 0, 50000⟩) lotOf ∧ busyPart.swathVerdict 1 .image false = .go printing ∧
      (let last : Job := { printing with swathsLeft := 1 }
       let count : State := { withJob last with check := { busyPart.check with forced := false } }
       (withJob last).swathVerdict 1 .image false = .go last ∧
         (after (.swath 1 0 false dry) (withJob last)).out.getLast? = some (.head (.accept .yes)) ∧
         (after (.swath 1 0 false dry) count).head.forming.map HeldAnswer.answer = some (.accept .no) ∧
         (after (.swath 1 0 false dry) count).check.counter = 1 ∧
         (withJob last).activeRoll = some (rollOf 0xB7 .active (some .upper) 156500) ∧
         (after (.swath 1 0 false dry) (withJob last)).media.queue.map (fun e => (e.kind, e.point, e.stripStart)) =
           [(.stripEnd, 990000, some 986000), (.separate, 1073750, none), (.stripEnd, 1078250, some 1074250)] ∧
         (let free : State := { count with media := { count.media with queue := [] } }
          (after (.swath 1 0 false dry) free).media.queue.map CutEntry.point = [1073750] ∧
            (after (.swath 1 0 false dry) free).out = [.stopAt (some 1121750)])) ∧
      (let strip : Job := { printing with swathsLeft := 0, strip := .planned, stripLeft := 1, cut := .pending }
       (withJob strip).swathVerdict 1 .strip false = .go strip ∧
         ((after (.swath 1 1 false dry) (withJob strip)).job? 1).map (fun j => (j.state, j.strip)) =
           some (.finishing, .printed)) := ⟨busy_frames, busy_sound, rfl, busy_draws, by decide +kernel⟩

theorem witness_PurgeIsMeteredToMaintenance :
    busyPart.takesFrame ∧ busyPart.sound ∧ busyPart.drawsFit (dry.set 0 ⟨0, 0, 50000⟩) lotOf ∧
      ([(inPhase .restore, true), ({ busyPart with head := { purgeToggle := some false } }, true), (inPhase .flush, true),
        ({ busyPart with lots := [] }, true), (busyPart, true)] : List (State × Bool)).map
        (fun p => (after (.purge p.2 (dry.set 0 ⟨0, 0, 50000⟩)) p.1).out) =
        [[.head (.hold .power)], [.head (.accept .none)], [.head (.hold .power)], [.head (.hold (.inkOut 0))],
          [.head (.accept .none)]] := ⟨busy_frames, busy_sound, busy_draws, by decide +kernel⟩

theorem witness_RowStatusAndRowMapQuery :
    busyPart.takesFrame ∧ busyPart.sound ∧
      ([(busyPart, 12, 0, 0), (busyPart, 0, 4, 0), (busyPart, 0, 0, 3), (inPhase .restore, 0, 0, 0), (busyPart, 11, 3, 2)] :
        List (State × Nat × Nat × Nat)).map (fun p => (after (.rowStatus p.2.1 p.2.2.1 p.2.2.2) p.1).out) =
        [[.head (.ack .badField)], [.head (.ack .badField)], [.head (.ack .badField)], [.head (.ack .notReady)],
          [.head (.ack .taken)]] ∧
      (after .rowMapQuery (inPhase .restore)).out = [.head (.ack .notReady)] := ⟨busy_frames, busy_sound, by decide +kernel⟩

/-- A mask bit cleared under its fault, the fields one beyond their range, and one refusal for each entry of the table.
-/
theorem witness_RowMasksAndSubstitution :
    calm.ready ∧ calm.sound ∧ busyPart.ready ∧ busyPart.sound ∧
    ((let s : State := { calm with channels := calm.channels.set 0 { calm.chan 0 with
        segments := (calm.chan 0).segments.set 3 { fault := .weeping, maskWeeping := true } } }
     (after (.setRowMask 1 0 3 true false) s).notices.entries = [⟨.segment 0 3, .rowFault .weeping .unused, 1⟩]) ∧
      status (.setRowMask 1 12 0 true true) calm = some .badParam ∧
      status (.setRowMask 1 0 4 true true) calm = some .badParam) ∧
    ((let s : State := { calm with channels := calm.channels.set 0 { calm.chan 0 with
        segments := ((calm.chan 0).segments.set 0 { spare := .soft }).set 1 { spare := .hard } } }
     ([(s, 12, 0, 0), (s, 0, 4, 0), (s, 0, 0, 2), (busyPart, 0, 0, 0), (s, 0, 1, 0), (s, 0, 0, 0), (s, 0, 0, 1),
       (s, 11, 3, 0)] : List (State × Nat × Nat × Nat)).map
       (fun p => status (.substituteRow 1 p.2.1 p.2.2.1 p.2.2.2) p.1)) =
      [some .badParam, some .badParam, some .badParam, some .busy, some .noSpare, some .noSpare, some .ok, some .ok]) :=
  ⟨calm_ready, calm_sound, busy_ready, busy_sound, by decide +kernel, by decide +kernel⟩

/-- The calm part without its second roll. -/
def oneRoll : State := { calm with rolls := [rollOf 0xB7 .active (some .upper) 78250, rollOf 0xB9 .shelved none 0] }

/-- R105: one refusal for each entry of the table, a new roll and a resumed one. -/
theorem witness_LoadRollCreatesOrResumesTheRecord :
    oneRoll.ready ∧ oneRoll.sound ∧
    (([(oneRoll, { load with id := 0 }), (oneRoll, { load with slot := 2 }), (oneRoll, { load with width := 253 }),
      (oneRoll, { load with width := 1627 }), (oneRoll, { load with product := 0 }), (oneRoll, { load with length := 0 }),
      ({ oneRoll with media := { calm.media with lower := .absent } }, load), (calm, load),
      (oneRoll, { load with id := 0xB7 }), ({ oneRoll with rolls := [rollOf 0xB9 .ended none 0] }, { load with id := 0xB9 }),
      (oneRoll, { load with id := 0xB9, width := 254 }),
      ({ oneRoll with rolls := (List.range 16).map fun i => rollOf (i + 1) .shelved none 0 }, load), (oneRoll, load),
      (oneRoll, { load with width := 254 }), (oneRoll, { load with width := 1626 }),
      (oneRoll, { load with id := 0xB9, length := 0 })] : List (State × LoadRollReq)).map
        (fun p => status (.loadRoll 1 p.2) p.1) =
      [some .badKey, some .badParam, some .badParam, some .badParam, some .badParam, some .badParam, some .noMedia,
        some .slotOccupied, some .rollInUse, some .wrongState, some .mismatch, some .tableFull, some .ok, some .ok, some .ok,
        some .ok]) :=
  ⟨⟨rfl, rfl⟩, by unfold State.sound Store.sound ordered; decide +kernel, by decide +kernel⟩

theorem witness_SelectRollPlansTheLeadTrim :
    calm.ready ∧ calm.sound ∧ busyPart.ready ∧ busyPart.sound ∧
    ([status (.selectRoll 1 0xBA) calm, status (.selectRoll 1 0xB9) calm, status (.selectRoll 1 0xB8) busyPart,
      status (.selectRoll 1 0xB8) calm] = [some .unknownRoll, some .wrongState, some .busy, some .ok]) :=
  ⟨calm_ready, calm_sound, busy_ready, busy_sound, by decide +kernel⟩

theorem witness_UnloadRollWithdrawsItsJobs :
    calm.ready ∧ calm.sound ∧ busyPart.ready ∧ busyPart.sound ∧
    ([status (.unloadRoll 1 0xBA) calm, status (.unloadRoll 1 0xB9) calm, status (.unloadRoll 1 0xB7) busyPart,
      status (.unloadRoll 1 0xB7) calm] = [some .unknownRoll, some .wrongState, some .busy, some .ok]) :=
  ⟨calm_ready, calm_sound, busy_ready, busy_sound, by decide +kernel⟩

theorem witness_MediaAndCheckReadings :
    calm.media.timer = none ∧ calm.ready ∧ calm.sound ∧ (cutting .cutting).media.timer = some 3000 ∧
      (cutting .cutting).ready ∧ (cutting .cutting).sound := ⟨rfl, calm_ready, calm_sound, rfl, ⟨rfl, rfl⟩, busy_sound⟩

theorem witness_SettingsAreBroughtIntoRange :
    calm.ready ∧ calm.sound ∧ busyPart.ready ∧ busyPart.sound ∧
    ([status (.setMediaGeometry 1 defaultGeometry) busyPart, status (.setMediaGeometry 1 defaultGeometry) calm,
      status (.setCheckPlan 1 { planReq with cadence := 3 }) calm, status (.setCheckPlan 1 { planReq with labs := [] }) calm,
      status (.setCheckPlan 1 { planReq with labs := List.replicate 9 ⟨0, 0, 0⟩ }) calm,
      status (.setCheckPlan 1 planReq) busyPart,
      status (.setCheckPlan 1 { planReq with labs := List.replicate 8 ⟨0, 0, 0⟩ }) calm] =
      [some .busy, some .ok, some .badParam, some .badParam, some .badParam, some .busy, some .ok] ∧
    cadenceOf planReq.cadence = some .double) :=
  ⟨calm_ready, calm_sound, busy_ready, busy_sound, by decide +kernel⟩

/-- The strip-end cut of a finishing job, a separate cut with it behind, and a lead trim. -/
theorem witness_CutDoneAndSkipEndTheCut :
    (cutting .cutting).mediaFree ∧ (cutting .cutting).sound ∧ (cutting .jammed).ready ∧ (cutting .jammed).sound ∧
      (cutting .cutting).activeRoll = some (rollOf 0xB7 .active (some .upper) 156500) ∧
      (cutting .cutting).media.queue = [stripCut] ∧ stripCut.kind = .stripEnd ∧ (cutting .cutting).job? 4 = some finishing ∧
      (let s := cutting .cutting
       let sep : CutEntry := { stripCut with kind := .separate, point := 985500, target := 1033500, stripStart := none }
       let trim : CutEntry := { stripCut with kind := .leadTrim, owner := none, stripStart := none }
       ((after .cutDone { s with media := { s.media with queue := [sep, stripCut] } }).job? 4).map
           (fun j => (j.printPiece, j.cut)) = some (85500, .pending) ∧
         (after .cutDone { s with media := { s.media with queue := [trim] } }).overhead.trims = 90000 * 1118 * 182000) :=
  ⟨⟨.inl rfl, rfl, rfl⟩, busy_sound, ⟨rfl, rfl⟩, busy_sound, by decide +kernel⟩

theorem witness_JamOfTheCutterAndItsRetry :
    (cutting .cutting).mediaFree ∧ (cutting .cutting).sound ∧ busyPart.mediaFree ∧ (cutting .jammed).ready ∧
      (cutting .jammed).sound ∧
      (cutting .jammed).media.queue = [stripCut] ∧
      (let s := cutting .jammed
       (after (.clearJamRetry 1) { s with rolls := [{ rollOf 0xB7 .active (some .upper) 0 with fed := 1038000 }] }).out =
         [.cut .stripEnd 1038000] ∧
       (after (.clearJamRetry 1) { s with rolls := [{ rollOf 0xB7 .active (some .upper) 0 with fed := 1037999 }] }).out =
         []) := ⟨⟨.inl rfl, rfl, rfl⟩, busy_sound, ⟨.inl rfl, rfl, rfl⟩, ⟨rfl, rfl⟩, busy_sound, by decide +kernel⟩

theorem witness_FeedMovesTheFeedPosition :
    busyPart.mediaFree ∧ busyPart.sound ∧
      [after (.feed 2000001) busyPart, after (.feed (-2000001)) busyPart] = [busyPart, busyPart] ∧
      ((after (.feed 2000000) busyPart).roll? 0xB7).map Roll.fed = some 3000000 ∧
      ((after (.feed (-2000000)) busyPart).roll? 0xB7).map Roll.fed = some 948000 ∧ busyPart.printing? = some printing ∧
      ((after (.feed 78251) busyPart).job? 1).map (fun j => (j.rollRes, j.flags.overrunMedia)) = some (0, true) :=
  ⟨⟨.inl rfl, rfl, rfl⟩, busy_sound, by decide +kernel⟩

theorem witness_RollPresentAndLoadedRollEnd :
    busyPart.mediaFree ∧ busyPart.sound ∧ rollSlotOf 1 = some .lower ∧ presenceOf 0 = some .absent ∧
      busyPart.rollIn .lower = some (rollOf 0xB8 .loaded (some .lower) 0) ∧
      after (.rollPresent 2 0) busyPart = busyPart ∧ after (.rollPresent 0 2) busyPart = busyPart ∧
      after (.rollEnd 2) busyPart = busyPart ∧ (oneRoll.rollIn .lower).isNone = true ∧
      ((after (.rollEnd 1) busyPart).roll? 0xB8).map (fun r => (r.state, r.length)) = some (.ended, 1000000) :=
  ⟨⟨.inl rfl, rfl, rfl⟩, busy_sound, by decide +kernel⟩

theorem witness_ActiveRollEndDiscardsTheCutQueue :
    busyPart.mediaFree ∧ busyPart.sound ∧ rollSlotOf 0 = some .upper ∧
      busyPart.rollIn .upper = some (rollOf 0xB7 .active (some .upper) 156500) ∧
      busyPart.activeRoll = some (rollOf 0xB7 .active (some .upper) 156500) ∧ busyPart.printing? = some printing ∧
      printing.cause = none := ⟨⟨.inl rfl, rfl, rfl⟩, busy_sound, by decide +kernel⟩

theorem witness_VerdictIsDecidedByTheWorstPatch : ∃ m r : List Lab, m ≠ [] ∧ m.length = r.length :=
  ⟨[⟨7100, 100, 100⟩], [⟨7000, 0, 0⟩], by decide, rfl⟩

/-- A reading that does not match, one with a status of its own, a FAULT, and a wrong patch count. -/
theorem witness_UnmatchedAndFaultyReadings :
    busyPart.sensorFree ∧ busyPart.sound ∧ busyPart.check.arm = some ⟨1, 4⟩ ∧ busyPart.job? 4 = some finishing ∧
      after (.reading { inTolerance with seq := 2 }) busyPart = busyPart ∧
      after (.reading { inTolerance with status := 2 }) busyPart = busyPart ∧
      ((after (.reading { inTolerance with status := 1 }) busyPart).job? 4).map (fun j => j.flags.unchecked) = some true ∧
      ((after (.reading { inTolerance with labs := [] }) busyPart).job? 4).map (fun j => j.flags.unchecked) = some true ∧
      (after (.reading { inTolerance with labs := [] }) busyPart).notices.entries.map Notice.detail = [.checkMissed .count] ∧
      (let s := withJob { finishing with cut := .done }
       let t := after (.reading { inTolerance with status := 1 }) s
       t.notices.entries.map (fun n => n.detail.kind) = [.checkResult] ∧ lateJobStates t = [([1, 2], .num 4)]) :=
  ⟨⟨.inl rfl, rfl, rfl⟩, busy_sound, by decide +kernel⟩

/-- A verdict on an EDITION job, and a PASS on a CHECK job of a LOCKED edition, which it unlocks. -/
theorem witness_ReadingGivesTheVerdict :
    busyPart.sensorFree ∧ busyPart.sound ∧ busyPart.check.arm = some ⟨1, 4⟩ ∧ busyPart.job? 4 = some finishing ∧
      finishing.gains = some (Vec12.all 1024) ∧
      inTolerance.labs.length = (busyPart.standard finishing).labs.length ∧ finishing.cut = .pending ∧
      (busyPart.standard finishing).band ≠ none ∧
      ((after (.reading { inTolerance with densities := Vec12.all 1490 }) busyPart).chan 0).cfg.gain = 992 ∧
      (let check : Job := { finishing with spec := specOf .check (some 9) 0xB7, generation := some 4 }
       let s : State := { withJob check with editions := [editionOf 9 .locked (some house) none] }
       ((after (.reading inTolerance) s).edition? 9).map Edition.state = some .opened ∧
         ((after (.reading { inTolerance with labs := [⟨6000, 0, 0⟩] }) s).edition? 9).map Edition.state = some .locked ∧
         (after (.reading inTolerance) s).notices.entries.map Notice.detail =
           [.editionUnlocked 4 4, .checkVerdict .pass 0 1 0 (some true)]) :=
  ⟨⟨.inl rfl, rfl, rfl⟩, busy_sound, by decide +kernel⟩

/-- A proving strip is read with the stale mark clear, with it set, and with a density of 0. -/
theorem witness_ProvingReadingsFormTheProvisionalReference :
    let proof : Job := { finishing with spec := specOf .edition (some 10) 0xB7 }
    let s := withJob proof
    let source (s : State) (m : ReadingMsg) : Option (Option Nat) :=
      ((after (.reading m) s).edition? 10).map fun e => e.provisional.map Provisional.source
    s.sensorFree ∧ s.sound ∧ s.check.arm = some ⟨1, 4⟩ ∧ s.job? 4 = some proof ∧ proof.gains = some (Vec12.all 1024) ∧
      inTolerance.labs.length = s.check.plan.labs.length ∧ (s.edition? 10).map Edition.state = some .proving ∧
      proof.cut = .pending ∧
      (let bare : State := { s with editions := [editionOf 10 .proving none none] }
       let stale : State := { s with editions := [{ editionOf 10 .proving none none with stale := true }] }
       [source bare inTolerance, source stale inTolerance,
         source bare { inTolerance with densities := Vec12.all 0 }] = [some (some 4), some none, some none]) := by
  unfold State.sensorFree State.atWork State.sound Store.sound ordered; decide +kernel

/-- A strip that is PRINTED with no arm outstanding, with one of a job whose cut is pending, and with one of a job whose
cuts are through; and a strip that is PLANNED. -/
theorem witness_StripArrivalArmsTheSensor :
    let other : Job := { finishing with tag := 7 }
    let s : State := { busyPart with jobs := [printing, finishing, other] }
    let free : State := { s with check := { s.check with arm := none, armSeq := 255 } }
    let through : State := { s with jobs := [{ finishing with cut := .done }, other] }
    s.sound ∧ s.job? 7 = some other ∧ other.strip = .printed ∧ s.check.arm = some ⟨1, 4⟩ ∧ s.job? 4 = some finishing ∧
      (free.arrive 7).out = [.arm 0 1] ∧ (free.arrive 7).check.arm = some ⟨0, 7⟩ ∧ free.arrive 1 = free ∧
      ((s.arrive 7).job? 4).map (fun j => (j.strip, j.state)) = some (.resolved, .finishing) ∧
      s.handling.gathered = none ∧ openKeys (s.arrive 7) = [([1], [.job 4])] ∧
      (s.arrive 7).check.arm = some ⟨2, 7⟩ ∧ ((through.arrive 7).job? 4).map Job.state = some .settled ∧
      (through.arrive 7).out = [.arm 2 1] ∧ (through.arrive 7).store.count = 2 := by
  unfold State.sound Store.sound ordered; decide +kernel

/-- R157: one refusal for each entry of the table, and an edition with and without a reference. -/
theorem witness_CreateEditionWritesTheRecord :
    calm.ready ∧ calm.sound ∧
    (([(calm, { create with id := 0 }), (calm, { create with limit := 0 }), (calm, { create with limit := 1000 }),
      (calm, { create with mask := 0 }), (calm, { create with mask := 4096 }),
      (calm, { create with reference := some { house with labs := [] } }),
      (calm, { create with reference := some { house with labs := List.replicate 9 ⟨0, 0, 0⟩ } }),
      (calm, { create with reference := some { house with densities := Vec12.all 0 } }), (calm, { create with id := 11 }),
      ({ calm with jobs := [{ settled with spec := specOf .edition (some 12) 0xB7 }] }, create),
      ({ calm with editions := (List.range 64).map fun i => editionOf (i + 100) .proving none none }, create),
      (calm, { create with limit := 999, mask := 4095 }), (calm, { create with limit := 1, reference := none })] :
      List (State × EditionReq)).map (fun p => status (.createEdition 1 p.2) p.1) =
      [some .badKey, some .badParam, some .badParam, some .badParam, some .badParam, some .badParam, some .badParam,
        some .badParam, some .editionExists, some .editionReferenced, some .tableFull, some .ok, some .ok]) :=
  ⟨calm_ready, calm_sound, by decide +kernel⟩

theorem witness_AdoptOrRejectTheProvisionalReference :
    calm.ready ∧ calm.sound ∧
    ((let live : State := { calm with jobs := [{ admitted with spec := specOf .edition (some 10) 0xB7 }] }
     let bare : State := { calm with editions := [editionOf 10 .proving none none] }
     [status (.adoptReference 1 0) calm, status (.adoptReference 1 12) calm, status (.adoptReference 1 9) calm,
       status (.adoptReference 1 10) live, status (.adoptReference 1 10) bare, status (.adoptReference 1 10) calm,
       status (.rejectReference 1 0) calm, status (.rejectReference 1 12) calm, status (.rejectReference 1 9) calm,
       status (.rejectReference 1 10) bare, status (.rejectReference 1 10) live]) =
      [some .badKey, some .unknownEdition, some .wrongState, some .busy, some .noReference, some .ok, some .badKey,
        some .unknownEdition, some .wrongState, some .noReference, some .ok]) :=
  ⟨calm_ready, calm_sound, by decide +kernel⟩

theorem witness_CloseAndRetireEdition :
    calm.ready ∧ calm.sound ∧ busyPart.ready ∧ busyPart.sound ∧
    ((let named : State := { calm with jobs := [{ settled with spec := specOf .edition (some 11) 0xB7 }] }
     [status (.closeEdition 1 0) calm, status (.closeEdition 1 12) calm, status (.closeEdition 1 11) calm,
       status (.closeEdition 1 9) busyPart, status (.closeEdition 1 9) calm, status (.retireEdition 1 0) calm,
       status (.retireEdition 1 12) calm, status (.retireEdition 1 9) calm, status (.retireEdition 1 11) named,
       status (.retireEdition 1 11) calm]) =
      [some .badKey, some .unknownEdition, some .wrongState, some .busy, some .ok, some .badKey, some .unknownEdition,
        some .wrongState, some .editionReferenced, some .ok]) :=
  ⟨calm_ready, calm_sound, busy_ready, busy_sound, by decide +kernel⟩

/-- The job of 9.7 settles and is numbered 4; voided, it is not. -/
theorem witness_SettlementCostsAndNumbersTheJob :
    (costPart .job).sound ∧ (costPart .job).job? 4 = some costed ∧ costed.state = .finishing ∧ costed.cut = .done ∧
      costed.strip = .resolved ∧
      (((costPart .job).settleTest 4).job? 4).map (fun j => (j.state, j.number, j.cost)) =
        some (.settled, some 4, some ⟨98240, 159220, 25000, 282460⟩) ∧
      (((costPart .job).settleTest 4).edition? 9).map (fun e => (e.issued, e.printTotal)) = some (4, 282560) ∧
      ((costPart .job).settleTest 4).notices.entries = [⟨.num 4, .jobState .settled none {}, 1⟩] := by
  unfold State.sound Store.sound ordered; decide +kernel

/-- R174, R175: one refusal for each entry of the tables, and the bounds of the classes. -/
theorem witness_PricesStripModeAndOverhead :
    calm.ready ∧ calm.sound ∧ busyPart.ready ∧ busyPart.sound ∧
    ([status (.setStripAccounting 1 2) calm, status (.setStripAccounting 1 0) busyPart,
      status (.setStripAccounting 1 1) calm] = [some .badParam, some .busy, some .ok]) ∧
    (calm.prices.sound ∧
    (let locked : State := { calm with prices := { calm.prices with lock := true } }
     let many : State := { calm with prices := PriceTable.withEntries {} ((List.range 24).map fun i => ⟨.ink, i + 1, 5, false⟩) }
     [status (.writePrice 1 ⟨0, false, 1, 5⟩) calm, status (.writePrice 1 ⟨4, false, 1, 5⟩) calm,
       status (.writePrice 1 ⟨1, false, 0, 5⟩) calm, status (.writePrice 1 ⟨3, false, 4, 5⟩) calm,
       status (.writePrice 1 ⟨1, false, 0x2C00, 5⟩) locked, status (.writePrice 1 ⟨2, false, 1, 5⟩) many,
       status (.writePrice 1 ⟨3, false, 3, 1000000⟩) calm, status (.writePrice 1 ⟨1, false, 65535, 65535⟩) calm,
       status (.writePrice 1 ⟨1, false, 65535, 65536⟩) calm, status (.removePrice 1 0 1) calm,
       status (.removePrice 1 2 1) calm, status (.removePrice 1 1 0x2C00) locked, status (.removePrice 1 1 0x2C00) calm]) =
      [some .badParam, some .badParam, some .badParam, some .badParam, some .priceProtected, some .tableFull, some .ok,
        some .ok, some .okClamped, some .badParam, some .unknownPrice, some .priceProtected, some .ok]) :=
  ⟨calm_ready, calm_sound, busy_ready, busy_sound, by decide +kernel, by unfold PriceTable.sound ordered; decide +kernel⟩

/-- The flush with nothing to write, with a changed record, in hand, complete, and given up with a record unsaved. -/
theorem witness_PfailStartsAndEndsTheFlush :
    calm.sound ∧ calm.atRest ∧ calm.phase = .run ∧ calm.store.changed = [] ∧
      (after .pfailAssert { calm with store := { changed := [.plan] } }).store.flush.group = some 1 ∧
      (after .pfailDeassert { inPhase .flush with store := { flush := { group := some 1 }, count := 1 } }).phase = .flush ∧
      (after .pfailDeassert { inPhase .flush with store := { unsaved := [.plan], flush := { givenUp := [.plan] } } }).phase =
        .run ∧
      (let t := after .pfailAssert { cutThrough with store := { cutThrough.store with changed := [.plan], unsaved := [.job 4] } }
       t.store.flush.group = some 3 ∧ behindKeys t = [] ∧
         openKeys t = [([1, 2, 3], [.roll 0xB7, .job 4, .lot 0x6A0001, .roll 0xB7, .edition 9, .plan])]) :=
    ⟨calm_sound, rfl, by decide +kernel⟩

/-- A store with one record of each kind: the PRINTING job of edition 9, a dirty lot in slot A of channel 0, whose slot B
names a lost lot and is active, the ACTIVE roll, and channel 0 with a HARD spare. -/
def kept : Store :=
  let whole (k : RecKey) (i : Image) : StoredRecord := ⟨k, some ⟨1, i, true⟩, none⟩
  { records := [whole (.job 1) (.job printing), whole (.lot 0x6A0001) (.lot (lotIn 0x6A0001 9 5 7 (some .A))),
      whole (.roll 0xB7) (.roll (rollOf 0xB7 .active (some .upper) 0)),
      whole (.edition 9) (.edition { editionOf 9 .opened (some house) none with stale := true }),
      whole (.slots 0) (.slots ⟨some 0x6A0001, some 0x6A0002, some .B⟩),
      whole (.channel 0) (.channel { gain := 1000 } (Vector.replicate 4 ⟨true, false, true⟩)),
      whole .stripMode (.stripMode .overhead), whole .counters (.counters 7 31 ⟨1, 2, 3, 4⟩)]
    closed := [1], dirty := [.lot 0x6A0001] }

/-- The store of `kept` restored: the images meet the hypotheses, and each record comes back. -/
theorem witness_RestoreEndRebuildsTheWorkingRecords :
    State.reset.phase = .restore ∧ State.reset.store.restored = none ∧ calm.phase ≠ .restore ∧
      (after (.restoreEnd ⟨[], false⟩) { State.reset with pfail := true }).phase = .flush ∧
      (kept.images.map Prod.fst) = [.job 1, .lot 0x6A0001, .roll 0xB7, .edition 9, .slots 0, .channel 0, .stripMode,
        .counters] ∧
      (let t := after (.restoreEnd ⟨[], false⟩) { State.reset with store := kept }
       t.lots = [{ lotIn 0x6A0001 9 5 7 (some .A) with uncertain := true }] ∧
         t.rolls = [rollOf 0xB7 .loaded (some .upper) 0] ∧
         (t.editions.map fun e => (e.id, e.stale, e.issued, e.voided)) = [(9, false, 3, 1)] ∧
         (t.jobs.map fun j => (j.tag, j.state, j.cause)) = [(1, .voided, some .interrupted)] ∧
         (t.chan 0).slots = ⟨some 0x6A0001, none, some .A⟩ ∧ (t.chan 0).cfg.gain = 1000 ∧
         ((t.chan 0).segments.get 3) = { fault := .ok, maskMissing := true, maskWeeping := false, spare := .hard } ∧
         t.stripMode = .overhead ∧ t.day = 31 ∧ t.overhead = ⟨1, 2, 3, 4⟩) := by decide +kernel

theorem writing_sound : writing.sound := by unfold State.sound Store.sound ordered; decide +kernel

/-- The busy part in FLUSH with a cut under way. -/
def flushing : State := { cutting .cutting with phase := .flush }

/-- The same with both links waiting for a commit group. -/
def linksBusy : State :=
  { flushing with
    media := { flushing.media with waiting := [1] }
    check := { flushing.check with waiting := [1] } }

/-- A FEED held until commit group 1 completes. -/
def feedHeld : State := { writing with media := { writing.media with waiting := [1], held := [.feed 10] } }

theorem flushing_sound : flushing.sound := by unfold State.sound Store.sound ordered; decide +kernel

theorem feed_held_sound : feedHeld.sound := by unfold State.sound Store.sound ordered; decide +kernel

theorem links_in_flush : flushing.mediaFree ∧ flushing.sensorFree ∧ linksBusy.mediaWaits ∧ linksBusy.sensorWaits :=
  ⟨⟨.inr rfl, rfl, rfl⟩, ⟨.inr rfl, rfl, rfl⟩, ⟨.inr rfl, by decide⟩, ⟨.inr rfl, by decide⟩⟩

theorem feed_held_taken : linkStays feedHeld.media.held feedHeld.media.waiting [2] := .inr ⟨1, by decide, by decide⟩

/-- R71, R110, R136: a frame while an answer is being formed, and a message in RESTORE, are discarded. -/
theorem witness_frames_and_messages_discarded :
    let forming : State := { busyPart with head := { busyPart.head with forming := some ⟨.accept .none, [1]⟩ } }
    forming.head.forming ≠ none ∧ (after (.purge false dry) forming).out = [] ∧
      (after (.rowStatus 0 0 1) forming).channels = forming.channels ∧ (inPhase .restore).discardsMessages ∧
      (after (.feed 5) (inPhase .restore)).rolls = busyPart.rolls ∧
      (after (.reading inTolerance) (inPhase .restore)).check = busyPart.check :=
  ⟨by decide, by decide +kernel, by decide +kernel, .inl rfl, by decide +kernel, by decide +kernel⟩

/-- The links in FLUSH: free, where a message has its effects and the flush goes on, and waiting, where it is held; and a
message held for a group that completes. -/
theorem witness_links_in_flush_and_waiting :
    flushing.mediaFree ∧ flushing.sensorFree ∧ flushing.sound ∧ flushing.phase = .flush ∧
      ((after (.feed 2000000) flushing).roll? 0xB7).map Roll.fed = some 3000000 ∧
      (after (.feed 2000000) flushing).store.flush.group.isSome = true ∧
      (after (.cutFault 4) flushing).media.cutter = .jammed ∧
      linksBusy.mediaWaits ∧ linksBusy.sensorWaits ∧
      (after .cutTimeout linksBusy).media.cutter = .jammed ∧
      (after .cutDone linksBusy).media.held = [.cutDone] ∧ (after (.rollEnd 0) linksBusy).media.held = [.rollEnd 0] ∧
      (after (.reading inTolerance) linksBusy).check.held = [inTolerance] ∧
      feedHeld.sound ∧ feedHeld.head.forming.isNone = true ∧ linkStays feedHeld.media.held feedHeld.media.waiting [2] ∧
      (after (.commitGroupComplete 1) feedHeld).media.held = [] ∧
      ((after (.commitGroupComplete 1) feedHeld).roll? 0xB7).map Roll.fed = some 1000010 := by
  refine ⟨links_in_flush.1, links_in_flush.2.1, flushing_sound, rfl, ?_, ?_, ?_, links_in_flush.2.2.1, links_in_flush.2.2.2,
    ?_, ?_, ?_, ?_, feed_held_sound, rfl, feed_held_taken, ?_, ?_⟩ <;> decide +kernel

/-- A group of one image that a request waits for, an unknown group, and one that a settlement waits for. -/
theorem witness_GroupCompletionClosesItsCopies :
    writing.sound ∧ (∃ g, writing.store.openGroup 1 = some g ∧ g.nums = [1] ∧ g.writes.length = 1 ∧ ∀ w ∈ g.writes, w.stage ≠ .written) ∧
      writing.phase = .run ∧ writing.media.held = [] ∧ writing.check.held = [] ∧ writing.store.openGroup 2 = none ∧
      cutThrough.sound ∧ (cutThrough.store.openGroup 1).isSome = true ∧ cutThrough.store.behind ≠ [] ∧
      openKeys (after (.commitGroupComplete 1) cutThrough) = [([2], [.job 4, .lot 0x6A0001, .roll 0xB7, .edition 9])] :=
  ⟨writing_sound, ⟨_, rfl, by decide +kernel⟩, by unfold State.sound Store.sound ordered; decide +kernel⟩

theorem witness_WriteFailureLeavesRecordsUnsaved :
    writing.sound ∧ writing.atRest ∧ (∃ g, writing.store.openGroup 1 = some g ∧ ∀ w ∈ g.writes, w.group ∉ writing.store.closed) ∧
      writing.phase = .run ∧ (after (.storeWriteFailure (.mark (.lot 0x6A0001))) writing).store.dirty = [] ∧
      (after (.storeWriteFailure (.images 1 [.plan])) writing).store = writing.store :=
  ⟨writing_sound, rfl, ⟨_, rfl, by decide +kernel⟩, by decide +kernel⟩

/-! ### Witnesses of clauses: the flush that goes on, what a commit hands, and what the dirty marks say -/

/-- The calm part in FLUSH, its flush group in hand with its image written. -/
def lastGroup (pfail retried : Bool) : State :=
  { calm with
    phase := .flush
    pfail := pfail
    store :=
      { count := 1, called := 1, flush := { group := some 1, retried := retried }
        groups := [groupOf 1 [img .plan 1 .written false]] } }

theorem last_group_sound : (lastGroup true false).sound := by unfold State.sound Store.sound ordered; decide +kernel

/-- R201, R203: the last flush group completes with PFAIL asserted and deasserted. -/
theorem witness_flush_group_completes :
    (lastGroup true false).sound ∧ (lastGroup true false).atRest ∧
      (let t := after (.commitGroupComplete 1) (lastGroup true false)
       t.phase = .flush ∧ t.store.marker = true ∧ t.store.flush.group = none) ∧
      (let t := after (.commitGroupComplete 1) (lastGroup false false)
       t.phase = .run ∧ t.store.marker = false) :=
  ⟨last_group_sound, rfl, by decide +kernel, by decide +kernel⟩

/-- R201, R203: a failed flush group is handed once more; after its second failure the flush ends without a marker. -/
theorem witness_flush_group_fails :
    (let t := after (.storeWriteFailure (.close 1)) (lastGroup true false)
     t.phase = .flush ∧ t.store.flush.group = some 2 ∧ t.store.flush.retried = true ∧ openKeys t = [([2], [.plan])]) ∧
    (let t := after (.storeWriteFailure (.close 1)) (lastGroup true true)
     t.phase = .flush ∧ t.store.marker = false ∧ t.store.groups = [] ∧ t.store.unsaved = [.plan]) ∧
    (after (.storeWriteFailure (.close 1)) (lastGroup false true)).phase = .run := by decide +kernel

/-- R201, R202: with its group in hand the flush waits; for a change behind it a further group is handed; with nothing due it
waits for an open group and writes the marker, or enters RUN, behind it. -/
theorem witness_flush_goes_on :
    let s := lastGroup true false
    let keep (st : Store) : State := { s with store := st }
    s.advanceFlush = s ∧
      (keep { changed := [.plan] }).advanceFlush.store.flush.group = some 1 ∧
      (keep { s.store with flush := {} }).advanceFlush.store.marker = false ∧
      (keep {}).advanceFlush.store.marker = true ∧
      ({ keep {} with pfail := false } : State).advanceFlush.phase = .run := by decide +kernel

/-- R193, R199: the group of an amended lot holds the lot's new image and the unsaved lot; the clean marker is erased. -/
theorem witness_commits :
    let s : State := { calm with store := { unsaved := [.lot 0x6A0002], marker := true } }
    let t := after (.amendLot 1 0x6A0001 7) s
    t.image (.lot 0x6A0001) ≠ s.image (.lot 0x6A0001) ∧ t.store.behind = [] ∧ t.store.marker = false ∧
      t.store.inHand.map (fun w => (w.key, decide (w.image = t.image w.key), w.retry)) =
        [(.lot 0x6A0001, true, false), (.lot 0x6A0002, true, true)] := by decide +kernel

/-- R193: the close entry of a group makes the image written before and the one not written yet stand. -/
theorem witness_every_image_stands :
    let s : State :=
      { grouped [groupOf 2 [img .plan 2 .written false, img .geometry 2 .waiting false]] with
        store :=
          { count := 2, called := 3, groups := [groupOf 2 [img .plan 2 .written false, img .geometry 2 .waiting false]]
            records := [⟨.plan, none, some ⟨2, .stripMode .job, true⟩⟩, ⟨.geometry, some ⟨1, .stripMode .overhead, true⟩, none⟩]
            closed := [1] } }
    let t := after (.commitGroupComplete 2) s
    t.store.standing .plan = some (.stripMode .job) ∧ t.store.standing .geometry = some (.stripMode .job) := by
  decide +kernel

/-- R195, R196: a swath and a purge write the dirty mark of the lot drawn from and erase the clean marker. -/
theorem witness_draws_write_the_dirty_mark :
    let s : State := { busyPart with store := { marker := true } }
    let marks (i : Instr) : List RecKey × Bool := ((after i s).store.dirty, (after i s).store.marker)
    marks (.swath 1 0 false (dry.set 0 ⟨0, 0, 50000⟩)) = ([.lot 0x6A0001], false) ∧
      marks (.purge true (dry.set 0 ⟨0, 0, 50000⟩)) = ([.lot 0x6A0001], false) ∧ marks (.purge true dry) = ([], true) ∧
      (after (.swath 1 0 false twoDraws) twoOut).store.dirty.contains (.lot 0x6A0002) = true := by decide +kernel

/-- R107, R126: the LOADED roll's end withdraws the job that holds it and trims the printing job of that roll. -/
theorem witness_loaded_roll_end_withdraws_and_trims :
    let onLower (j : Job) : Job := { j with spec := { j.spec with roll := 0xB8 } }
    let s : State :=
      { busyPart with
        jobs := [onLower printing, onLower admitted]
        rolls := [rollOf 0xB7 .active (some .upper) 0, rollOf 0xB8 .loaded (some .lower) 156500] }
    let t := after (.rollEnd 1) s
    (t.jobs.map fun j => (j.state, j.rollRes, j.flags.overrunMedia)) = [(.printing, 0, true), (.deferred, 0, false)] ∧
      (t.roll? 0xB8).map (fun r => (r.state, r.length, r.reserved)) = some (.ended, 1000000, 0) ∧
      t.store.called = 3 ∧ t.notices.entries.map Notice.detail = [.withdrawn (.roll 0xB8)] ∧
      (t.notices.later.map fun n => n.detail) = [.rollEnd 1000000 0 false] := by decide +kernel

/-- R15, R23, R118, R141: the strip-end cut of a PRINTING job with its strip unread: three commit points, and the notices
of the missed check, of FINISHING and of the settlement. -/
theorem witness_strip_end_cut_of_a_printing_job :
    let job : Job := { printing with swathsLeft := 0, strip := .printed, stripLeft := 0, cut := .pending, separated := true }
    let cut : CutEntry := { stripCut with owner := some 1 }
    let s : State := { cutting .cutting with jobs := [job], media := { (cutting .cutting).media with queue := [cut] } }
    let t := after .cutDone s
    t.store.called = 3 ∧ t.notices.entries.map Notice.detail = [.checkMissed .cut] ∧
      (t.notices.later.map fun n => n.detail.kind) = [.jobState, .jobState] ∧
      (t.job? 1).map Job.state = some .settled := by decide +kernel

/-- R106: both rolls that SELECT ROLL touches are committed. -/
theorem witness_select_commits_both_rolls :
    openKeys (after (.selectRoll 1 0xB8) calm) = [([1], [.roll 0xB8, .roll 0xB7])] := by decide +kernel

/-- R115, R117: the strip-end cut of a CHECK job behind other cuts, at the head of the queue, and at its target already. -/
theorem witness_check_job_cut_starts :
    let s : State := { calm with jobs := [checkJob] }
    let flat : Geometry := { s.media.geometry with stripGap := 0, stripLength := 0, cutterOffset := 0 }
    (after (.beginJob 1 2) s).out = [.stopAt (some 1052500)] ∧
      (after (.beginJob 1 2) { s with media := { s.media with queue := [stripCut] } }).out = [] ∧
      (let t := after (.beginJob 1 2) { s with media := { s.media with geometry := flat } }
       t.out = [.stopAt (some 1000000), .cut .stripEnd 1000000] ∧ t.media.cutter = .cutting) := by decide +kernel

/-- R149: a PASS on an EDITION job leaves its edition as it stands. R23, R187: a settlement that moves an accumulator
commits COUNTERS. -/
theorem witness_pass_and_accumulators :
    (after (.reading inTolerance) busyPart).edition? 9 = busyPart.edition? 9 ∧
      (openKeys ((costPart .overhead).beginHandling.settleTest 4)).any (fun g => g.2.contains .counters) = true := by
  decide +kernel

/-- R27, R167, R205, R207: the restored job's total goes to the edition's waste; the notices of stage 7; a failed image. -/
theorem witness_restore_carries_and_reports :
    let s : State := { State.reset with store := kept }
    let t := after (.restoreEnd ⟨[], false⟩) s
    (t.editions.map fun e => e.wasteTotal) = [25000] ∧ t.store.count = 2 ∧ t.store.lastDone = 2 ∧
      t.notices.entries.map Notice.detail = [.restarted .powerOn false 1 0, .uncertainRecords 1 0] ∧
      (let f := after (.restoreEnd ⟨[.job 1], false⟩) s
       f.store.lastDone = 1 ∧ (f.notices.entries.map Notice.detail).getLast? =
         some (.writeFault (some (.job 1)) 1)) := by decide +kernel

end Sys2Proof.Tests
end

-- ==== Sys2Proof/Proofs/store ====
section
/-!
The law of the open commit groups (R192, R193, R194): handing a group, letting waiting commit points hand theirs, and the end
of a group keep `Store.sound`.
-/

namespace Sys2Proof.Machine

/-! ### The commit points not complete -/

/-- The numbers of the commit points not complete: those of the open groups and those that wait (R194). -/
def Store.openIds (st : Store) : List Nat := st.groups.flatMap OpenGroup.ids ++ st.behind.map CommitPoint.id

/-- An open group has commit points and numbers, none above the last one given, and its images carry them (R193). -/
def OpenGroup.numbered (count : Nat) (g : OpenGroup) : Prop :=
  g.ids ≠ [] ∧ g.nums ≠ [] ∧ (∀ n ∈ g.nums, n ≤ count) ∧ ∀ w ∈ g.writes, w.group ∈ g.nums

/-- The law of the commit points without its last word: a commit point that waits may wait for none. -/
structure Store.steady (st : Store) : Prop where
  called : ∀ k ∈ st.openIds, k ≤ st.called
  apart : st.openIds.Nodup
  numbered : ∀ g ∈ st.groups, g.numbered st.count
  images : ∀ p ∈ st.behind, p.writes ≠ []
  waits : ∀ p ∈ st.behind, ∀ n ∈ p.after, n ∈ st.openIds

theorem Store.mem_openAbove {st : Store} {n k : Nat} : k ∈ st.openAbove n ↔ k ∈ st.openIds ∧ n < k := by
  rw [Store.openAbove, List.mem_filter, decide_eq_true_eq]; rfl

theorem Store.sound_iff (st : Store) : st.sound ↔ st.steady ∧ ∀ p ∈ st.behind, p.after ≠ [] := by
  constructor
  · rintro ⟨hc, hn, hg, hb⟩
    refine ⟨⟨fun k hk => ?_, hn, hg, fun p hp => (hb p hp).1, fun p hp => (hb p hp).2.2⟩, fun p hp => (hb p hp).2.1⟩
    by_contra h
    exact List.eq_nil_iff_forall_not_mem.mp hc k (Store.mem_openAbove.mpr ⟨hk, by omega⟩)
  · rintro ⟨h, ha⟩
    refine ⟨List.eq_nil_iff_forall_not_mem.mpr fun k hk => ?_, h.apart, h.numbered, fun p hp =>
      ⟨h.images p hp, ha p hp, h.waits p hp⟩⟩
    obtain ⟨hm, hlt⟩ := Store.mem_openAbove.mp hk
    exact absurd (h.called k hm) (by omega)

/-! ### Handing a group (R193) -/

/-- The joined group takes the place of those it joins. -/
theorem placeJoined_perm (joins : OpenGroup → Bool) (g : OpenGroup) (gs : List OpenGroup) :
    (placeJoined joins g gs).Perm (g :: gs.filter fun x => !joins x) := by
  induction gs with
  | nil => exact .refl _
  | cons x xs ih =>
    unfold placeJoined
    cases hx : joins x
    · simpa [hx] using (ih.cons x).trans (.swap g x _)
    · simp [hx]

/-- Starting a write leaves the group numbers of every image. -/
theorem startFirst_group (held : RecKey → Bool) (ws : List Write) :
    (startFirst held ws).map Write.group = ws.map Write.group := by
  induction ws with
  | nil => rfl
  | cons w ws ih => unfold startFirst; split <;> simp [ih]

/-- Starting a write leaves of each group its commit points, its numbers and those of its images. -/
theorem startWrite_numbers (gs : List OpenGroup) :
    (startWrite gs).map (fun g => (g.ids, g.nums, g.writes.map Write.group)) =
      gs.map fun g => (g.ids, g.nums, g.writes.map Write.group) := by
  have key : ∀ all l : List OpenGroup, (startGroup all l).map (fun g => (g.ids, g.nums, g.writes.map Write.group)) =
      l.map fun g => (g.ids, g.nums, g.writes.map Write.group) := by
    intro all l
    induction l with
    | nil => rfl
    | cons g l ih => unfold startGroup; split <;> simp [ih, startFirst_group]
  unfold startWrite; split
  · rfl
  · exact key gs gs

theorem flatMap_ids_congr {a b : List OpenGroup}
    (h : a.map (fun g => (g.ids, g.nums, g.writes.map Write.group)) =
      b.map fun g => (g.ids, g.nums, g.writes.map Write.group)) :
    a.flatMap OpenGroup.ids = b.flatMap OpenGroup.ids := by
  have := congrArg (fun l => (l.map Prod.fst).flatten) h
  simpa [List.flatMap, Function.comp_def] using this

theorem numbered_congr {count : Nat} {a b : List OpenGroup}
    (h : a.map (fun g => (g.ids, g.nums, g.writes.map Write.group)) =
      b.map fun g => (g.ids, g.nums, g.writes.map Write.group))
    (hb : ∀ g ∈ b, g.numbered count) : ∀ g ∈ a, g.numbered count := by
  intro g hg
  obtain ⟨x, hx, e⟩ := List.mem_map.mp (h ▸ List.mem_map_of_mem hg)
  simp only [Prod.mk.injEq] at e
  obtain ⟨e1, e2, e3⟩ := e
  obtain ⟨h1, h2, h3, h4⟩ := hb x hx
  refine ⟨e1 ▸ h1, e2 ▸ h2, e2 ▸ h3, fun w hw => ?_⟩
  obtain ⟨v, hv, ev⟩ := List.mem_map.mp (e3 ▸ List.mem_map_of_mem (f := Write.group) hw)
  exact ev ▸ e2 ▸ h4 v hv

theorem startWrite_ids (gs : List OpenGroup) :
    (startWrite gs).flatMap OpenGroup.ids = gs.flatMap OpenGroup.ids := flatMap_ids_congr (startWrite_numbers gs)

/-- Groups that become one: of their images, some are left out and none is added. -/
theorem mem_of_newestWrites {ws : List Write} {w : Write} (h : w ∈ newestWrites ws) : w ∈ ws :=
  (List.mem_filter.mp (List.mem_dedup.mp h)).1

theorem OpenGroup.numbered.mono {n m : Nat} {g : OpenGroup} (h : g.numbered n) (hm : n ≤ m) : g.numbered m :=
  ⟨h.1, h.2.1, fun k hk => (h.2.2.1 k hk).trans hm, h.2.2.2⟩

/-- A group handed adds its commit point to those not complete. -/
theorem handGroup_ids (id num : Nat) (new : List Write) (gs : List OpenGroup) :
    ((handGroup id num new gs).flatMap OpenGroup.ids).Perm (id :: gs.flatMap OpenGroup.ids) := by
  unfold handGroup
  dsimp only
  rw [startWrite_ids]
  refine ((placeJoined_perm _ _ gs).flatMap_right OpenGroup.ids).trans ?_
  rw [List.flatMap_cons, List.append_assoc, List.singleton_append]
  refine List.perm_middle.trans (.cons _ ?_)
  rw [← List.flatMap_append]
  exact (List.filter_append_perm _ gs).flatMap_right _

/-- A group handed carries its number, beside those of the groups it joins. -/
theorem handGroup_numbered {id num : Nat} {new : List Write} {gs : List OpenGroup}
    (hg : ∀ g ∈ gs, g.numbered num) (hn : ∀ w ∈ new, w.group = num) :
    ∀ g ∈ handGroup id num new gs, g.numbered num := by
  unfold handGroup
  dsimp only
  refine numbered_congr (startWrite_numbers _) fun g h => ?_
  rcases List.mem_cons.mp ((placeJoined_perm _ _ gs).mem_iff.mp h) with rfl | h
  · refine ⟨by simp, by simp, fun n h => ?_, fun w h => ?_⟩
    · rcases List.mem_append.mp h with h | h
      · obtain ⟨x, hx, hn⟩ := List.mem_flatMap.mp h
        exact (hg x (List.mem_filter.mp hx).1).2.2.1 n hn
      · rw [List.mem_singleton.mp h]
    · rcases List.mem_append.mp h with h | h
      · obtain ⟨v, hv, rfl⟩ := List.mem_map.mp (mem_of_newestWrites h)
        obtain ⟨x, hx, hv⟩ := List.mem_flatMap.mp hv
        have own : v.group ∈ ((gs.filter fun g => g.awaits new).flatMap OpenGroup.nums ++ [num]) :=
          List.mem_append_left _ (List.mem_flatMap.mpr ⟨x, hx, (hg x (List.mem_filter.mp hx).1).2.2.2 v hv⟩)
        unfold replaceWaiting
        split
        · cases hf : new.find? fun n => n.key == v.key with
          | none => exact own
          | some m => simp [hn m (List.mem_of_find?_eq_some hf)]
        · exact own
      · simp [hn w (List.mem_filter.mp h).1]
  · exact hg g (List.mem_filter.mp h).1

/-- The group of a commit point takes the next number. -/
theorem State.place_numbered {s : State} (id : Nat) (regions : List Region) (ws : List Write)
    (h : ∀ g ∈ s.store.groups, g.numbered s.store.count) :
    ∀ g ∈ (s.place id regions ws).store.groups, g.numbered (s.place id regions ws).store.count := by
  have hm : ∀ g ∈ s.store.groups, g.numbered (s.store.count + 1) := fun g hg => (h g hg).mono (Nat.le_succ _)
  unfold State.place; dsimp only; split
  · exact hm
  · refine handGroup_numbered hm fun w hw => ?_
    rcases List.mem_append.mp hw with hw | hw <;> obtain ⟨x, _, rfl⟩ := List.mem_map.mp hw <;> rfl

theorem map_id_of_waits {a b : List CommitPoint} (h : a.map CommitPoint.waits = b.map CommitPoint.waits) :
    a.map CommitPoint.id = b.map CommitPoint.id := by
  simpa [Function.comp_def, CommitPoint.waits] using congrArg (List.map Prod.fst) h

/-- Handing a group adds its commit point to those not complete; one without an image closes at once. -/
theorem State.place_openIds (s : State) (id : Nat) (regions : List Region) (ws : List Write) :
    (s.place id regions ws).store.openIds.Perm (id :: s.store.openIds) ∨
      (ws = [] ∧ (s.place id regions ws).store.openIds = s.store.openIds) := by
  have hb := map_id_of_waits (s.place_store id regions ws).2.1
  unfold Store.openIds
  rw [hb]
  unfold State.place
  dsimp only
  split
  · rename_i h
    exact .inr ⟨by simp at h; exact h.1, rfl⟩
  · exact .inl (List.Perm.append_right _ (l₂ := id :: s.store.groups.flatMap OpenGroup.ids) (handGroup_ids _ _ _ _))

/-- A commit point that hands its group leaves the others waiting as they were: those left were there before, for the same
groups and with images. -/
theorem waiting_of_waits {a b : List CommitPoint} (h : ∀ x ∈ a.map CommitPoint.waits, x ∈ b.map CommitPoint.waits)
    {p : CommitPoint} (hp : p ∈ a) : ∃ q ∈ b, q.after = p.after ∧ (q.writes ≠ [] → p.writes ≠ []) := by
  obtain ⟨q, hq, e⟩ := List.mem_map.mp (h _ (List.mem_map_of_mem hp))
  simp only [CommitPoint.waits, Prod.mk.injEq] at e
  exact ⟨q, hq, e.2.1, fun hw e' => hw (by simpa [e'] using e.2.2)⟩

/-- A waiting commit point that hands its group stays among those not complete. -/
theorem State.placeFirst_steady {s : State} (f : CommitPoint → Bool) (h : s.store.steady) :
    (s.placeFirst f).store.steady ∧ (s.placeFirst f).store.openIds.Perm s.store.openIds := by
  obtain ⟨hst, -, hwaits, -⟩ := s.placeFirst_store f
  have perm : (s.placeFirst f).store.openIds.Perm s.store.openIds := by
    unfold State.placeFirst
    split
    · rename_i p hp
      have hm := List.mem_of_find?_eq_some hp
      refine ((State.place_openIds _ _ _ _).resolve_right fun e => h.images p hm e.1).trans ?_
      unfold Store.openIds
      dsimp only
      refine List.perm_middle.symm.trans (List.Perm.append_left _ ?_)
      obtain ⟨a, l1, l2, hl, ha, e1, e2⟩ := List.exists_of_eraseP hm (List.find?_some hp)
      have : a = p := by
        rw [e1, List.find?_append, List.find?_eq_none.mpr fun x hx => by simpa using hl x hx] at hp
        simpa [ha] using hp
      rw [e2, e1, this]
      simp only [List.map_append, List.map_cons]
      exact List.perm_middle.symm
    · exact .refl _
  have num : ∀ g ∈ (s.placeFirst f).store.groups, g.numbered (s.placeFirst f).store.count := by
    unfold State.placeFirst
    split
    · exact State.place_numbered _ _ _ h.numbered
    · exact h.numbered
  have back : ∀ x ∈ (s.placeFirst f).store.behind.map CommitPoint.waits, x ∈ s.store.behind.map CommitPoint.waits := by
    rw [hwaits]
    intro x hx
    obtain ⟨p, hp, rfl⟩ := List.mem_map.mp hx
    exact List.mem_map_of_mem (List.mem_of_mem_eraseP hp)
  refine ⟨⟨fun k hk => ?_, perm.nodup_iff.mpr h.apart, num, fun p hp => ?_, fun p hp n hn => ?_⟩, perm⟩
  · rw [hst]; exact h.called k (perm.mem_iff.mp hk)
  · obtain ⟨q, hq, -, e⟩ := waiting_of_waits back hp
    exact e (h.images q hq)
  · obtain ⟨q, hq, e, -⟩ := waiting_of_waits back hp
    exact perm.mem_iff.mpr (h.waits q hq n (e ▸ hn))

theorem State.placeThose_steady {s : State} (f : CommitPoint → Bool) (h : s.store.steady) :
    (s.placeThose f).store.steady ∧ (s.placeThose f).store.openIds.Perm s.store.openIds := by
  unfold State.placeThose
  generalize s.store.behind = l
  induction l generalizing s with
  | nil => exact ⟨h, .refl _⟩
  | cons p l ih =>
    obtain ⟨h1, p1⟩ := State.placeFirst_steady f h
    obtain ⟨h2, p2⟩ := ih h1
    exact ⟨h2, p2.trans p1⟩

/-- Of a lawful store, the commit points that wait after some have handed their groups still wait for one. -/
theorem State.placeThose_sound {s : State} (f : CommitPoint → Bool) (g : Nat × List Nat × List RecKey → Bool)
    (hf : ∀ p, f p = g p.waits) (h : s.store.steady) (ha : ∀ p ∈ s.store.behind, f p = false → p.after ≠ []) :
    (s.placeThose f).store.sound := by
  refine (Store.sound_iff _).mpr ⟨(State.placeThose_steady f h).1, fun p hp e => ?_⟩
  have hp' : p.waits ∈ (s.placeThose f).store.behind.map CommitPoint.waits := List.mem_map_of_mem hp
  rw [State.placeThose_behind f g hf, List.mem_filter] at hp'
  obtain ⟨q, hq, e'⟩ := List.mem_map.mp hp'.1
  refine ha q hq (by rw [hf, e']; simpa using hp'.2) ?_
  simp only [CommitPoint.waits, Prod.mk.injEq] at e'
  rw [e'.2.1, e]

/-! ### Making a commit point (R193, R194) -/

/-- Fields beside the commit points and the numbers do not matter to the law of the store. -/
theorem Store.sound_congr {a b : Store} (hg : b.groups = a.groups) (hb : b.behind = a.behind) (hc : b.count = a.count)
    (hn : b.called = a.called) (h : a.sound) : b.sound := by
  unfold Store.sound Store.openAbove at *
  rw [hg, hb, hc, hn]; exact h

theorem State.awaited_mem {s : State} {k : Nat} (h : k ∈ s.awaited) : k ∈ s.store.openIds := by
  unfold State.awaited at h
  cases hs : s.handling.since with
  | none => simp [hs] at h
  | some n => rw [hs] at h; exact (Store.mem_openAbove.mp h).1

/-- A newer commit point makes older ones hand their groups: the law of the store goes on, with the same commit points not
complete. -/
theorem State.overtake_sound {s : State} (keys : List RecKey) (h : s.store.sound) :
    (s.overtake keys).store.sound ∧ (s.overtake keys).store.openIds.Perm s.store.openIds := by
  obtain ⟨hs, ha⟩ := (Store.sound_iff _).mp h
  exact ⟨State.placeThose_sound _ (fun x => (s.store.overtaken s.handling.since keys).contains x.1) (fun _ => rfl) hs
    fun p hp _ => ha p hp, (State.placeThose_steady _ hs).2⟩

/-- Handing the group of a new commit point keeps the law of the store. -/
theorem State.place_sound {s : State} {id : Nat} (regions : List Region) (ws : List Write) (h : s.store.sound)
    (hid : id ∉ s.store.openIds) (hc : id ≤ s.store.called) : (s.place id regions ws).store.sound := by
  obtain ⟨hs, ha⟩ := (Store.sound_iff _).mp h
  obtain ⟨hst, hw, -⟩ := s.place_store id regions ws
  have back : ∀ x ∈ (s.place id regions ws).store.behind.map CommitPoint.waits,
      x ∈ s.store.behind.map CommitPoint.waits := fun x hx => hw ▸ hx
  have ids : ∀ k ∈ (s.place id regions ws).store.openIds, k = id ∨ k ∈ s.store.openIds := by
    intro k hk
    rcases s.place_openIds id regions ws with p | ⟨-, e⟩
    · exact List.mem_cons.mp (p.mem_iff.mp hk)
    · exact .inr (e ▸ hk)
  have stays : ∀ k ∈ s.store.openIds, k ∈ (s.place id regions ws).store.openIds := by
    intro k hk
    rcases s.place_openIds id regions ws with p | ⟨-, e⟩
    · exact p.mem_iff.mpr (List.mem_cons_of_mem _ hk)
    · exact e ▸ hk
  refine (Store.sound_iff _).mpr ⟨⟨fun k hk => ?_, ?_, State.place_numbered _ _ _ hs.numbered, fun p hp => ?_,
    fun p hp n hn => ?_⟩, fun p hp => ?_⟩
  · rw [hst]
    rcases ids k hk with rfl | hk
    · exact hc
    · exact hs.called k hk
  · rcases s.place_openIds id regions ws with p | ⟨-, e⟩
    · exact p.nodup_iff.mpr (List.nodup_cons.mpr ⟨hid, hs.apart⟩)
    · rw [e]; exact hs.apart
  · obtain ⟨q, hq, -, e⟩ := waiting_of_waits back hp
    exact e (hs.images q hq)
  · obtain ⟨q, hq, e, -⟩ := waiting_of_waits back hp
    exact stays n (hs.waits q hq n (e ▸ hn))
  · obtain ⟨q, hq, e, -⟩ := waiting_of_waits back hp
    exact e ▸ ha q hq

/-- A commit point that waits for open ones joins those that wait. -/
theorem Store.queue_sound {st b : Store} {p : CommitPoint} (h : st.sound) (hg : b.groups = st.groups)
    (hb : b.behind = st.behind ++ [p]) (hc : b.count = st.count) (hk : b.called = p.id) (hid : st.called < p.id)
    (hw : p.writes ≠ []) (ha : p.after ≠ []) (hm : ∀ n ∈ p.after, n ∈ st.openIds) : b.sound := by
  obtain ⟨hs, hl⟩ := (Store.sound_iff _).mp h
  have ids : b.openIds = st.openIds ++ [p.id] := by simp [Store.openIds, hg, hb]
  have behind : ∀ q ∈ b.behind, q.writes ≠ [] ∧ q.after ≠ [] ∧ ∀ n ∈ q.after, n ∈ st.openIds := by
    intro q hq
    rcases List.mem_append.mp (hb ▸ hq) with hq | hq
    · exact ⟨hs.images q hq, hl q hq, hs.waits q hq⟩
    · rw [List.mem_singleton.mp hq]; exact ⟨hw, ha, hm⟩
  refine (Store.sound_iff _).mpr ⟨⟨fun k hm => ?_, ?_, hg ▸ hc ▸ hs.numbered, fun q hq => (behind q hq).1,
    fun q hq n hn => ids ▸ List.mem_append_left _ ((behind q hq).2.2 n hn)⟩, fun q hq => (behind q hq).2.1⟩
  · rw [hk]
    rcases List.mem_append.mp (ids ▸ hm) with hm | hm
    · exact (hs.called k hm).trans hid.le
    · exact (List.mem_singleton.mp hm).le
  · rw [ids]
    refine List.nodup_append.mpr ⟨hs.apart, List.nodup_singleton _, ?_⟩
    rintro a hm c hc rfl
    have := hs.called a hm
    rw [List.mem_singleton.mp hc] at this
    omega

/-- A commit point keeps the law of the store (R193, R194). -/
theorem State.hand_sound {s : State} (names : List RecKey) (h : s.store.sound) : (s.hand names).store.sound := by
  obtain ⟨ho, po⟩ := State.overtake_sound (s.store.groupKeys names) h
  obtain ⟨hs, ha⟩ := (Store.sound_iff _).mp ho
  have hcalled : (s.overtake (s.store.groupKeys names)).store.called = s.store.called := by
    rw [(s.overtake_store _).1]
  unfold State.hand
  dsimp only
  split
  · refine State.place_sound _ _ ((Store.sound_iff _).mpr ⟨⟨fun k hk => ?_, hs.apart, hs.numbered, hs.images, hs.waits⟩,
      ha⟩) (fun hm => ?_) (le_refl _)
    · exact hcalled ▸ Nat.le_succ_of_le (hs.called k hk)
    · have := hs.called _ hm; omega
  · rename_i hk
    simp only [Bool.or_eq_true, not_or, List.isEmpty_iff] at hk
    exact Store.queue_sound ho rfl rfl rfl rfl (Nat.lt_succ_of_le hcalled.le) (by simpa using hk.2) hk.1
      fun n hn => po.mem_iff.mpr (State.awaited_mem hn)

/-! ### The end of a group (R193, R194) -/

/-- When a group has ended, and its images went to the store or not, the commit points that waited for it alone hand their
groups: the law of the store goes on. -/
theorem State.follow_sound {s : State} {g : OpenGroup} {rest : List OpenGroup} (unsaved : List RecKey)
    (h : s.store.sound) (hg : g ∈ s.store.groups)
    (hr : rest.map (fun x => (x.ids, x.nums, x.writes.map Write.group)) =
      (s.store.groups.filter fun x => x != g).map fun x => (x.ids, x.nums, x.writes.map Write.group)) :
    (s.follow g.ids rest unsaved).store.sound := by
  obtain ⟨hs, ha⟩ := (Store.sound_iff _).mp h
  have hids : (startWrite rest).flatMap OpenGroup.ids = (s.store.groups.filter fun x => x != g).flatMap OpenGroup.ids :=
    flatMap_ids_congr ((startWrite_numbers rest).trans hr)
  have sub : ((startWrite rest).flatMap OpenGroup.ids ++ s.store.behind.map CommitPoint.id).Sublist s.store.openIds := by
    rw [hids]
    exact (List.filter_sublist.flatMap _).append_right _
  have left : ∀ n ∈ s.store.openIds, n ∉ g.ids →
      n ∈ (startWrite rest).flatMap OpenGroup.ids ++ s.store.behind.map CommitPoint.id := by
    intro n hn hng
    rw [hids]
    rcases List.mem_append.mp hn with hn | hn
    · obtain ⟨x, hx, hn⟩ := List.mem_flatMap.mp hn
      refine List.mem_append_left _ (List.mem_flatMap.mpr ⟨x, List.mem_filter.mpr ⟨hx, ?_⟩, hn⟩)
      simp only [bne_iff_ne, ne_eq]
      rintro rfl
      exact hng hn
    · exact List.mem_append_right _ hn
  unfold State.follow
  dsimp only
  refine State.placeThose_sound _ (fun x => x.2.1.isEmpty) (fun _ => rfl) ⟨fun k hk => ?_, ?_, ?_, ?_, ?_⟩ ?_
  · simp only [Store.openIds, List.map_map] at hk
    exact hs.called k (sub.subset hk)
  · simp only [Store.openIds, List.map_map]
    exact sub.nodup hs.apart
  · exact numbered_congr ((startWrite_numbers rest).trans hr) fun x hx => hs.numbered x (List.mem_filter.mp hx).1
  · intro p hp
    obtain ⟨q, hq, rfl⟩ := List.mem_map.mp hp
    exact hs.images q hq
  · intro p hp n hn
    obtain ⟨q, hq, rfl⟩ := List.mem_map.mp hp
    obtain ⟨hn, hd⟩ := List.mem_filter.mp hn
    simp only [Store.openIds, List.map_map]
    exact left n (hs.waits q hq n hn) (by simpa using hd)
  · intro p hp he
    simpa using he

/-- Regrouping the open groups keeps the law of the store when their commit points stay and each carries its numbers. -/
theorem Store.regroup_sound {st : Store} {gs : List OpenGroup} (h : st.sound)
    (hp : (gs.flatMap OpenGroup.ids).Perm (st.groups.flatMap OpenGroup.ids)) (hn : ∀ g ∈ gs, g.numbered st.count)
    {b : Store} (hg : b.groups = gs) (hb : b.behind = st.behind) (hc : b.count = st.count) (hk : b.called = st.called) :
    b.sound := by
  obtain ⟨hs, ha⟩ := (Store.sound_iff _).mp h
  have ids : b.openIds.Perm st.openIds := by unfold Store.openIds; rw [hg, hb]; exact hp.append_right _
  exact (Store.sound_iff _).mpr ⟨⟨fun k m => hk ▸ hs.called k (ids.mem_iff.mp m), ids.nodup_iff.mpr hs.apart,
    hg ▸ hc ▸ hn, hb ▸ hs.images, fun p m n x => ids.mem_iff.mpr (hs.waits p (hb ▸ m) n x)⟩, hb ▸ ha⟩

end Sys2Proof.Machine
end

-- ==== Sys2Proof/Proofs/keeps ====
section
/-!
What every operation keeps of the laws of the tables (R1, R13, R34, R101, R102, R154) and of the open commit groups (R193).
`s.keeps t` says it for a step from `s` to `t` in which no job begins printing and no roll becomes ACTIVE; one lemma for each
operation, in the order of the model's files.
-/

namespace Sys2Proof.Machine

/-- From `s` to `t` the tables stay ordered, the law of the open groups and the phase stay, and `t` has no PRINTING job and
no ACTIVE roll that was none in `s`. -/
structure State.keeps (s t : State) : Prop where
  jobs : ordered Job.tag s.jobs → ordered Job.tag t.jobs
  lots : ordered Lot.code s.lots → ordered Lot.code t.lots
  rolls : ordered Roll.id s.rolls → ordered Roll.id t.rolls
  editions : ordered Edition.id s.editions → ordered Edition.id t.editions
  printing : ∀ j ∈ t.jobs, j.state = .printing → ∃ k ∈ s.jobs, k.tag = j.tag ∧ k.state = .printing
  active : ∀ r ∈ t.rolls, r.state = .active → ∃ q ∈ s.rolls, q.id = r.id ∧ q.state = .active
  store : s.store.sound → t.store.sound
  phase : t.phase = s.phase

theorem State.keeps_refl (s : State) : s.keeps s :=
  ⟨id, id, id, id, fun j hj hs => ⟨j, hj, rfl, hs⟩, fun r hr hs => ⟨r, hr, rfl, hs⟩, id, rfl⟩

theorem State.keeps.trans {s t u : State} (h : s.keeps t) (k : t.keeps u) : s.keeps u where
  jobs := k.jobs ∘ h.jobs
  lots := k.lots ∘ h.lots
  rolls := k.rolls ∘ h.rolls
  editions := k.editions ∘ h.editions
  printing j hj hs := by
    obtain ⟨a, ha, ea, hsa⟩ := k.printing j hj hs
    obtain ⟨b, hb, eb, hsb⟩ := h.printing a ha hsa
    exact ⟨b, hb, eb.trans ea, hsb⟩
  active r hr hs := by
    obtain ⟨a, ha, ea, hsa⟩ := k.active r hr hs
    obtain ⟨b, hb, eb, hsb⟩ := h.active a ha hsa
    exact ⟨b, hb, eb.trans ea, hsb⟩
  store := k.store ∘ h.store
  phase := k.phase.trans h.phase

/-- The fields that the laws speak of. -/
def lawfulFields : List Field := [.jobs, .lots, .rolls, .editions, .store, .phase]

/-- A step that leaves those fields alone keeps the laws. -/
theorem State.within.keeps {s t : State} {l : List Field} (h : s.within l t)
    (hl : ∀ f ∈ lawfulFields, f ∉ l := by decide) : s.keeps t where
  jobs := by rw [h .jobs (hl _ (by decide))]; exact id
  lots := by rw [h .lots (hl _ (by decide))]; exact id
  rolls := by rw [h .rolls (hl _ (by decide))]; exact id
  editions := by rw [h .editions (hl _ (by decide))]; exact id
  printing := by rw [h .jobs (hl _ (by decide))]; exact s.keeps_refl.printing
  active := by rw [h .rolls (hl _ (by decide))]; exact s.keeps_refl.active
  store := by rw [h .store (hl _ (by decide))]; exact id
  phase := h .phase (hl _ (by decide))

/-- A step that changes nothing but the store, and keeps the law of the open groups. -/
theorem State.keeps_store {s t : State} (h : s.within [.store, .handling, .media, .out, .check, .head, .merged] t)
    (hs : s.store.sound → t.store.sound) : s.keeps t where
  jobs := by rw [h .jobs (by decide)]; exact id
  lots := by rw [h .lots (by decide)]; exact id
  rolls := by rw [h .rolls (by decide)]; exact id
  editions := by rw [h .editions (by decide)]; exact id
  printing := by rw [h .jobs (by decide)]; exact s.keeps_refl.printing
  active := by rw [h .rolls (by decide)]; exact s.keeps_refl.active
  store := hs
  phase := h .phase (by decide)

theorem keeps_foldl {α : Type} (f : State → α → State) (h : ∀ (s : State) (a : α), s.keeps (f s a)) (as : List α)
    (s : State) : s.keeps (as.foldl f s) := by
  induction as generalizing s with
  | nil => exact s.keeps_refl
  | cons a as ih => exact (h s a).trans (ih _)

theorem keeps_ite {s t u : State} {p : Prop} [Decidable p] (h : s.keeps t) (k : s.keeps u) :
    s.keeps (if p then t else u) := by split <;> assumption

variable (s : State)

/-! ### Writing records (Machine/Ops.lean) -/

/-- Noting a change keeps the law of the open groups. -/
theorem State.noting_sound {s t : State} {k : RecKey} (h : t.store.sound) : (s.noting k t).store.sound := by
  rw [State.noting_store]; split
  · exact h
  · exact Store.sound_congr rfl rfl rfl rfl h

/-- A job record may be written PRINTING only over one that is. -/
theorem State.setJob_keeps {s : State} {j : Job}
    (h : j.state = .printing → ∃ k ∈ s.jobs, k.tag = j.tag ∧ k.state = .printing) : s.keeps (s.setJob j) where
  jobs ho := by rw [State.setJob_jobs]; exact insertBy_ordered ho
  lots := by simp
  rolls := by simp
  editions := by simp
  printing k hk hs := by
    rw [State.setJob_jobs] at hk
    rcases mem_insertBy hk with rfl | hk
    · exact h hs
    · exact ⟨k, hk, rfl, hs⟩
  active := by simpa using s.keeps_refl.active
  store hs := State.noting_sound hs
  phase := by simp

/-- A job record written over the one it comes from. -/
theorem State.setJob_keeps_of_mem {s : State} {j : Job} (k : Job) (hk : k ∈ s.jobs) (ht : k.tag = j.tag := by rfl)
    (hs : j.state = .printing → k.state = .printing := by exact fun h => h) : s.keeps (s.setJob j) :=
  State.setJob_keeps fun h => ⟨k, hk, ht, hs h⟩

theorem State.removeJob_keeps (n : Nat) : s.keeps (s.removeJob n) where
  jobs ho := by rw [State.removeJob_jobs]; exact removeBy_ordered ho
  lots := by simp
  rolls := by simp
  editions := by simp
  printing k hk hs := by
    rw [State.removeJob_jobs] at hk
    exact ⟨k, (List.mem_filter.mp hk).1, rfl, hs⟩
  active := by simpa using s.keeps_refl.active
  store hs := State.noting_sound hs
  phase := by simp

theorem State.modJob_keeps (n : Nat) {f : Job → Job} (ht : ∀ j, (f j).tag = j.tag := by intro _; rfl)
    (hf : ∀ j, (f j).state = j.state := by intro _; rfl) :
    s.keeps (s.modJob n f) := by
  unfold State.modJob
  split
  · rename_i j hj
    exact State.setJob_keeps_of_mem j (State.job_mem hj) (ht j).symm fun h => (hf j) ▸ h
  · exact s.keeps_refl

theorem State.setLot_keeps (l : Lot) : s.keeps (s.setLot l) where
  jobs := by simp
  lots ho := by rw [State.setLot_lots]; exact insertBy_ordered ho
  rolls := by simp
  editions := by simp
  printing := by simpa using s.keeps_refl.printing
  active := by simpa using s.keeps_refl.active
  store hs := State.noting_sound hs
  phase := by simp

theorem State.removeLot_keeps (n : Nat) : s.keeps (s.removeLot n) where
  jobs := by simp
  lots ho := by rw [State.removeLot_lots]; exact removeBy_ordered ho
  rolls := by simp
  editions := by simp
  printing := by simpa using s.keeps_refl.printing
  active := by simpa using s.keeps_refl.active
  store hs := State.noting_sound hs
  phase := by simp

/-- A roll record may be written ACTIVE only over one that is. -/
theorem State.setRoll_keeps {s : State} {r : Roll}
    (h : r.state = .active → ∃ q ∈ s.rolls, q.id = r.id ∧ q.state = .active) : s.keeps (s.setRoll r) where
  jobs := by simp
  lots := by simp
  rolls ho := by rw [State.setRoll_rolls]; exact insertBy_ordered ho
  editions := by simp
  printing := by simpa using s.keeps_refl.printing
  active q hq hs := by
    rw [State.setRoll_rolls] at hq
    rcases mem_insertBy hq with rfl | hq
    · exact h hs
    · exact ⟨q, hq, rfl, hs⟩
  store hs := State.noting_sound hs
  phase := by simp

/-- A roll record written over the one it comes from. -/
theorem State.setRoll_keeps_of_mem {s : State} {r : Roll} (q : Roll) (hq : q ∈ s.rolls) (hi : q.id = r.id := by rfl)
    (hs : r.state = .active → q.state = .active := by exact fun h => h) : s.keeps (s.setRoll r) :=
  State.setRoll_keeps fun h => ⟨q, hq, hi, hs h⟩

theorem State.removeRoll_keeps (n : Nat) : s.keeps (s.removeRoll n) where
  jobs := by simp
  lots := by simp
  rolls ho := by rw [State.removeRoll_rolls]; exact removeBy_ordered ho
  editions := by simp
  printing := by simpa using s.keeps_refl.printing
  active q hq hs := by
    rw [State.removeRoll_rolls] at hq
    exact ⟨q, (List.mem_filter.mp hq).1, rfl, hs⟩
  store hs := State.noting_sound hs
  phase := by simp

theorem State.modRoll_keeps (n : Nat) {f : Roll → Roll} (hi : ∀ r, (f r).id = r.id := by intro _; rfl)
    (hf : ∀ r, (f r).state = r.state := by intro _; rfl) :
    s.keeps (s.modRoll n f) := by
  unfold State.modRoll
  split
  · rename_i r hr
    exact State.setRoll_keeps_of_mem r (State.roll_mem hr) (hi r).symm fun h => (hf r) ▸ h
  · exact s.keeps_refl

theorem State.setEdition_keeps (e : Edition) : s.keeps (s.setEdition e) where
  jobs := by simp
  lots := by simp
  rolls := by simp
  editions ho := by rw [State.setEdition_editions]; exact insertBy_ordered ho
  printing := by simpa using s.keeps_refl.printing
  active := by simpa using s.keeps_refl.active
  store hs := State.noting_sound hs
  phase := by simp

theorem State.removeEdition_keeps (n : Nat) : s.keeps (s.removeEdition n) where
  jobs := by simp
  lots := by simp
  rolls := by simp
  editions ho := by rw [State.removeEdition_editions]; exact removeBy_ordered ho
  printing := by simpa using s.keeps_refl.printing
  active := by simpa using s.keeps_refl.active
  store hs := State.noting_sound hs
  phase := by simp

/-- A record outside the four tables is written: they stay, and so does the law of the open groups. -/
theorem State.noting_keeps {s t : State} (k : RecKey) (hj : t.jobs = s.jobs) (hl : t.lots = s.lots) (hr : t.rolls = s.rolls)
    (he : t.editions = s.editions) (hs : t.store = s.store) (hp : t.phase = s.phase) : s.keeps (s.noting k t) where
  jobs := by simp [hj]
  lots := by simp [hl]
  rolls := by simp [hr]
  editions := by simp [he]
  printing := by simpa [hj] using s.keeps_refl.printing
  active := by simpa [hr] using s.keeps_refl.active
  store h := State.noting_sound (hs ▸ h)
  phase := by simp [hp]

theorem State.modChan_keeps (c : Chan) (f : Channel → Channel) : s.keeps (s.modChan c f) where
  jobs := by simp
  lots := by simp
  rolls := by simp
  editions := by simp
  printing := by simpa using s.keeps_refl.printing
  active := by simpa using s.keeps_refl.active
  store h := State.noting_sound (State.noting_sound h)
  phase := by simp
theorem State.setCounters_keeps (n d : Nat) (o : Overhead) : s.keeps (s.setCounters n d o) :=
  State.noting_keeps _ rfl rfl rfl rfl rfl rfl
theorem State.setOverhead_keeps (o : Overhead) : s.keeps (s.setOverhead o) := s.setCounters_keeps ..
theorem State.setPrices_keeps (t : PriceTable) : s.keeps (s.setPrices t) := State.noting_keeps _ rfl rfl rfl rfl rfl rfl
theorem State.setPlan_keeps (p : CheckPlan) : s.keeps (s.setPlan p) := State.noting_keeps _ rfl rfl rfl rfl rfl rfl
theorem State.setGeometry_keeps (g : Geometry) : s.keeps (s.setGeometry g) := State.noting_keeps _ rfl rfl rfl rfl rfl rfl
theorem State.setStripMode_keeps (m : StripMode) : s.keeps (s.setStripMode m) :=
  State.noting_keeps _ rfl rfl rfl rfl rfl rfl

theorem State.hand_keeps (l : List RecKey) : s.keeps (s.hand l) :=
  State.keeps_store ((s.hand_within l).mono (by decide)) (State.hand_sound l)
theorem State.commit_keeps (l : List RecKey) : s.keeps (s.commit l) := by
  rcases s.commit_cases l with ⟨-, e⟩ | ⟨g, -, e⟩
  · rw [e]; exact s.hand_keeps l
  · exact State.keeps_store ((s.commit_within l).mono (by decide)) (by rw [e]; exact id)
theorem State.commitRest_keeps (l : List RecKey) : s.keeps (s.commitRest l) := by
  unfold State.commitRest; exact keeps_ite s.keeps_refl (s.commit_keeps l)
theorem State.raise_keeps (u : Subject) (d : Detail) : s.keeps (s.raise u d) := (s.raise_within u d).keeps
theorem State.markDirty_keeps (k : RecKey) : s.keeps (s.markDirty k) :=
  State.keeps_store ((s.markDirty_within k).mono (by decide)) fun h => by
    unfold State.markDirty; split
    · exact h
    · exact Store.sound_congr rfl rfl rfl rfl h
theorem State.handGathered_keeps : s.keeps s.handGathered := by
  have h : ({ s with handling := { s.handling with gathered := none } } : State).keeps s.handGathered := by
    unfold State.handGathered
    exact (keeps_foldl _ State.commit_keeps _ _).trans (keeps_foldl _ (fun s n => s.raise_keeps _ _) _ _)
  refine State.keeps.trans (State.within.keeps (l := [.handling]) ?_) h
  intro f hf; cases f <;> first | rfl | simp_all
theorem State.send_keeps (o : Output) : s.keeps (s.send o) := (s.send_within o).keeps
theorem State.setMedia_keeps (f : Media → Media) : s.keeps (s.setMedia f) := (s.setMedia_within f).keeps
theorem State.setCheck_keeps (c : CheckUnit) : s.keeps { s with check := c } := by
  refine State.within.keeps (l := [.check]) ?_
  intro f hf; cases f <;> first | rfl | simp_all

/-! ### Holdings (Machine/Holdings.lean) -/

theorem State.moveInk_keeps (a b : Vec12) : s.keeps (s.moveInk a b) := (s.moveInk_within a b).keeps
theorem State.moveChanInk_keeps (c : Chan) (a b : Nat) : s.keeps (s.moveChanInk c a b) := s.modChan_keeps ..
theorem State.moveRoll_keeps (id a b : Nat) : s.keeps (s.moveRoll id a b) :=
  s.modRoll_keeps _
theorem State.release_keeps (j : Job) : s.keeps (s.release j) := (s.moveInk_keeps _ _).trans (State.moveRoll_keeps _ _ _ _)
theorem State.withdraw_keeps (j : Job) (r : Resource) : s.keeps (s.withdraw j r) :=
  (((s.release_keeps j).trans (State.setJob_keeps (by simp))).trans (State.raise_keeps _ _ _)).trans (State.commit_keeps _ _)
theorem withdrawWhile_keeps (p : State → Bool) (q : Job → Bool) (r : Resource) (n : Nat) :
    s.keeps (withdrawWhile p q r n s) := by
  induction n generalizing s with
  | zero => exact s.keeps_refl
  | succ n ih =>
    unfold withdrawWhile
    split
    · split
      · exact (s.withdraw_keeps _ r).trans (ih _)
      · exact s.keeps_refl
    · exact s.keeps_refl

/-- The job that is PRINTING is a record of the table. -/
theorem State.printing_mem {s : State} {j : Job} (h : s.printing? = some j) : j ∈ s.jobs ∧ j.state = .printing :=
  ⟨List.mem_of_find?_eq_some h, by simpa using List.find?_some h⟩

theorem State.activeRoll_mem {s : State} {r : Roll} (h : s.activeRoll = some r) : r ∈ s.rolls ∧ r.state = .active :=
  ⟨List.mem_of_find?_eq_some h, by simpa using List.find?_some h⟩

theorem State.trimInk_keeps (c : Chan) : s.keeps (s.trimInk c) := by
  unfold State.trimInk
  split
  · exact s.keeps_refl
  · rename_i j hj
    refine keeps_ite s.keeps_refl (((s.moveChanInk_keeps _ _ _).trans (State.setJob_keeps_of_mem j ?_)).trans
      (State.commit_keeps _ _))
    rw [(s.moveChanInk_within _ _ _) .jobs (by decide)]; exact (State.printing_mem hj).1
theorem State.trimRoll_keeps (id : Nat) : s.keeps (s.trimRoll id) := by
  unfold State.trimRoll
  split
  · rename_i j r hj hr
    refine keeps_ite s.keeps_refl (((s.moveRoll_keeps _ _ _).trans (State.setJob_keeps_of_mem j ?_)).trans
      (State.commit_keeps _ _))
    rw [(s.moveRoll_within _ _ _) .jobs (by decide)]; exact (State.printing_mem hj).1
  · exact s.keeps_refl
theorem State.enforceInk_keeps (c : Chan) : s.keeps (s.enforceInk c) :=
  (withdrawWhile_keeps s _ _ _ _).trans (State.trimInk_keeps _ c)
theorem State.enforceRoll_keeps (id : Nat) : s.keeps (s.enforceRoll id) :=
  (withdrawWhile_keeps s _ _ _ _).trans (State.trimRoll_keeps _ id)
theorem State.withdrawRoll_keeps (id : Nat) : s.keeps (s.withdrawRoll id) := withdrawWhile_keeps s _ _ _ _

/-! ### Settlement (Machine/Settle.lean) -/

theorem State.costAndCarry_keeps {j : Job} (h : j.state ≠ .printing) : s.keeps (s.costAndCarry j) := by
  unfold State.costAndCarry
  simp only
  split
  · split
    · exact ((s.setOverhead_keeps _).trans (State.setEdition_keeps _ _)).trans (State.setJob_keeps fun e => absurd e h)
    · exact (s.setOverhead_keeps _).trans (State.setJob_keeps fun e => absurd e h)
  · refine State.keeps.trans ?_ (State.setJob_keeps fun e => absurd e h)
    exact keeps_ite ((s.setOverhead_keeps _).trans (State.setOverhead_keeps _ _)) (s.setOverhead_keeps _)
theorem State.forgetMerged_keeps (n : Nat) : s.keeps (s.forgetMerged n) := (s.forgetMerged_within n).keeps
theorem State.raiseJobState_keeps (n : Nat) : s.keeps (s.raiseJobState n) := (s.raiseJobState_within n).keeps
theorem State.settle_keeps (j : Job) : s.keeps (s.settle j) := by
  unfold State.settle
  refine (((s.costAndCarry_keeps ?_).trans (State.commit_keeps _ _)).trans (State.forgetMerged_keeps _ _)).trans
    (State.raiseJobState_keeps _ _)
  dsimp only; split <;> decide
theorem State.settleTest_keeps (n : Nat) : s.keeps (s.settleTest n) := by
  unfold State.settleTest; split
  · exact keeps_ite (s.settle_keeps _) s.keeps_refl
  · exact s.keeps_refl
theorem State.finish_keeps (n : Nat) : s.keeps (s.finish n) := by
  unfold State.finish; split
  · exact (((s.release_keeps _).trans (State.setJob_keeps (by simp))).trans (State.commit_keeps _ _)).trans
      (State.raiseJobState_keeps _ _)
  · exact s.keeps_refl
theorem State.finishAndTest_keeps (n : Nat) : s.keeps (s.finishAndTest n) :=
  (s.finish_keeps n).trans (State.settleTest_keeps _ n)

/-! ### Editions (Machine/EditionOps.lean) -/

theorem State.lockEdition_keeps (e : Edition) (c : LockCause) (h : Option Chan) : s.keeps (s.lockEdition e c h) :=
  ((s.setEdition_keeps _).trans (State.raise_keeps _ _ _)).trans (State.commit_keeps _ _)
theorem State.treatEdition_keeps (e : Edition) (c : LockCause) (h : Chan) : s.keeps (s.treatEdition e c h) := by
  unfold State.treatEdition; split
  · exact s.lockEdition_keeps _ _ _
  · exact s.lockEdition_keeps _ _ _
  · exact keeps_ite s.keeps_refl ((s.setEdition_keeps _).trans (State.commit_keeps _ _))
  · exact s.keeps_refl
theorem State.treatChannel_keeps (c : LockCause) (h : Chan) : s.keeps (s.treatChannel c h) :=
  keeps_foldl _ (fun s e => s.treatEdition_keeps e c h) _ _
theorem State.unlockEdition_keeps (id g n : Nat) : s.keeps (s.unlockEdition id g n).1 := by
  unfold State.unlockEdition; split
  · split
    · exact (s.setEdition_keeps _).trans (State.raise_keeps _ _ _)
    · exact s.keeps_refl
  · exact s.keeps_refl
theorem State.keepProvisional_keeps (id : Nat) (r : Reference) (n : Nat) : s.keeps (s.keepProvisional id r n) := by
  unfold State.keepProvisional; split
  · exact keeps_ite (s.setEdition_keeps _) s.keeps_refl
  · exact s.keeps_refl

/-! ### Ink (Machine/Ink.lean) -/

theorem State.evalChannel_keeps (c : Chan) : s.keeps (s.evalChannel c) := by
  unfold State.evalChannel; simp only
  refine keeps_ite (s.modChan_keeps _ _) ?_
  split
  · exact s.modChan_keeps _ _
  · exact (s.modChan_keeps _ _).trans (State.raise_keeps _ _ _)
  · exact (s.modChan_keeps _ _).trans (State.raise_keeps _ _ _)
theorem State.evalExpired_keeps (c : Chan) : s.keeps (s.evalExpired c) := s.modChan_keeps _ _
theorem State.evalExpiry_keeps (l : Lot) : s.keeps (s.evalExpiry l) := by
  unfold State.evalExpiry
  exact keeps_ite (((s.setLot_keeps _).trans (State.commit_keeps _ _)).trans (State.raise_keeps _ _ _)) s.keeps_refl
theorem State.flagLotChanged_keeps (c : Chan) : s.keeps (s.flagLotChanged c) := by
  unfold State.flagLotChanged; split
  · rename_i j hj
    exact keeps_ite (State.setJob_keeps_of_mem j (State.printing_mem hj).1) s.keeps_refl
  · exact s.keeps_refl
theorem State.lotChange_keeps (v : ChangeBy) (c : Chan) (a b : Nat) : s.keeps (s.lotChange v c a b) :=
  ((((s.evalExpired_keeps c).trans (State.raise_keeps _ _ _)).trans (State.treatChannel_keeps _ _ _)).trans
    (State.flagLotChanged_keeps _ _)).trans (State.commit_keeps _ _)
theorem State.nextActive_keeps (v : ChangeBy) (c : Chan) (t : TankSlot) (n : Nat) : s.keeps (s.nextActive v c t n) := by
  have h : s.keeps ((s.setActive c none).evalExpired c) := (s.modChan_keeps _ _).trans (State.evalExpired_keeps _ _)
  unfold State.nextActive; split
  · exact keeps_ite ((s.modChan_keeps _ _).trans (State.lotChange_keeps _ _ _ _ _)) h
  · exact h
theorem State.exhaustActive_keeps (v : ChangeBy) (c : Chan) (t : TankSlot) (n : Nat) : s.keeps (s.exhaustActive v c t n) :=
  keeps_ite (s.nextActive_keeps v c t n) ((s.nextActive_keeps v c t n).trans (State.commit_keeps _ _))
theorem State.book_keeps (k : Option SwathKind) (l : Lot) (v : Nat) : s.keeps (s.book k l v) :=
  (s.markDirty_keeps _).trans (State.setLot_keeps _ _)
theorem State.drawActive_keeps (k : Option SwathKind) (c : Chan) (v : Nat) : s.keeps (s.drawActive k c v).1 := by
  unfold State.drawActive; split
  · simp only; split
    · exact s.keeps_refl
    · exact keeps_ite ((s.book_keeps _ _ _).trans (State.exhaustActive_keeps _ _ _ _ _)) (s.book_keeps _ _ _)
  · exact s.keeps_refl
theorem State.drawChannel_keeps (k : Option SwathKind) (c : Chan) (v : Nat) : s.keeps (s.drawChannel k c v).1 :=
  (s.drawActive_keeps k c v).trans (State.drawActive_keeps _ _ _ _)

/-- Entering parts in a job's draw list leaves its tag and state (R61). -/
theorem enter_foldl_keeps (k : SwathKind) (c : Chan) (parts : List Part) (j : Job) :
    (parts.foldl (Job.enter k c) j).tag = j.tag ∧ (parts.foldl (Job.enter k c) j).state = j.state := by
  induction parts generalizing j with
  | nil => exact ⟨rfl, rfl⟩
  | cons p parts ih => exact ih (Job.enter k c j p)

theorem State.noteMerged_keeps (j : Job) (c : Chan) (p : List Part) : s.keeps (s.noteMerged j c p) :=
  (s.noteMerged_within j c p).keeps
theorem State.chargeJob_keeps (tag : Nat) (k : SwathKind) (c : Chan) (v : Nat) (p : List Part) :
    s.keeps (s.chargeJob tag k c v p) := by
  unfold State.chargeJob; split
  · rename_i j hj
    obtain ⟨ht, hs⟩ := enter_foldl_keeps k c p j
    dsimp only
    generalize p.foldl (Job.enter k c) j = j' at ht hs
    refine ((s.moveChanInk_keeps _ _ _).trans (State.setJob_keeps_of_mem j ?_ ?_ ?_)).trans
      (State.noteMerged_keeps _ _ _ _)
    case refine_2 => exact ht.symm
    case refine_3 => exact fun h => hs ▸ h
    rw [(s.moveChanInk_within _ _ _) .jobs (by decide)]; exact State.job_mem hj
  · exact s.keeps_refl
theorem State.chargeMaintenance_keeps (p : List Part) : s.keeps (s.chargeMaintenance p) :=
  keeps_foldl _ (fun s _ => s.setOverhead_keeps _) _ _
theorem State.applyChannel_keeps (j : Option (Nat × SwathKind)) (c : Chan) (v n : Nat) :
    s.keeps (s.applyChannel j c v n) := by
  unfold State.applyChannel
  refine keeps_ite (s.modChan_keeps _ _) (State.keeps.trans ?_ (State.modChan_keeps _ _ _))
  cases j with
  | none => exact (s.drawChannel_keeps _ c v).trans (State.chargeMaintenance_keeps _ _)
  | some p => exact (s.drawChannel_keeps _ c v).trans (State.chargeJob_keeps _ _ _ _ _ _)
theorem State.afterDraws_keeps (v : Vec12) : s.keeps (s.afterDraws v) := by
  refine keeps_foldl _ (fun s c => ?_) _ _
  split
  · exact s.keeps_refl
  · exact (s.evalChannel_keeps c).trans (State.enforceInk_keeps _ c)
theorem State.applyFrame_keeps (j : Option (Nat × SwathKind)) (v n : Vec12) : s.keeps (s.applyFrame j v n) :=
  (keeps_foldl _ (fun s c => s.applyChannel_keeps j c (v.get c) (n.get c)) Chan.list s).trans (State.afterDraws_keeps _ v)
theorem State.raiseUncovered_keeps (l : List Chan) : s.keeps (s.raiseUncovered l) := (s.raiseUncovered_within l).keeps

/-! ### Checks (Machine/CheckOps.lean) -/

theorem State.missCheck_keeps (tag : Nat) (w : MissedReason) : s.keeps (s.missCheck tag w) := by
  unfold State.missCheck; split
  · rename_i j hj
    dsimp only
    have h := (State.setJob_keeps_of_mem (j := { j with strip := .resolved, flags := { j.flags with unchecked := true } }) j
      (State.job_mem hj)).trans (State.raise_keeps _ (.num tag) (.checkMissed w))
    split
    · exact h.trans (State.setCheck_keeps _ _)
    · exact h
  · exact s.keeps_refl
theorem State.missUnread_keeps (tag : Nat) (w : MissedReason) : s.keeps (s.missUnread tag w) := by
  unfold State.missUnread; split
  · exact keeps_ite (s.missCheck_keeps _ _) s.keeps_refl
  · exact s.keeps_refl
theorem State.supersede_keeps : s.keeps s.supersede := by
  unfold State.supersede; split
  · exact (((s.missCheck_keeps _ _).trans (State.setCheck_keeps _ _)).trans (State.commit_keeps _ _)).trans
      (State.settleTest_keeps _ _)
  · exact s.keeps_refl
theorem State.arrive_keeps (tag : Nat) : s.keeps (s.arrive tag) := by
  unfold State.arrive; split
  · refine keeps_ite ?_ s.keeps_refl
    unfold State.armFor; simp only; split
    · exact (s.supersede_keeps.trans (State.setCheck_keeps _ _)).trans (State.send_keeps _ _)
    · exact s.supersede_keeps
  · exact s.keeps_refl
theorem State.updateGains_keeps (st : Standard) (a b : Vec12) : s.keeps (s.updateGains st a b) :=
  keeps_foldl _ (fun s _ => s.modChan_keeps _ _) _ _
theorem State.verdictEffects_keeps (j : Job) (v : Verdict) (own : Bool) (r : Reference) :
    s.keeps (s.verdictEffects j v own r).1 := by
  unfold State.verdictEffects
  split
  · split
    · split
      · have h := s.modJob_keeps j.tag
          (f := fun j => { (j.doom .fail) with flags := { j.flags with voidOnSettle := true } })
        dsimp only
        split
        · exact h.trans (State.lockEdition_keeps _ _ _ _)
        · exact h
      · exact s.keeps_refl
    · exact s.keepProvisional_keeps _ _ _
  · split
    · split
      · exact s.keeps_refl
      · exact s.unlockEdition_keeps _ _ _
    · exact s.keepProvisional_keeps _ _ _
  · exact s.keeps_refl
  · exact s.keeps_refl
theorem State.takeVerdict_keeps {j : Job} (hj : j ∈ s.jobs) (st : Standard) (m : ReadingMsg) :
    s.keeps (s.takeVerdict j st m) := by
  unfold State.takeVerdict
  have h1 : ∀ x, s.keeps (s.gather.setJob { j with check := x, strip := .resolved }) := fun x =>
    (s.gather_within.keeps).trans (State.setJob_keeps_of_mem j hj)
  exact (((((((h1 _).trans (State.updateGains_keeps _ _ _ _)).trans (State.setCheck_keeps _ _)).trans
    (State.verdictEffects_keeps _ _ _ _ _)).trans (State.raise_keeps _ _ _)).trans (State.commit_keeps _ _)).trans
    (State.handGathered_keeps _)).trans (State.settleTest_keeps _ _)
theorem State.missReading_keeps (tag : Nat) (w : MissedReason) : s.keeps (s.missReading tag w) :=
  ((s.missCheck_keeps _ _).trans (State.commit_keeps _ _)).trans (State.settleTest_keeps _ _)
theorem State.takeReading_keeps (m : ReadingMsg) : s.keeps (s.takeReading m) := by
  unfold State.takeReading
  refine keeps_ite s.keeps_refl ?_
  split
  · refine keeps_ite ((s.setCheck_keeps { s.check with arm := none }).trans ?_) s.keeps_refl
    dsimp only
    split
    · rename_i j hj
      exact keeps_ite (State.missReading_keeps _ _ _) (keeps_ite (State.missReading_keeps _ _ _)
        (State.takeVerdict_keeps _ (State.job_mem hj) _ _))
    · exact State.keeps_refl _
  · exact s.keeps_refl

/-! ### Cuts (Machine/Cuts.lean) -/

theorem State.startCut_keeps : s.keeps s.startCut := s.startCut_within.keeps
theorem State.sendStop_keeps : s.keeps s.sendStop := s.send_keeps _
theorem State.planCuts_keeps (es : List CutEntry) : s.keeps (s.planCuts es) := by
  unfold State.planCuts; split
  · rename_i last r _ hr
    have h := (s.setMedia_keeps fun m => { m with queue := m.queue ++ es }).trans
      (State.setRoll_keeps_of_mem (r := { r with boundary := last.point }) r (State.activeRoll_mem hr).1)
    exact keeps_ite ((h.trans (State.sendStop_keeps _)).trans (State.startCut_keeps _)) h
  · exact s.keeps_refl
theorem State.planJobCuts_keeps (tag : Nat) (es : List CutEntry) : s.keeps (s.planJobCuts tag es) :=
  (s.modJob_keeps tag (f := fun j => { j with cut := .pending })).trans (State.planCuts_keeps _ _)
/-- What the cut of an entry leaves of the piece behind it (R119, R122), as `State.endCut_takes` ties it to the model. -/
def State.takePiece (e : CutEntry) (r : Roll) (piece : Nat) (skipped : Bool) : State :=
  match e.kind, e.owner with
  | .leadTrim, _ =>
    let cost := if r.unpriced then 0 else piece * r.width * r.price
    s.setOverhead { s.overhead with trims := satAdd Config.max64 s.overhead.trims cost }
  | .separate, some tag =>
    s.modJob tag fun j =>
      { j with
        printPiece := piece
        separated := true
        cut := if s.media.stripAhead tag then j.cut else if skipped then .uncut else .done
        flags := { j.flags with uncut := j.flags.uncut || skipped } }
  | .stripEnd, some tag =>
    (s.modJob tag fun j =>
      { j with
        stripPiece := piece, cut := if skipped then .uncut else .done
        flags := { j.flags with uncut := j.flags.uncut || skipped } }).missUnread tag (if skipped then .skipped else .cut)
  | _, none => s

/-- The end of a cut: the head entry leaves the queue, its roll and its piece are written, and what follows is sent and
committed (R118, R119, R122). -/
theorem State.endCut_takes {e : CutEntry} {rest : List CutEntry} {r : Roll} (hq : s.media.queue = e :: rest)
    (hr : s.activeRoll = some r) (skipped : Bool) :
    s.endCut skipped =
      (((((((s.setMedia fun m => { m with queue := rest, timer := none }).setRoll
        { r with lastCut := e.point, lastTarget := e.target }).takePiece e r (pieceLength e.point r.lastCut) skipped).setMedia
          fun m => { m with cutter := .idle }).sendStop).startCut).commit (cutKeys r e)).afterCut e := by
  unfold State.endCut
  rw [hq, hr]
  rfl

theorem State.takePiece_keeps (e : CutEntry) (r : Roll) (n : Nat) (b : Bool) : s.keeps (s.takePiece e r n b) := by
  unfold State.takePiece; split
  · exact s.setOverhead_keeps _
  · exact s.modJob_keeps _
  · exact (s.modJob_keeps _).trans (State.missUnread_keeps _ _ _)
  · exact s.keeps_refl
theorem State.afterCut_keeps (e : CutEntry) : s.keeps (s.afterCut e) := by
  unfold State.afterCut; split
  · split
    · exact keeps_ite (s.finishAndTest_keeps _) (s.settleTest_keeps _)
    · exact s.keeps_refl
  · exact s.keeps_refl
theorem State.endCut_keeps (b : Bool) : s.keeps (s.endCut b) := by
  match hq : s.media.queue, hr : s.activeRoll with
  | e :: rest, some r =>
    rw [State.endCut_takes s hq hr]
    exact (((((((s.setMedia_keeps _).trans (State.setRoll_keeps_of_mem r (State.activeRoll_mem hr).1)).trans
      (State.takePiece_keeps _ _ _ _ _)).trans (State.setMedia_keeps _ _)).trans (State.sendStop_keeps _)).trans
      (State.startCut_keeps _)).trans (State.commit_keeps _ _)).trans (State.afterCut_keeps _ _)
  | [], _ => unfold State.endCut; rw [hq]; exact s.keeps_refl
  | _ :: _, none => unfold State.endCut; rw [hq, hr]; exact s.keeps_refl
theorem State.jam_keeps (w : JamCause) : s.keeps (s.jam w) := by
  unfold State.jam; split
  · exact (s.setMedia_keeps _).trans (State.raise_keeps _ _ _)
  · exact s.keeps_refl
theorem State.followFeed_keeps (n : Nat) (b : Bool) : s.keeps (s.followFeed n b) := by
  unfold State.followFeed; split
  · rename_i j hj
    refine (s.moveRoll_keeps _ _ _).trans (State.setJob_keeps_of_mem j ?_)
    rw [(s.moveRoll_within _ _ _) .jobs (by decide)]; exact (State.printing_mem hj).1
  · exact s.keeps_refl
theorem State.stripTest_keeps (n : Nat) : s.keeps (s.stripTest n) :=
  (s.setMedia_keeps _).trans (keeps_foldl _ (fun s t => s.arrive_keeps t) _ _)
theorem State.moveFeed_keeps {r : Roll} (hr : r ∈ s.rolls) (n : Nat) (b : Bool) : s.keeps (s.moveFeed r n b) := by
  refine keeps_ite s.keeps_refl (((s.markDirty_keeps _).trans (State.setRoll_keeps_of_mem r ?_)).trans
    (State.followFeed_keeps _ _ _))
  rw [State.markDirty_rolls]; exact hr
theorem State.applyFeed_keeps {r : Roll} (hr : r ∈ s.rolls) (d : Int) : s.keeps (s.applyFeed r d) :=
  (((s.moveFeed_keeps hr _ _).trans (State.enforceRoll_keeps _ r.id)).trans (State.startCut_keeps _)).trans
    (State.stripTest_keeps _ _)
theorem State.endPrinting_keeps : s.keeps s.endPrinting := by
  unfold State.endPrinting; split
  · rename_i j hj
    exact (State.setJob_keeps_of_mem j (State.printing_mem hj).1).trans (State.finish_keeps _ _)
  · exact s.keeps_refl
theorem State.endActiveRoll_keeps (r : Roll) (b : Bool) : s.keeps (s.endActiveRoll r b) := by
  unfold State.endActiveRoll; simp only
  have h1 : s.keeps (s.setRoll (if b then { r with state := .shelved, slot := none }
      else { r with length := r.fed, state := .ended })) := State.setRoll_keeps (by split <;> simp)
  have h2 := ((h1.trans (State.setMedia_keeps _ fun m => { m with cutter := .idle, timer := none, queue := [] })).trans
    (keeps_foldl (fun s t => s.modJob t Job.uncutNow) (fun s t => s.modJob_keeps t)
      (s.media.queue.filterMap CutEntry.owner).dedup _)).trans (State.send_keeps _ (.stopAt none))
  have h3 := (h2.trans (State.endPrinting_keeps _)).trans (keeps_foldl
    (fun s t => (s.missUnread t .discarded).settleTest t) (fun s t => (s.missUnread_keeps _ _).trans (State.settleTest_keeps _ _))
    ((s.media.queue.filterMap CutEntry.owner).dedup ++ (s.printing?.map Job.tag).toList).dedup _)
  have h4 := h3.trans (keeps_ite (p := b = true) (State.withdrawRoll_keeps _ r.id) (State.enforceRoll_keeps _ r.id))
  exact (h4.trans (State.raise_keeps _ _ _)).trans (State.commitRest_keeps _ _)

end Sys2Proof.Machine
end

-- ==== Sys2Proof/Proofs/requests ====
section
/-!
What every request keeps of the laws: all but BEGIN JOB and SELECT ROLL make no job PRINTING and no roll ACTIVE; BEGIN JOB
makes one PRINTING where none is (R12, R13), and SELECT ROLL one ACTIVE in the place of the one before (R106).
-/

namespace Sys2Proof.Machine

/-! ### The laws of the tables -/

/-- In a table in key order, at most one record has a property when any two that have it have one key. -/
theorem filter_le_one_iff {α : Type} {key : α → Nat} {l : List α} (ho : ordered key l) (p : α → Bool) :
    (l.filter p).length ≤ 1 ↔ ∀ a ∈ l, ∀ b ∈ l, p a = true → p b = true → key a = key b := by
  have hs : (l.filter p).Pairwise fun x y => key x < key y := ho.filter p
  have hmem : ∀ a, a ∈ l.filter p ↔ a ∈ l ∧ p a = true := fun a => List.mem_filter
  constructor
  · intro h a ha b hb pa pb
    have ma := (hmem a).mpr ⟨ha, pa⟩
    have mb := (hmem b).mpr ⟨hb, pb⟩
    match hl : l.filter p, h with
    | [], _ => rw [hl] at ma; cases ma
    | [x], _ => rw [hl] at ma mb; rw [List.mem_singleton.mp ma, List.mem_singleton.mp mb]
  · intro h
    match hl : l.filter p with
    | [] => simp
    | [x] => simp
    | x :: y :: rest =>
      rw [hl] at hs
      obtain ⟨hx, px⟩ := (hmem x).mp (hl ▸ List.mem_cons_self)
      obtain ⟨hy, py⟩ := (hmem y).mp (hl ▸ List.mem_cons_of_mem _ List.mem_cons_self)
      have lt := (List.pairwise_cons.mp hs).1 y List.mem_cons_self
      exact absurd (h x hx y hy px py) (by omega)

/-- In a table in key order, a record is known by its key. -/
theorem ordered.eq_of_key {α : Type} {key : α → Nat} {l : List α} (ho : ordered key l) {a b : α} (ha : a ∈ l) (hb : b ∈ l)
    (hk : key a = key b) : a = b := by
  have apart : (l.map key).Nodup := List.pairwise_map.mpr (ho.imp fun h => h.ne)
  exact List.inj_on_of_nodup_map apart ha hb hk

/-- The laws that hold in every phase: the tables in key order, one ACTIVE roll at most, the law of the open groups. -/
structure State.tables (s : State) : Prop where
  jobs : ordered Job.tag s.jobs
  lots : ordered Lot.code s.lots
  rolls : ordered Roll.id s.rolls
  editions : ordered Edition.id s.editions
  active : (s.rolls.filter fun r => r.state == .active).length ≤ 1
  store : s.store.sound

theorem State.sound_iff (s : State) :
    s.sound ↔ s.tables ∧ (s.phase = .restore ∨ s.phase = .off → s.store.groups = [] ∧ s.store.behind = []) := by
  constructor
  · rintro ⟨h1, h2, h3, h4, h5, h6, h7⟩; exact ⟨⟨h1, h2, h3, h4, h5, h6⟩, h7⟩
  · rintro ⟨h, h7⟩; exact ⟨h.jobs, h.lots, h.rolls, h.editions, h.active, h.store, h7⟩

theorem State.sound.tables {s : State} (h : s.sound) : s.tables := ((State.sound_iff s).mp h).1

/-- A step that keeps the laws keeps at most one roll ACTIVE. -/
theorem State.keeps.tables {s t : State} (k : s.keeps t) (h : s.tables) : t.tables where
  jobs := k.jobs h.jobs
  lots := k.lots h.lots
  rolls := k.rolls h.rolls
  editions := k.editions h.editions
  active := by
    have old := (filter_le_one_iff h.rolls _).mp h.active
    refine (filter_le_one_iff (k.rolls h.rolls) _).mpr fun a ha b hb pa pb => ?_
    obtain ⟨x, hx, ex, px⟩ := k.active a ha (by simpa using pa)
    obtain ⟨y, hy, ey, py⟩ := k.active b hb (by simpa using pb)
    exact ex ▸ ey ▸ old x hx y hy (by simpa using px) (by simpa using py)
  store := k.store h.store

theorem State.keeps.onePrinting {s t : State} (k : s.keeps t) (h : s.tables) (ho : s.onePrinting) : t.onePrinting := by
  have old := (filter_le_one_iff h.jobs _).mp ho
  refine (filter_le_one_iff (k.jobs h.jobs) _).mpr fun a ha b hb pa pb => ?_
  obtain ⟨x, hx, ex, px⟩ := k.printing a ha (by simpa using pa)
  obtain ⟨y, hy, ey, py⟩ := k.printing b hb (by simpa using pb)
  exact ex ▸ ey ▸ old x hx y hy (by simpa using px) (by simpa using py)

/-- `t` follows `s` with the laws of the tables kept and at most one job PRINTING, in the same phase. -/
structure State.leads (s t : State) : Prop where
  tables : s.tables → t.tables
  printing : s.tables → s.onePrinting → t.onePrinting
  phase : t.phase = s.phase

theorem State.keeps.leads {s t : State} (k : s.keeps t) : s.leads t := ⟨k.tables, k.onePrinting, k.phase⟩

theorem State.leads.trans {s t u : State} (h : s.leads t) (k : t.leads u) : s.leads u :=
  ⟨fun hs => k.tables (h.tables hs), fun hs ho => k.printing (h.tables hs) (h.printing hs ho), k.phase.trans h.phase⟩

/-! ### The job requests (Machine/Jobs.lean) -/

theorem State.takeIn_keeps (s : State) (j : Job) (ink : Vec12) (roll : Nat) : s.keeps (s.takeIn j ink roll) :=
  (((s.moveInk_keeps _ _).trans (State.moveRoll_keeps _ _ _ _)).trans (State.setCounters_keeps _ _ _ _)).trans
    (State.setJob_keeps (by simp))

/-- What the answer of the admission test makes of a job; `failed` is the state left when it fails (R7). -/
def State.answers (s : State) (j : Job) (failed : State) : Admission → Reply
  | .pass ink len => ⟨(s.takeIn j ink len).commit [.job j.tag, .counters], .ok, .admitted s.nextSeq ink len⟩
  | .inkShort c n => ⟨failed, .inkShort, .inkShort c n⟩
  | .mediaShort n => ⟨failed, .mediaShort, .mediaShort n⟩

section
variable {s failed : State} {j : Job}

/-- Whatever the test is: the kernel does not evaluate it over the twelve channels. -/
theorem answers_of_test (test : State → JobSpec → Roll → Admission) {x : Roll} (hx : s.roll? j.spec.roll = some x) :
    (match s.roll? j.spec.roll with
      | none => s.refuse .unknownRoll
      | some r =>
        match test s j.spec r with
        | .pass ink len => ⟨(s.takeIn j ink len).commit [.job j.tag, .counters], .ok, .admitted s.nextSeq ink len⟩
        | .inkShort c n => ⟨failed, .inkShort, .inkShort c n⟩
        | .mediaShort n => ⟨failed, .mediaShort, .mediaShort n⟩) = s.answers j failed (test s j.spec x) := by
  rw [hx]; rfl

theorem State.tryAdmit_some {x : Roll} (hx : s.roll? j.spec.roll = some x) :
    s.tryAdmit j failed = s.answers j failed (s.admission j.spec x) := by
  have e : @State.tryAdmit = @State.tryAdmit := rfl
  conv at e => rhs; delta State.tryAdmit
  rw [congrFun (congrFun (congrFun e s) j) failed]
  exact answers_of_test _ hx

theorem State.tryAdmit_none (hx : s.roll? j.spec.roll = none) : s.tryAdmit j failed = s.refuse .unknownRoll := by
  have e : @State.tryAdmit = @State.tryAdmit := rfl
  conv at e => rhs; delta State.tryAdmit
  rw [congrFun (congrFun (congrFun e s) j) failed, hx]
end

theorem State.tryAdmit_keeps {s : State} (j : Job) {failed : State} (h : s.keeps failed) :
    s.keeps (s.tryAdmit j failed).state := by
  cases hx : s.roll? j.spec.roll with
  | none => rw [State.tryAdmit_none hx]; exact s.keeps_refl
  | some x =>
    rw [State.tryAdmit_some hx]
    cases s.admission j.spec x with
    | pass ink len => exact (s.takeIn_keeps _ _ _).trans (State.commit_keeps _ _)
    | inkShort c n => exact h
    | mediaShort n => exact h

theorem submitJob_keeps (r : SubmitReq) (s : State) : s.keeps (submitJob r s).state := by
  unfold submitJob
  split
  · exact s.keeps_refl
  · exact State.tryAdmit_keeps _ ((State.setJob_keeps (by simp [newJob])).trans (State.commit_keeps _ _))
  · exact s.keeps_refl

theorem admitJob_keeps (tag : Nat) (s : State) : s.keeps (admitJob tag s).state := by
  unfold admitJob
  split
  · exact s.keeps_refl
  · split
    · exact s.keeps_refl
    · split
      · exact s.keeps_refl
      · exact State.tryAdmit_keeps _ s.keeps_refl

/-- A job record is written PRINTING where none is PRINTING (R12, R13). -/
theorem State.setJob_leads {s : State} {j : Job} (h : s.printing? = none) : s.leads (s.setJob j) where
  tables hs :=
    { jobs := by rw [State.setJob_jobs]; exact insertBy_ordered hs.jobs
      lots := by simpa using hs.lots
      rolls := by simpa using hs.rolls
      editions := by simpa using hs.editions
      active := by simpa using hs.active
      store := State.noting_sound hs.store }
  printing hs _ := by
    refine (filter_le_one_iff (key := Job.tag) (by rw [State.setJob_jobs]; exact insertBy_ordered hs.jobs) _).mpr ?_
    have only : ∀ a ∈ (s.setJob j).jobs, (a.state == .printing) = true → a = j := by
      intro a ha pa
      rw [State.setJob_jobs] at ha
      exact (mem_insertBy ha).resolve_right fun hm => by
        simpa using List.find?_eq_none.mp h a hm pa
    intro a ha b hb pa pb
    rw [only a ha pa, only b hb pb]
  phase := by simp

theorem State.begin_leads {s : State} (j : Job) (r : Roll) (h : s.printing? = none) : s.leads (s.begin j r) := by
  unfold State.begin
  have h1 := (s.moveInk_keeps j.ink (s.begun j r).ink).trans
    (State.moveRoll_keeps _ j.spec.roll j.rollRes (s.begun j r).rollRes)
  have h2 := h1.leads.trans (State.setJob_leads (j := s.begun j r) (by
    unfold State.printing?
    rw [(State.moveRoll_within _ _ _ _) .jobs (by decide)]; exact h))
  exact ((h2.trans (keeps_ite (State.planJobCuts_keeps _ _ _) (State.keeps_refl _)).leads).trans
    (State.enforceRoll_keeps _ _).leads).trans (State.commitRest_keeps _ _).leads

/-- A BEGIN JOB that is not refused finds no job PRINTING (R12). -/
theorem State.printing_none_of_beginRefused {s : State} {j : Job} (h : s.beginRefused j = none) : s.printing? = none := by
  unfold State.beginRefused at h
  by_cases hp : s.printing?.isSome
  · simp [hp] at h
  · simpa using hp

theorem beginJob_leads (tag : Nat) (s : State) : s.leads (beginJob tag s).state := by
  unfold beginJob
  split
  · exact s.keeps_refl.leads
  · split
    · exact s.keeps_refl.leads
    · split
      · exact s.keeps_refl.leads
      · rename_i hb _
        exact State.begin_leads _ _ (State.printing_none_of_beginRefused hb)
      · exact s.keeps_refl.leads

theorem State.abort_keeps {s : State} {j : Job} (hj : j ∈ s.jobs) (c : VoidCause) : s.keeps (s.abort j c) := by
  unfold State.abort
  refine State.keeps.trans ?_ (State.finishAndTest_keeps _ _)
  exact keeps_ite ((State.setJob_keeps_of_mem j hj).trans (State.planJobCuts_keeps _ _ _)) (State.setJob_keeps_of_mem j hj)

theorem cancelJob_keeps (tag reason : Nat) (s : State) : s.keeps (cancelJob tag reason s).state := by
  unfold cancelJob
  split
  · exact s.keeps_refl
  · rename_i j hj
    have waiting : s.keeps (s.cancelWaiting j) :=
      ((s.release_keeps _).trans (State.removeJob_keeps _ _)).trans (State.commit_keeps _ _)
    split
    · exact waiting
    · exact waiting
    · exact State.abort_keeps (State.job_mem hj) _
    · exact keeps_ite s.keeps_refl ((State.setJob_keeps_of_mem j (State.job_mem hj)).trans (State.commit_keeps _ _))
    · exact s.keeps_refl
    · exact s.keeps_refl

theorem readJob_keeps (tag : Nat) (s : State) : s.keeps (readJob tag s).state := by
  unfold readJob
  split
  · exact s.keeps_refl
  · split <;> exact s.keeps_refl

theorem retireJob_keeps (tag : Nat) (s : State) : s.keeps (retireJob tag s).state := by
  unfold retireJob
  split
  · exact s.keeps_refl
  · split
    · exact (s.removeJob_keeps _).trans (State.commit_keeps _ _)
    · exact s.keeps_refl

/-! ### The channel and lot requests (Machine/Lots.lean) -/

theorem setChannel_keeps (r : ChannelReq) (s : State) : s.keeps (setChannel r s).state := by
  unfold setChannel
  split
  · exact s.keeps_refl
  · split
    · exact s.keeps_refl
    · split
      · exact s.keeps_refl
      · dsimp only
        exact ((s.modChan_keeps _ _).trans (State.evalChannel_keeps _ _)).trans (State.commit_keeps _ _)

theorem readChannel_keeps (c : Nat) (s : State) : s.keeps (readChannel c s).state := by
  unfold readChannel; split <;> exact s.keeps_refl

theorem State.install_keeps (s : State) (l : Lot) (c : Chan) (t : TankSlot) : s.keeps (s.install l c t) := by
  unfold State.install
  have h := (((s.setLot_keeps l).trans (State.modChan_keeps _ c fun ch =>
    { ch with slots := ch.slots.put t (some l.code) })).trans (State.evalExpiry_keeps _ l)).trans (State.evalChannel_keeps _ c)
  exact keeps_ite ((h.trans (State.modChan_keeps _ _ _)).trans (State.lotChange_keeps _ _ _ _ _))
    (h.trans (State.commitRest_keeps _ _))

theorem installLot_keeps (r : InstallReq) (s : State) : s.keeps (installLot r s).state := by
  unfold installLot
  split
  · exact s.keeps_refl
  · split
    · split
      · exact s.keeps_refl
      · split
        · exact s.keeps_refl
        · exact s.install_keeps _ _ _
    · exact s.keeps_refl

theorem State.takeOut_keeps (s : State) (c : Chan) (t : TankSlot) (l : Lot) : s.keeps (s.takeOut c t l) := by
  unfold State.takeOut
  dsimp only
  have h := (s.setLot_keeps { l with location := none, state := lotStateOf l.remaining none }).trans
    (State.modChan_keeps _ c fun ch => { ch with slots := ch.slots.put t none })
  exact ((State.keeps.trans (keeps_ite (h.trans (State.nextActive_keeps _ _ _ _ _)) h) (State.evalChannel_keeps _ _)).trans
    (State.enforceInk_keeps _ _)).trans (State.commitRest_keeps _ _)

theorem removeLot_keeps (c t : Nat) (s : State) : s.keeps (removeLot c t s).state := by
  unfold removeLot
  split
  · split
    · exact s.takeOut_keeps _ _ _
    · exact s.keeps_refl
  · exact s.keeps_refl

theorem State.amendInSlot_keeps (s : State) (c : Chan) (t : TankSlot) (a b : Lot) : s.keeps (s.amendInSlot c t a b) := by
  unfold State.amendInSlot
  have h := (keeps_ite (p := (s.chan c).slots.active = some t)
    (keeps_ite (p := b.remaining = 0) (s.exhaustActive_keeps .request c t b.code) s.keeps_refl)
    (keeps_ite (p := (s.chan c).slots.active = none ∧ 0 < b.remaining)
      ((s.modChan_keeps c fun ch => { ch with slots := { ch.slots with active := some t } }).trans
        (State.lotChange_keeps _ .request c 0 b.code)) s.keeps_refl)).trans (State.evalChannel_keeps _ c)
  exact keeps_ite (h.trans (State.enforceInk_keeps _ _)) h

theorem amendLot_keeps (code v : Nat) (s : State) : s.keeps (amendLot code v s).state := by
  unfold amendLot
  split
  · exact s.keeps_refl
  · split
    · exact s.keeps_refl
    · refine State.keeps.trans ?_ (State.commitRest_keeps _ _)
      split
      · exact (s.setLot_keeps _).trans (State.amendInSlot_keeps _ _ _ _ _)
      · exact s.setLot_keeps _

theorem retireLot_keeps (code : Nat) (s : State) : s.keeps (retireLot code s).state := by
  unfold retireLot
  split
  · exact s.keeps_refl
  · split
    · exact s.keeps_refl
    · split
      · exact s.keeps_refl
      · split
        · exact s.keeps_refl
        · exact (s.removeLot_keeps _).trans (State.commit_keeps _ _)

theorem readLot_keeps (code : Nat) (s : State) : s.keeps (readLot code s).state := by
  unfold readLot
  split
  · exact s.keeps_refl
  · split <;> exact s.keeps_refl

theorem setDay_keeps (day : Nat) (s : State) : s.keeps (setDay day s).state := by
  unfold setDay
  dsimp only
  have lots := keeps_foldl (fun s l => s.evalExpiry l) State.evalExpiry_keeps
  have channels := keeps_foldl (fun s c => s.evalExpired c) State.evalExpired_keeps
  exact (((s.setCounters_keeps _ _ _).trans (State.commit_keeps _ _)).trans (lots _ _)).trans (channels _ _)

/-! ### The segment requests (Machine/Rows.lean) -/

theorem State.setSegment_keeps (s : State) (c : Chan) (i : Fin 4) (g : Segment) : s.keeps (s.setSegment c i g) :=
  s.modChan_keeps _ _

theorem setRowMask_keeps (c i : Nat) (m w : Bool) (s : State) : s.keeps (setRowMask c i m w s).state := by
  unfold setRowMask
  split
  · exact (keeps_ite ((s.setSegment_keeps _ _ _).trans (State.raise_keeps _ _ _)) (s.setSegment_keeps _ _ _)).trans
      (State.commit_keeps _ _)
  · exact s.keeps_refl

theorem substituteRow_keeps (c i k : Nat) (s : State) : s.keeps (substituteRow c i k s).state := by
  unfold substituteRow
  split
  · split
    · exact s.keeps_refl
    · rename_i c i k _ _ _ _ _
      have h : s.keeps ((({ s.setSegment c i { s.segment c i with fault := .ok, spare := k } with
          check := { (s.setSegment c i { s.segment c i with fault := .ok, spare := k }).check with forced := true } } :
            State)).treatChannel .substitution c) :=
        ((s.setSegment_keeps _ _ _).trans (State.setCheck_keeps _ _)).trans (State.treatChannel_keeps _ _ _)
      exact keeps_ite (h.trans (State.commit_keeps _ _)) h
  · exact s.keeps_refl

/-! ### The roll and cutter requests (Machine/Rolls.lean) -/

theorem loadRoll_keeps (r : LoadRollReq) (s : State) : s.keeps (loadRoll r s).state := by
  unfold loadRoll
  split
  · exact s.keeps_refl
  · split
    · exact s.keeps_refl
    · split
      · exact s.keeps_refl
      · split
        · exact s.keeps_refl
        · refine (State.setRoll_keeps fun h => absurd h ?_).trans (State.commit_keeps _ _)
          unfold State.loadedRoll
          split
          · dsimp only; split <;> simp
          · simp

/-- SELECT ROLL makes one roll ACTIVE in the place of the one before (R106). -/
theorem State.makeActive_leads {s : State} (r : Roll) : s.leads (s.makeActive r) := by
  have write : ∀ t : State, s.keeps t → (s.tables → ∀ a ∈ t.rolls, a.state = .active → a.id = r.id) →
      s.leads (t.setRoll { r with state := .active }) := by
    intro t ht only
    have tab : s.tables → (t.setRoll { r with state := .active }).tables := fun hs =>
      { jobs := by simpa using (ht.tables hs).jobs
        lots := by simpa using (ht.tables hs).lots
        rolls := by rw [State.setRoll_rolls]; exact insertBy_ordered (ht.tables hs).rolls
        editions := by simpa using (ht.tables hs).editions
        active := by
          refine (filter_le_one_iff (key := Roll.id)
            (by rw [State.setRoll_rolls]; exact insertBy_ordered (ht.tables hs).rolls) _).mpr ?_
          have all : ∀ a ∈ (t.setRoll { r with state := .active }).rolls, (a.state == .active) = true → a.id = r.id := by
            intro a ha pa
            rw [State.setRoll_rolls] at ha
            rcases mem_insertBy ha with rfl | ha
            · rfl
            · exact only hs a ha (by simpa using pa)
          intro a ha b hb pa pb
          rw [all a ha pa, all b hb pb]
        store := State.noting_sound (ht.tables hs).store }
    refine ⟨tab, fun hs ho => ?_, by simp [ht.phase]⟩
    unfold State.onePrinting
    rw [State.setRoll_jobs]
    exact ht.onePrinting hs ho
  unfold State.makeActive
  dsimp only
  cases ha : s.activeRoll with
  | none =>
    refine write s s.keeps_refl fun _ a hm hs => ?_
    exact absurd (List.find?_eq_none.mp ha a hm) (by simp [hs])
  | some a =>
    obtain ⟨hma, hsa⟩ := State.activeRoll_mem ha
    have one : s.tables → ∀ b ∈ s.rolls, b.state = .active → b.id = a.id := fun hs b hb hsb =>
      (filter_le_one_iff hs.rolls _).mp hs.active b hb a hma (by simp [hsb]) (by simp [hsa])
    dsimp only
    split
    · rename_i he
      exact write s s.keeps_refl fun hs b hb hsb => (one hs b hb hsb).trans he
    · refine write _ (State.setRoll_keeps (by simp)) fun hs b hb hsb => ?_
      rw [State.setRoll_rolls] at hb
      rcases mem_insertBy hb with rfl | hb'
      · simp at hsb
      · have mine := List.mem_of_find?_eq_some (find_insertBy_self (x := { a with state := .loaded }) hs.rolls)
        have e := (insertBy_ordered hs.rolls).eq_of_key hb mine (one hs b hb' hsb)
        rw [e] at hsb; simp at hsb

theorem selectRoll_leads (id : Nat) (s : State) : s.leads (selectRoll id s).state := by
  unfold selectRoll
  split
  · exact s.keeps_refl.leads
  · split
    · exact s.keeps_refl.leads
    · split
      · exact s.keeps_refl.leads
      · exact ((State.makeActive_leads _).trans (State.planCuts_keeps _ _).leads).trans (State.commit_keeps _ _).leads

theorem State.takeOutRoll_keeps (s : State) (r : Roll) : s.keeps (s.takeOutRoll r) := by
  unfold State.takeOutRoll
  have h : s.keeps (s.setRoll { r with slot := none, state := if r.state = .ended then .ended else .shelved }) :=
    State.setRoll_keeps (by dsimp only; split <;> simp)
  exact ((keeps_ite (h.trans (State.send_keeps _ _)) h).trans (State.withdrawRoll_keeps _ _)).trans (State.commit_keeps _ _)

theorem unloadRoll_keeps (id : Nat) (s : State) : s.keeps (unloadRoll id s).state := by
  unfold unloadRoll
  split
  · exact s.keeps_refl
  · split
    · exact s.keeps_refl
    · split
      · exact s.keeps_refl
      · exact s.takeOutRoll_keeps _

theorem retireRoll_keeps (id : Nat) (s : State) : s.keeps (retireRoll id s).state := by
  unfold retireRoll
  split
  · exact s.keeps_refl
  · split
    · exact s.keeps_refl
    · split
      · exact s.keeps_refl
      · split
        · exact s.keeps_refl
        · exact (s.removeRoll_keeps _).trans (State.commit_keeps _ _)

theorem readRoll_keeps (id : Nat) (s : State) : s.keeps (readRoll id s).state := by
  unfold readRoll
  split
  · exact s.keeps_refl
  · split <;> exact s.keeps_refl

theorem State.freshen_keeps (s : State) : s.keeps s.freshen := by
  refine State.within.keeps (l := [.fresh]) ?_
  intro f hf; cases f <;> first | rfl | simp_all

theorem readMedia_keeps (s : State) : s.keeps (readMedia s).state := keeps_ite s.freshen_keeps s.keeps_refl

theorem setMediaGeometry_keeps (g : Geometry) (s : State) : s.keeps (setMediaGeometry g s).state := by
  unfold setMediaGeometry
  split
  · exact s.keeps_refl
  · exact (s.setGeometry_keeps _).trans (State.commit_keeps _ _)

theorem clearJamRetry_keeps (s : State) : s.keeps (clearJamRetry s).state := by
  unfold clearJamRetry
  split
  · exact s.keeps_refl
  · split
    · exact keeps_ite ((s.setMedia_keeps _).trans (State.send_keeps _ _)) (s.setMedia_keeps _)
    · exact s.keeps_refl

theorem clearJamSkip_keeps (s : State) : s.keeps (clearJamSkip s).state := by
  unfold clearJamSkip
  split
  · exact s.keeps_refl
  · exact s.endCut_keeps _

/-! ### The check requests (Machine/Checks.lean) -/

theorem setCheckPlan_keeps (r : PlanReq) (s : State) : s.keeps (setCheckPlan r s).state := by
  unfold setCheckPlan
  split
  · exact s.keeps_refl
  · split
    · exact s.keeps_refl
    · split
      · exact s.keeps_refl
      · exact (s.setPlan_keeps _).trans (State.commit_keeps _ _)

/-! ### The edition requests (Machine/Editions.lean) -/

theorem State.editEdition_keeps (s : State) (e : Edition) (l : List RecKey) : s.keeps ((s.setEdition e).commit l) :=
  (s.setEdition_keeps e).trans (State.commit_keeps _ l)

theorem createEdition_keeps (r : EditionReq) (s : State) : s.keeps (createEdition r s).state := by
  unfold createEdition
  split
  · exact s.keeps_refl
  · exact s.editEdition_keeps _ _

theorem adoptReference_keeps (id : Nat) (s : State) : s.keeps (adoptReference id s).state := by
  unfold adoptReference
  split
  · exact s.keeps_refl
  · split
    · exact s.keeps_refl
    · split
      · exact s.keeps_refl
      · split
        · exact s.keeps_refl
        · split
          · exact s.keeps_refl
          · exact s.editEdition_keeps _ _

theorem rejectReference_keeps (id : Nat) (s : State) : s.keeps (rejectReference id s).state := by
  unfold rejectReference
  split
  · exact s.keeps_refl
  · split
    · exact s.keeps_refl
    · split
      · exact s.keeps_refl
      · split
        · exact s.keeps_refl
        · exact s.editEdition_keeps _ _

theorem closeEdition_keeps (id : Nat) (s : State) : s.keeps (closeEdition id s).state := by
  unfold closeEdition
  split
  · exact s.keeps_refl
  · split
    · exact s.keeps_refl
    · split
      · exact s.keeps_refl
      · split
        · exact s.keeps_refl
        · exact s.editEdition_keeps _ _

theorem retireEdition_keeps (id : Nat) (s : State) : s.keeps (retireEdition id s).state := by
  unfold retireEdition
  split
  · exact s.keeps_refl
  · split
    · exact s.keeps_refl
    · split
      · exact s.keeps_refl
      · split
        · exact s.keeps_refl
        · exact (s.removeEdition_keeps _).trans (State.commit_keeps _ _)

theorem readEdition_keeps (id : Nat) (s : State) : s.keeps (readEdition id s).state := by
  unfold readEdition
  split
  · exact s.keeps_refl
  · split <;> exact s.keeps_refl

/-! ### The price and overhead requests (Machine/Prices.lean) -/

theorem State.setPricesBad_keeps (s : State) (b : Bool) : s.keeps { s with pricesBad := b } := by
  refine State.within.keeps (l := [.pricesBad]) ?_
  intro f hf; cases f <;> first | rfl | simp_all

theorem writePrice_keeps (r : PriceReq) (s : State) : s.keeps (writePrice r s).state := by
  unfold writePrice
  split
  · exact s.keeps_refl
  · split
    · exact s.keeps_refl
    · split
      · exact s.keeps_refl
      · exact ((s.setPrices_keeps _).trans (State.setPricesBad_keeps _ _)).trans (State.commit_keeps _ _)

theorem removePrice_keeps (c k : Nat) (s : State) : s.keeps (removePrice c k s).state := by
  unfold removePrice
  split
  · exact s.keeps_refl
  · split
    · exact s.keeps_refl
    · split
      · exact s.keeps_refl
      · split
        · exact s.keeps_refl
        · exact (s.setPrices_keeps _).trans (State.commit_keeps _ _)

theorem State.putLock_keeps (s : State) (b : Bool) : s.keeps (s.putLock b).state :=
  (s.setPrices_keeps _).trans (State.commit_keeps _ _)

theorem setStripAccounting_keeps (m : Nat) (s : State) : s.keeps (setStripAccounting m s).state := by
  unfold setStripAccounting
  split
  · exact s.keeps_refl
  · split
    · exact s.keeps_refl
    · exact (s.setStripMode_keeps _).trans (State.commit_keeps _ _)

theorem clearOverhead_keeps (s : State) : s.keeps (clearOverhead s).state :=
  (s.setOverhead_keeps _).trans (State.commit_keeps _ _)

theorem readNotices_keeps (s : State) : s.keeps (readNotices s).state := by
  refine State.within.keeps (l := [.notices]) ?_
  intro f hf; cases f <;> first | rfl | simp_all

/-! ### Every request -/

/-- Every block keeps the laws with every request of it. -/
theorem requestParts_leads {i : Instr} {p : Nat × Nat × (State → Reply)} (h : requestParts i = some p) (s : State) :
    s.leads (p.2.2 s).state := by
  cases i <;> simp only [requestParts, Option.some.injEq, reduceCtorEq] at h <;> subst h
  case submitJob => exact (submitJob_keeps _ s).leads
  case admitJob => exact (admitJob_keeps _ s).leads
  case beginJob => exact beginJob_leads _ s
  case cancelJob => exact (cancelJob_keeps _ _ s).leads
  case readJob => exact (readJob_keeps _ s).leads
  case retireJob => exact (retireJob_keeps _ s).leads
  case setChannel => exact (setChannel_keeps _ s).leads
  case readChannel => exact (readChannel_keeps _ s).leads
  case installLot => exact (installLot_keeps _ s).leads
  case removeLot => exact (removeLot_keeps _ _ s).leads
  case amendLot => exact (amendLot_keeps _ _ s).leads
  case retireLot => exact (retireLot_keeps _ s).leads
  case readLot => exact (readLot_keeps _ s).leads
  case setDay => exact (setDay_keeps _ s).leads
  case setRowMask => exact (setRowMask_keeps _ _ _ _ s).leads
  case substituteRow => exact (substituteRow_keeps _ _ _ s).leads
  case loadRoll => exact (loadRoll_keeps _ s).leads
  case selectRoll => exact selectRoll_leads _ s
  case unloadRoll => exact (unloadRoll_keeps _ s).leads
  case retireRoll => exact (retireRoll_keeps _ s).leads
  case readRoll => exact (readRoll_keeps _ s).leads
  case readMedia => exact (readMedia_keeps s).leads
  case setMediaGeometry => exact (setMediaGeometry_keeps _ s).leads
  case clearJamRetry => exact (clearJamRetry_keeps s).leads
  case clearJamSkip => exact (clearJamSkip_keeps s).leads
  case setCheckPlan => exact (setCheckPlan_keeps _ s).leads
  case forceCheck => exact (s.setCheck_keeps _).leads
  case readCheckState => exact s.keeps_refl.leads
  case createEdition => exact (createEdition_keeps _ s).leads
  case adoptReference => exact (adoptReference_keeps _ s).leads
  case rejectReference => exact (rejectReference_keeps _ s).leads
  case closeEdition => exact (closeEdition_keeps _ s).leads
  case retireEdition => exact (retireEdition_keeps _ s).leads
  case readEdition => exact (readEdition_keeps _ s).leads
  case writePrice => exact (writePrice_keeps _ s).leads
  case removePrice => exact (removePrice_keeps _ _ s).leads
  case lockPrices => exact (s.putLock_keeps true).leads
  case unlockPrices => exact (s.putLock_keeps false).leads
  case readPrices => exact s.keeps_refl.leads
  case setStripAccounting => exact (setStripAccounting_keeps _ s).leads
  case readOverhead => exact s.keeps_refl.leads
  case clearOverhead => exact (clearOverhead_keeps s).leads
  case readNotices => exact (readNotices_keeps s).leads
  case identify => exact s.keeps_refl.leads
  case readStatus => exact s.keeps_refl.leads

/-- A request is taken by the Request Port with its code, its sequence number and its block. -/
theorem exec_request {i : Instr} {p : Nat × Nat × (State → Reply)} (h : requestParts i = some p) (s : State) :
    exec i s = .next (s.request p.1 p.2.1 p.2.2) := by
  cases i <;> simp only [requestParts, Option.some.injEq, reduceCtorEq] at h <;> subst h <;> rfl

end Sys2Proof.Machine
end

-- ==== Sys2Proof/Proofs/step ====
section
/-!
Every step keeps the laws of the tables and of the open commit groups, and at most one job PRINTING: the link frames and
messages, the store at work, the flush, the restore, and the obligations about a step.
-/

namespace Sys2Proof.Machine

/-! ### A step at work -/

/-- `t` follows `s` with the laws of the tables kept and at most one job PRINTING; a store at work stays at work (R200), and
the handling in hand is the one before. -/
structure State.works (s t : State) : Prop where
  tables : s.tables → t.tables
  printing : s.tables → s.onePrinting → t.onePrinting
  phase : s.atWork → t.atWork
  handling : t.handling = s.handling

theorem State.works_refl (s : State) : s.works s := ⟨id, fun _ => id, id, rfl⟩

theorem State.works.trans {s t u : State} (h : s.works t) (k : t.works u) : s.works u :=
  ⟨fun hs => k.tables (h.tables hs), fun hs ho => k.printing (h.tables hs) (h.printing hs ho), k.phase ∘ h.phase,
    k.handling.trans h.handling⟩

theorem State.leads.works {s t : State} (h : s.leads t) (hh : t.handling = s.handling) : s.works t :=
  ⟨h.tables, h.printing, fun hw => by unfold State.atWork at *; rw [h.phase]; exact hw, hh⟩

theorem State.keeps.works {s t : State} (h : s.keeps t) (hh : t.handling = s.handling) : s.works t := h.leads.works hh

/-- A step that leaves the tables, the store, the phase and the handling alone. -/
theorem State.within.works {s t : State} {l : List Field} (h : s.within l t)
    (hl : ∀ f ∈ Field.handling :: lawfulFields, f ∉ l := by decide) : s.works t :=
  (h.keeps fun f hf => hl f (List.mem_cons_of_mem _ hf)).works (h .handling (hl _ (by decide)))

theorem State.works.sound_of {s t : State} (h : s.works t) (hw : t.atWork) (hs : s.tables) : t.sound := by
  refine (State.sound_iff t).mpr ⟨h.tables hs, fun hp => ?_⟩
  rcases hw with e | e <;> rw [e] at hp <;> simp at hp

/-- Of a store at work the laws need no word about the phase. -/
theorem State.works.sound {s t : State} (h : s.works t) (hw : s.atWork) (hs : s.sound) : t.sound :=
  h.sound_of (h.phase hw) hs.tables

/-- What is left of the tables when the store, its open groups apart, and other fields change. -/
theorem State.works_of_tables {s t : State} (hj : t.jobs = s.jobs) (hl : t.lots = s.lots) (hr : t.rolls = s.rolls)
    (he : t.editions = s.editions) (hs : s.store.sound → t.store.sound) (hp : s.atWork → t.atWork)
    (hh : t.handling = s.handling) : s.works t where
  tables h := ⟨hj ▸ h.jobs, hl ▸ h.lots, hr ▸ h.rolls, he ▸ h.editions, hr ▸ h.active, hs h.store⟩
  printing _ ho := by unfold State.onePrinting; rw [hj]; exact ho
  phase := hp
  handling := hh

variable (s : State)

/-! ### The flush (R201 to R203) -/

theorem State.handFlush_works (l : List RecKey) : s.works (s.handFlush l) :=
  ((s.hand_keeps l).works (s.hand_handling l)).trans
    (State.works_of_tables rfl rfl rfl rfl (Store.sound_congr rfl rfl rfl rfl) id rfl)

theorem State.writeMarker_works : s.works s.writeMarker := by
  unfold State.writeMarker; split
  · exact State.works_of_tables rfl rfl rfl rfl (Store.sound_congr rfl rfl rfl rfl) id rfl
  · exact s.works_refl

theorem State.advanceFlush_works : s.works s.advanceFlush := by
  unfold State.advanceFlush
  split
  · exact s.works_refl
  · split
    · exact s.handFlush_works _
    · split
      · exact State.works_of_tables rfl rfl rfl rfl (Store.sound_congr rfl rfl rfl rfl) id rfl
      · split
        · exact s.writeMarker_works
        · exact s.writeMarker_works.trans
            (State.works_of_tables rfl rfl rfl rfl (Store.sound_congr rfl rfl rfl rfl) (fun _ => .inl rfl) rfl)

/-- The flush goes on in FLUSH alone. -/
theorem State.advanceFlush_idle {s : State} (h : s.phase ≠ .flush) : s.advanceFlush = s := by
  unfold State.advanceFlush; rw [if_pos (.inl h)]

/-- A store that is given power fail goes on under the laws, in FLUSH or, once the flush is done, in RUN (R201, R208). -/
theorem State.startFlush_works : s.works s.startFlush := by
  have h0 : s.works { s with phase := .flush, store := { s.store with flush := {} } } :=
    State.works_of_tables rfl rfl rfl rfl (Store.sound_congr rfl rfl rfl rfl) (fun _ => .inr rfl) rfl
  exact (h0.trans (State.handFlush_works _ _)).trans (State.advanceFlush_works _)

/-! ### The links (R71, R194) -/

/-- A record written stands in its table. -/
theorem mem_insertBy_self {α : Type} {key : α → Nat} (x : α) (l : List α) : x ∈ insertBy key x l := by
  induction l with
  | nil => exact List.mem_cons_self
  | cons y l ih =>
    unfold insertBy
    split
    · exact List.mem_cons_self
    · split
      · exact List.mem_cons_self
      · exact List.mem_cons_of_mem _ ih

@[simp] theorem Job.advance_tag (j : Job) (k : SwathKind) : (j.advance k).tag = j.tag := by cases k <;> rfl
@[simp] theorem Job.advance_state (j : Job) (k : SwathKind) : (j.advance k).state = j.state := by cases k <;> rfl
@[simp] theorem Job.decide_tag (j : Job) (b : Bool) (n : Nat) : (j.decide b n).tag = j.tag := by
  unfold Job.decide; split <;> rfl
@[simp] theorem Job.decide_state (j : Job) (b : Bool) (n : Nat) : (j.decide b n).state = j.state := by
  unfold Job.decide; split <;> rfl

theorem State.countPrint_keeps (b : Bool) : s.keeps (s.countPrint b) := keeps_ite s.keeps_refl (s.setCheck_keeps _)

theorem State.lastImage_keeps {s : State} {j : Job} (hj : j ∈ s.jobs) : s.keeps (s.lastImage j).1 := by
  have decided : ∀ d : Job, d.tag = j.tag → d.state = j.state → s.keeps (s.setJob d) := fun d ht he =>
    State.setJob_keeps_of_mem j hj ht.symm (he ▸ ·)
  have h := ((decided _ (j.decide_tag (s.stripWanted j) s.check.plan.stripSwaths) (j.decide_state _ _)).trans
    (State.countPrint_keeps _ (s.stripWanted j))).trans (State.planJobCuts_keeps _ j.tag
      (imageCuts s.media.geometry j (s.stripWanted j)))
  unfold State.lastImage
  dsimp only
  split
  · exact h
  · exact h.trans (State.finishAndTest_keeps _ _)

theorem State.advanceSwath_keeps (tag : Nat) (k : SwathKind) : s.keeps (s.advanceSwath tag k).1 := by
  unfold State.advanceSwath
  split
  · exact s.keeps_refl
  · rename_i j0 hj0
    have h : s.keeps (s.setJob (j0.advance k)) :=
      State.setJob_keeps_of_mem j0 (State.job_mem hj0) (j0.advance_tag k).symm (j0.advance_state k ▸ ·)
    have mem : j0.advance k ∈ (s.setJob (j0.advance k)).jobs := by
      rw [State.setJob_jobs]; exact mem_insertBy_self _ _
    dsimp only
    split
    · split
      · exact h.trans (State.lastImage_keeps mem)
      · exact h
    · split
      · exact h.trans (State.finishAndTest_keeps _ _)
      · exact h

theorem State.takeGo_keeps (tag : Nat) (k : SwathKind) (d : DropCounts) : s.keeps (s.takeGo tag k d).1 := by
  have gathered : s.keeps s.gather := s.gather_within.keeps
  have applied := gathered.trans (State.applyFrame_keeps _ (some (tag, k)) (s.draws d) (s.candidates d))
  have h := s.raiseUncovered_keeps (s.uncovered (s.draws d))
  unfold State.takeGo
  dsimp only
  split
  · exact h
  · split
    · exact h
    · split
      · exact h
      · have advanced := applied.trans (State.advanceSwath_keeps _ tag k)
        dsimp only
        exact advanced.trans (State.handGathered_keeps _)

theorem State.takeSwath_keeps (tag kind : Nat) (t : Bool) (d : DropCounts) : s.keeps (s.takeSwath tag kind t d).1 := by
  unfold State.takeSwath
  split
  · exact s.keeps_refl
  · split
    · exact s.keeps_refl
    · split
      · exact s.keeps_refl
      · exact s.keeps_refl
      · exact s.keeps_refl
      · exact s.takeGo_keeps _ _ _

theorem State.setHead_keeps (h : HeadLink) : s.keeps { s with head := h } := by
  refine State.within.keeps (l := [.head]) ?_
  intro f hf; cases f <;> first | rfl | simp_all

theorem State.takePurge_keeps (t : Bool) (d : DropCounts) : s.keeps (s.takePurge t d).1 := by
  unfold State.takePurge
  split
  · exact s.keeps_refl
  · split
    · exact s.keeps_refl
    · split
      · exact s.keeps_refl
      · split
        · exact s.raiseUncovered_keeps _
        · exact ((s.gather_within.keeps.trans (State.applyFrame_keeps _ _ _ _)).trans (State.handGathered_keeps _)).trans
            (State.setHead_keeps _ _)

theorem State.flagRowFault_keeps (c : Chan) : s.keeps (s.flagRowFault c) := by
  unfold State.flagRowFault; split
  · rename_i j hj
    exact keeps_ite (State.setJob_keeps_of_mem j (State.printing_mem hj).1) s.keeps_refl
  · exact s.keeps_refl

theorem State.takeRowStatus_keeps (c i f : Nat) : s.keeps (s.takeRowStatus c i f).1 := by
  unfold State.takeRowStatus
  split
  · exact s.keeps_refl
  · split
    · have h := s.setSegment_keeps
      unfold State.writeFault
      dsimp only
      split
      · exact h _ _ _
      · split
        · exact ((h _ _ _).trans (State.flagRowFault_keeps _ _)).trans (State.raise_keeps _ _ _)
        · exact (h _ _ _).trans (State.flagRowFault_keeps _ _)
    · exact s.keeps_refl

theorem State.takeRowMapQuery_keeps : s.keeps s.takeRowMapQuery.1 := by
  unfold State.takeRowMapQuery; split <;> exact s.keeps_refl

theorem State.takeHeadBytes_keeps (l : List Byte) : s.keeps (s.takeHeadBytes l).1 := by
  unfold State.takeHeadBytes
  split
  · exact s.takeSwath_keeps _ _ _ _
  · exact s.takePurge_keeps _ _
  · exact s.takeRowStatus_keeps _ _ _
  · exact s.takeRowMapQuery_keeps
  · exact s.keeps_refl

/-- In RESTORE every Head Link frame is answered and changes nothing (R73). -/
theorem State.takeSwath_restore {s : State} (h : s.phase = .restore) (tag kind : Nat) (t : Bool) (d : DropCounts) :
    (s.takeSwath tag kind t d).1 = s := by
  unfold State.takeSwath; split
  · rfl
  · rw [if_pos h]
theorem State.takePurge_restore {s : State} (h : s.phase = .restore) (t : Bool) (d : DropCounts) :
    (s.takePurge t d).1 = s := by unfold State.takePurge; rw [if_pos h]
theorem State.takeRowStatus_restore {s : State} (h : s.phase = .restore) (c i f : Nat) :
    (s.takeRowStatus c i f).1 = s := by unfold State.takeRowStatus; rw [if_pos h]
theorem State.takeRowMapQuery_restore {s : State} (h : s.phase = .restore) : s.takeRowMapQuery.1 = s := by
  unfold State.takeRowMapQuery; rw [if_pos h]
theorem State.takeHeadBytes_restore {s : State} (h : s.phase = .restore) (l : List Byte) : (s.takeHeadBytes l).1 = s := by
  unfold State.takeHeadBytes
  split
  · exact State.takeSwath_restore h _ _ _ _
  · exact State.takePurge_restore h _ _
  · exact State.takeRowStatus_restore h _ _ _
  · exact State.takeRowMapQuery_restore h
  · rfl

theorem State.handleMedia_keeps (m : MediaMsg) : s.keeps (s.handleMedia m) := by
  cases m with
  | feed d =>
    unfold State.handleMedia State.takeFeed
    refine keeps_ite s.keeps_refl ?_
    split
    · rename_i r hr; exact State.applyFeed_keeps _ (State.activeRoll_mem hr).1 _
    · exact s.keeps_refl
  | cutDone => exact keeps_ite (s.endCut_keeps _) s.keeps_refl
  | cutFault c => exact keeps_ite (s.jam_keeps _) s.keeps_refl
  | rollPresent p v =>
    unfold State.handleMedia State.takeRollPresent
    dsimp only
    split
    · rename_i p v _ _
      have h := s.setMedia_keeps fun m => m.setPresence p v
      split
      · refine h.trans ?_
        unfold State.absent
        split
        · exact State.endActiveRoll_keeps _ _ _
        · exact State.takeOutRoll_keeps _ _
        · rename_i he
          exact (State.setRoll_keeps fun e => by simp [he] at e).trans (State.commit_keeps _ _)
        · exact State.keeps_refl _
      · exact h
    · exact s.keeps_refl
  | rollEnd p =>
    unfold State.handleMedia State.takeRollEnd
    dsimp only
    split
    · split
      · exact s.endActiveRoll_keeps _ _
      · exact (((State.setRoll_keeps (by simp)).trans (State.enforceRoll_keeps _ _)).trans (State.raise_keeps _ _ _)).trans
          (State.commit_keeps _ _)
      · exact s.keeps_refl
      · exact s.keeps_refl
    · exact s.keeps_refl

/-- A handling taken whole: what its handler keeps is kept, and the handling in hand before it stands again. -/
theorem State.handled_works {h : State → State} (hk : ∀ s : State, s.keeps (h s)) :
    s.works ((h s.beginHandling).endHandling s.handling) := by
  have k : s.keeps ((h s.beginHandling).endHandling s.handling) :=
    (s.beginHandling_within.keeps.trans (hk _)).trans (State.endHandling_within _ _).keeps
  exact k.works rfl

theorem State.setMedia_works (f : Media → Media) : s.works (s.setMedia f) := (s.setMedia_within f).works

theorem State.setCheck_works (c : CheckUnit) : s.works { s with check := c } := (s.setCheck_keeps c).works rfl

theorem State.takeMedia_works (m : MediaMsg) : s.works (s.takeMedia (State.handleMedia m)) :=
  ((s.handled_works fun s => s.handleMedia_keeps m).trans
    (State.setMedia_works _ fun u => { u with waiting :=
      ((State.handleMedia m s.beginHandling).endHandling s.handling).store.openAbove s.store.called })).trans
    (State.advanceFlush_works _)

theorem State.takeSensor_works (m : ReadingMsg) : s.works (s.takeSensor fun s => s.takeReading m) :=
  ((s.handled_works fun s => s.takeReading_keeps m).trans (State.setCheck_works _ _)).trans (State.advanceFlush_works _)

theorem State.headFrame_works {h : State → State × HeadAnswer} (hk : ∀ s : State, s.keeps (h s).1) :
    s.works (s.headFrame h) := by
  have hq : s.works s.quiet := State.works_of_tables rfl rfl rfl rfl id id rfl
  unfold State.headFrame
  dsimp only
  split
  · exact hq
  · refine (hq.trans (s.quiet.handled_works (h := fun s => (h s).1) hk)).trans (State.works.trans ?_ (State.advanceFlush_works _))
    split
    · exact (State.send_within _ _).works
    · exact (State.setHead_keeps _ _).works rfl

/-! ### The store at work (R193, R194, R197) -/

theorem State.drainMedia_works (n : Nat) : s.works (State.drainMedia n s) := by
  induction n generalizing s with
  | zero => exact s.works_refl
  | succ n ih =>
    unfold State.drainMedia
    split
    · exact ((s.setMedia_works _).trans (State.takeMedia_works _ _)).trans (ih _)
    · exact s.works_refl

theorem State.drainSensor_works (n : Nat) : s.works (State.drainSensor n s) := by
  induction n generalizing s with
  | zero => exact s.works_refl
  | succ n ih =>
    unfold State.drainSensor
    split
    · exact ((s.setCheck_works _).trans (State.takeSensor_works _ _)).trans (ih _)
    · exact s.works_refl

theorem State.freePort_works (done : List Nat) : s.works (s.freePort done) := by
  unfold State.freePort
  split
  · dsimp only; split <;> exact State.works_of_tables rfl rfl rfl rfl id id rfl
  · exact s.works_refl

theorem State.freeHead_works (done : List Nat) : s.works (s.freeHead done) := by
  unfold State.freeHead
  split
  · dsimp only; split <;> exact State.works_of_tables rfl rfl rfl rfl id id rfl
  · exact s.works_refl

theorem State.releaseWaiting_works (done : List Nat) : s.works (s.releaseWaiting done) := by
  have h0 : s.works (s.freeNotices done) := State.works_of_tables rfl rfl rfl rfl id id rfl
  have h1 := (h0.trans (State.freePort_works _ done)).trans (State.freeHead_works _ done)
  have h2 := h1.trans (State.works_of_tables (t := State.freeLinks _ done) rfl rfl rfl rfl id id rfl)
  exact (h2.trans (State.drainMedia_works _ _)).trans (State.drainSensor_works _ _)

theorem State.follow_works {s : State} {g : OpenGroup} {rest : List OpenGroup} (unsaved : List RecKey)
    (hg : g ∈ s.store.groups)
    (hr : rest.map (fun x => (x.ids, x.nums, x.writes.map Write.group)) =
      (s.store.groups.filter fun x => x != g).map fun x => (x.ids, x.nums, x.writes.map Write.group)) :
    s.works (s.follow g.ids rest unsaved) := by
  obtain ⟨b, hb, -⟩ := s.follow_shape g.ids rest unsaved
  refine State.works_of_tables ?_ ?_ ?_ ?_ (fun h => State.follow_sound unsaved h hg hr) (fun h => ?_) ?_ <;> rw [hb]
  exact h

theorem State.flushEnded_works (g : OpenGroup) (ok : Bool) : s.works (s.flushEnded g ok) :=
  State.works_of_tables rfl rfl rfl rfl (Store.sound_congr rfl rfl rfl rfl) id rfl

theorem State.completeGroup_works {s : State} {g : OpenGroup} (hg : g ∈ s.store.groups) : s.works (s.completeGroup g) := by
  have h0 : s.works { s with store := { s.store with
      records := writeImages s.store.closed (fun _ => true) g.writes s.store.records
      closed := s.store.closed ++ g.nums, dirty := s.marksLeft g.writes, lastDone := g.nums.foldl max 0 } } :=
    State.works_of_tables rfl rfl rfl rfl (Store.sound_congr rfl rfl rfl rfl) id rfl
  have h1 : s.works (s.closeGroup g) := h0.trans (State.follow_works _ hg rfl)
  exact ((h1.trans (State.flushEnded_works _ _ _)).trans (State.releaseWaiting_works _ _)).trans (State.advanceFlush_works _)

theorem State.failGroup_works {s : State} {g : OpenGroup} (hg : g ∈ s.store.groups) (sound : Write → Bool)
    {faults : State → State} (hf : ∀ s : State, s.works (faults s)) : s.works (s.failGroup g sound faults) := by
  have h0 : s.works { s with store := { s.store with
      records := writeImages s.store.closed sound (g.writes.filter fun w => !heldBack s.store.groups g w.key)
        s.store.records } } :=
    State.works_of_tables rfl rfl rfl rfl (Store.sound_congr rfl rfl rfl rfl) id rfl
  have h1 : s.works (s.dropGroup g sound) := h0.trans (State.follow_works _ hg (by
    simp [OpenGroup.outdated, Function.comp_def]))
  exact (((h1.trans (hf _)).trans (State.flushEnded_works _ _ _)).trans (State.releaseWaiting_works _ _)).trans
    (State.advanceFlush_works _)

theorem State.raise_works (u : Subject) (d : Detail) : s.works (s.raise u d) := (s.raise_within u d).works
theorem State.freshen_works : s.works s.freshen := s.freshen_keeps.works rfl

theorem works_foldl {α : Type} (f : State → α → State) (h : ∀ (s : State) (a : α), s.works (f s a)) (as : List α)
    (s : State) : s.works (as.foldl f s) := by
  induction as generalizing s with
  | nil => exact s.works_refl
  | cons a as ih => exact (h s a).trans (ih _)

theorem Store.openGroup_mem {st : Store} {n : Nat} {g : OpenGroup} (h : st.openGroup n = some g) : g ∈ st.groups :=
  List.mem_of_find?_eq_some h

theorem State.failedWrite_works (w : FailedWrite) : s.works (s.failedWrite w) := by
  unfold State.failedWrite
  cases w with
  | images n keys =>
    dsimp only
    split
    · rename_i g hg
      unfold State.failImages
      dsimp only
      split
      · exact s.works_refl
      · exact State.failGroup_works (Store.openGroup_mem hg) _ fun s => works_foldl _ (fun s w => s.raise_works _ _) _ s
    · exact s.works_refl
  | close n =>
    dsimp only
    split
    · rename_i g hg
      exact State.failGroup_works (Store.openGroup_mem hg) _ fun s => (s.raise_works _ _).trans (State.freshen_works _)
    · exact s.works_refl
  | mark k =>
    dsimp only
    unfold State.failMark
    split
    · have unmarked : s.works { s with store := { s.store with dirty := s.store.dirty.erase k } } :=
        State.works_of_tables rfl rfl rfl rfl (Store.sound_congr rfl rfl rfl rfl) id rfl
      exact unmarked.trans (State.raise_works _ _ _)
    · exact s.works_refl
  | marker =>
    dsimp only
    unfold State.failMarker
    split
    · have unmarked : s.works { s with store := { s.store with marker := false } } :=
        State.works_of_tables rfl rfl rfl rfl (Store.sound_congr rfl rfl rfl rfl) id rfl
      exact (unmarked.trans (State.raise_works _ _ _)).trans (State.freshen_works _)
    · exact s.works_refl

/-- Writing the image in flight leaves the commit points and the numbers of the groups. -/
theorem takeTurns_numbers (gs : List OpenGroup) :
    ((takeTurns gs).map fun g => (g.ids, g.nums, g.writes.map Write.group)).Perm
      (gs.map fun g => (g.ids, g.nums, g.writes.map Write.group)) := by
  have key : ∀ g : OpenGroup, (g.writes.map fun w => if w.stage = .writing then { w with stage := .written } else w).map
      Write.group = g.writes.map Write.group := by
    intro g
    rw [List.map_map]
    exact List.map_congr_left fun w _ => by simp only [Function.comp_apply]; split <;> rfl
  unfold takeTurns
  rw [List.map_append, List.map_map]
  simp only [Function.comp_def, key]
  rw [← List.map_append]
  exact ((List.perm_append_comm.trans (List.filter_append_perm OpenGroup.writing gs))).map _

theorem State.endImage_works (w : Write) : s.works (s.endImage w) := by
  refine State.works_of_tables rfl rfl rfl rfl (fun h => ?_) id rfl
  have perm := takeTurns_numbers s.store.groups
  refine Store.regroup_sound (gs := startWrite (takeTurns s.store.groups)) h ?_ ?_ rfl rfl rfl rfl
  · rw [startWrite_ids]
    have := (perm.map Prod.fst).flatten
    simpa [List.flatMap, Function.comp_def] using this
  · refine numbered_congr (startWrite_numbers _) fun g hg => ?_
    obtain ⟨x, hx, e⟩ := List.mem_map.mp (perm.mem_iff.mp (List.mem_map_of_mem hg))
    refine numbered_congr (a := [g]) (b := [x]) (by simpa using e.symm) (fun y hy => ?_) g (List.mem_singleton_self g)
    rw [List.mem_singleton.mp hy]
    exact ((Store.sound_iff _).mp h).1.numbered x hx

theorem State.joinGroups_works : s.works s.joinGroups := by
  unfold State.joinGroups
  dsimp only
  split
  · exact s.works_refl
  · rename_i hne
    refine State.works_of_tables rfl rfl rfl rfl (fun h => ?_) id rfl
    have num := ((Store.sound_iff _).mp h).1.numbered
    obtain ⟨g, hg⟩ := List.exists_mem_of_ne_nil s.store.groups (by simpa using hne)
    refine Store.regroup_sound h ?_ ?_ rfl rfl rfl rfl
    · rw [startWrite_ids]; simp
    · refine numbered_congr (startWrite_numbers _) fun x hx => ?_
      rw [List.mem_singleton.mp hx]
      refine ⟨?_, ?_, fun n hn => ?_, fun w hw => ?_⟩
      · obtain ⟨i, hi⟩ := List.exists_mem_of_ne_nil _ (num g hg).1
        exact List.ne_nil_of_mem (List.mem_flatMap.mpr ⟨g, hg, hi⟩)
      · obtain ⟨i, hi⟩ := List.exists_mem_of_ne_nil _ (num g hg).2.1
        exact List.ne_nil_of_mem (List.mem_flatMap.mpr ⟨g, hg, hi⟩)
      · obtain ⟨x, hx, hn⟩ := List.mem_flatMap.mp hn
        exact (num x hx).2.2.1 n hn
      · obtain ⟨x, hx, hw⟩ := List.mem_flatMap.mp (mem_of_newestWrites hw)
        exact List.mem_flatMap.mpr ⟨x, hx, (num x hx).2.2.2 w hw⟩

theorem State.storeWork_works : s.works s.storeWork := by
  unfold State.storeWork
  split
  · rename_i g hg; exact State.completeGroup_works (List.mem_of_find?_eq_some hg)
  · split
    · exact s.endImage_works _
    · exact s.joinGroups_works

end Sys2Proof.Machine
end

-- ==== Sys2Proof/Proofs/restore ====
section
/-!
What the restore leaves (R204 to R208): tables in key order, no ACTIVE roll, no PRINTING job, no open group.
-/

namespace Sys2Proof.Machine

/-! ### The tables rebuilt (stages 1 to 4) -/

/-- A table gathered record by record into its key order is in key order. -/
theorem foldl_ordered {α β : Type} {key : α → Nat} (f : List α → β → List α)
    (h : ∀ l b, ordered key l → ordered key (f l b)) (bs : List β) {l : List α} (hl : ordered key l) :
    ordered key (bs.foldl f l) := by
  induction bs generalizing l with
  | nil => exact hl
  | cons b bs ih => exact ih (h l b hl)

/-- What every record written and every record before has, the gathered table has. -/
theorem foldl_forall {α β : Type} {p : α → Prop} (f : List α → β → List α)
    (h : ∀ l b, (∀ a ∈ l, p a) → ∀ a ∈ f l b, p a) (bs : List β) {l : List α} (hl : ∀ a ∈ l, p a) :
    ∀ a ∈ bs.foldl f l, p a := by
  induction bs generalizing l with
  | nil => exact hl
  | cons b bs ih => exact ih (h l b hl)

theorem Store.restoreLots_ordered (st : Store) : ordered Lot.code st.restoreLots := by
  refine foldl_ordered _ (fun l p h => ?_) _ List.Pairwise.nil
  split
  · exact insertBy_ordered h
  · exact h

theorem Store.restoreRolls_ordered (st : Store) : ordered Roll.id st.restoreRolls := by
  refine foldl_ordered _ (fun l p h => ?_) _ List.Pairwise.nil
  split
  · exact insertBy_ordered h
  · exact h

theorem Store.restoreEditions_ordered (st : Store) : ordered Edition.id st.restoreEditions := by
  refine foldl_ordered _ (fun l p h => ?_) _ List.Pairwise.nil
  split
  · exact insertBy_ordered h
  · exact h

/-- No roll is ACTIVE after a restore (R128). -/
theorem Store.restoreRolls_idle (st : Store) : ∀ r ∈ st.restoreRolls, r.state ≠ .active := by
  refine foldl_forall (p := fun r : Roll => r.state ≠ .active) _ (fun l p h => ?_) _ (by simp)
  split
  · intro a ha
    rcases mem_insertBy ha with rfl | ha
    · unfold Store.restoreRoll; dsimp only; split
      · decide
      · assumption
    · exact h a ha
  · exact h

/-- The job records of the store, as they stand there. -/
def Store.storedJobs (st : Store) : List Job :=
  st.images.foldl
    (fun l p =>
      match p.2 with
      | .job j => insertBy Job.tag j l
      | _ => l)
    []

theorem Store.storedJobs_ordered (st : Store) : ordered Job.tag st.storedJobs := by
  refine foldl_ordered _ (fun l p h => ?_) _ List.Pairwise.nil
  split
  · exact insertBy_ordered h
  · exact h

/-- What stages 1 to 4 leave beside the check plan, the geometry, the prices and the counters. -/
structure State.rebuilt (s t : State) : Prop where
  jobs : t.jobs = s.store.storedJobs
  lots : t.lots = s.store.restoreLots
  rolls : t.rolls = s.store.restoreRolls
  editions : t.editions = s.store.restoreEditions
  store : t.store = s.store
  phase : t.phase = s.phase
  handling : t.handling = {}

theorem State.rebuildRecords_rebuilt (s : State) : s.rebuilt s.rebuildRecords := by
  unfold State.rebuildRecords
  dsimp only
  constructor <;> (repeat' split) <;> rfl

theorem State.rebuildChannels_rebuilt (s : State) : s.rebuilt s.rebuildRecords.rebuildChannels :=
  have h := s.rebuildRecords_rebuilt
  ⟨h.jobs, h.lots, h.rolls, h.editions, h.store, h.phase, h.handling⟩

theorem State.rebuilt.tables {s t : State} (h : s.rebuilt t) (hs : s.store.sound) : t.tables where
  jobs := h.jobs ▸ s.store.storedJobs_ordered
  lots := h.lots ▸ s.store.restoreLots_ordered
  rolls := h.rolls ▸ s.store.restoreRolls_ordered
  editions := h.editions ▸ s.store.restoreEditions_ordered
  active := by
    have none : t.rolls.filter (fun r => r.state == .active) = [] :=
      List.filter_eq_nil_iff.mpr fun r hr => by simpa using s.store.restoreRolls_idle r (h.rolls ▸ hr)
    rw [none]; exact Nat.zero_le 1
  store := h.store ▸ hs

/-! ### The jobs of the store (stage 5) -/

/-- Costing writes the job, in the state it has. -/
theorem State.costAndCarry_jobs (s : State) (j : Job) :
    ∃ x : Job, (s.costAndCarry j).jobs = insertBy Job.tag x s.jobs ∧ x.tag = j.tag ∧ x.state = j.state := by
  unfold State.costAndCarry
  dsimp only
  split
  · split
    · exact ⟨_, (State.setJob_jobs _ _).trans (congrArg _ (by simp only [State.setEdition_jobs, State.setOverhead_jobs])), rfl, rfl⟩
    · exact ⟨_, (State.setJob_jobs _ _).trans (congrArg _ (by simp only [State.setOverhead_jobs])), rfl, rfl⟩
  · refine ⟨_, (State.setJob_jobs _ _).trans (congrArg _ ?_), rfl, rfl⟩
    split <;> simp only [State.setOverhead_jobs]

theorem State.costAndCarry_handling (s : State) (j : Job) : (s.costAndCarry j).handling = s.handling := by
  unfold State.costAndCarry
  dsimp only
  split
  · split <;> simp
  · split <;> simp

theorem State.restoreJob_keeps (s : State) (j : Job) : s.keeps (s.restoreJob j) := by
  unfold State.restoreJob
  split
  · exact State.setJob_keeps (by simp)
  · exact s.costAndCarry_keeps (by simp [State.interrupted])
  · exact s.costAndCarry_keeps (by simp [State.interrupted])
  · exact s.keeps_refl
  · exact s.keeps_refl
  · exact s.keeps_refl

theorem State.restoreJob_handling (s : State) (j : Job) : (s.restoreJob j).handling = s.handling := by
  unfold State.restoreJob
  split <;> simp [State.costAndCarry_handling]

@[simp] theorem Job.doom_tag (j : Job) (c : VoidCause) : (j.doom c).tag = j.tag := rfl
@[simp] theorem Job.unheld_tag (j : Job) : j.unheld.tag = j.tag := rfl

/-- A job PRINTING in the store is not PRINTING once it is restored (R27). -/
theorem State.restoreJob_stops {s : State} {j k : Job} (ho : ordered Job.tag s.jobs) (hj : j.state = .printing)
    (hk : k ∈ (s.restoreJob j).jobs) (ht : k.tag = j.tag) : k.state ≠ .printing := by
  have e : s.restoreJob j = s.costAndCarry (s.interrupted j) := by unfold State.restoreJob; rw [hj]
  obtain ⟨x, hjobs, hx, hs⟩ := s.costAndCarry_jobs (s.interrupted j)
  rw [e, hjobs] at hk
  have same : k = x := (insertBy_ordered (x := x) ho).eq_of_key hk (mem_insertBy_self x _)
    (ht.trans (hx.trans (by simp [State.interrupted])).symm)
  rw [same, hs]
  simp [State.interrupted]

/-- Stage 5 leaves no job PRINTING: one that is PRINTING still is PRINTING in a record not restored yet. -/
theorem restoreJobs_printing (l : List Job) (s : State) (ho : ordered Job.tag s.jobs)
    (h : ∀ k ∈ s.jobs, k.state = .printing → ∃ j ∈ l, j.tag = k.tag ∧ j.state = .printing) :
    ∀ k ∈ (l.foldl (fun s j => s.restoreJob j) s).jobs, k.state ≠ .printing := by
  induction l generalizing s with
  | nil => intro k hk e; obtain ⟨j, hj, -⟩ := h k hk e; cases hj
  | cons j l ih =>
    have kept := s.restoreJob_keeps j
    refine ih _ (kept.jobs ho) fun k hk e => ?_
    obtain ⟨a, ha, at', ae⟩ := kept.printing k hk e
    obtain ⟨i, hi, it, ie⟩ := h a ha ae
    rcases List.mem_cons.mp hi with rfl | hi
    · exact absurd e (State.restoreJob_stops ho ie hk (at'.symm.trans it.symm))
    · exact ⟨i, hi, it.trans at', ie⟩

theorem restoreJobs_handling (l : List Job) (s : State) :
    (l.foldl (fun s j => s.restoreJob j) s).handling = s.handling := by
  induction l generalizing s with
  | nil => rfl
  | cons j l ih => exact (ih _).trans (s.restoreJob_handling j)

/-! ### The commit of the restore and its end (stages 6 and 7) -/

/-- Stage 6 changes the store and the free values alone, and leaves no group open. -/
theorem State.restoreCommit_shape (s : State) (failed : List RecKey) (closeFails : Bool) :
    ∃ st n, (s.restoreCommit failed closeFails).state = { s with store := st, fresh := n } ∧ st.groups = [] ∧
      st.behind = [] := by
  unfold State.restoreCommit
  dsimp only
  split
  · exact ⟨_, s.fresh, rfl, rfl, rfl⟩
  · split
    · exact ⟨_, _, rfl, rfl, rfl⟩
    · exact ⟨_, s.fresh, rfl, rfl, rfl⟩

/-- A store with no open group and no commit point that waits is sound. -/
theorem Store.sound_of_idle {st : Store} (hg : st.groups = []) (hb : st.behind = []) : st.sound := by
  simp [Store.sound, Store.openAbove, hg, hb]

/-- What stages 1 to 6 leave. -/
theorem State.rebuild_leaves {s : State} (failed : List RecKey) (closeFails : Bool) (hs : s.store.sound) :
    (s.rebuild failed closeFails).tables ∧ (∀ j ∈ (s.rebuild failed closeFails).jobs, j.state ≠ .printing) := by
  have first := s.rebuildChannels_rebuilt
  have kept := keeps_foldl (fun s j => s.restoreJob j) State.restoreJob_keeps s.rebuildRecords.rebuildChannels.jobs
    s.rebuildRecords.rebuildChannels
  have idle := restoreJobs_printing _ _ (first.tables hs).jobs fun k hk e => ⟨k, hk, rfl, e⟩
  have laws := kept.tables (first.tables hs)
  obtain ⟨st, n, e, hg, hb⟩ := State.restoreCommit_shape
    { (s.rebuildRecords.rebuildChannels.jobs.foldl (fun s j => s.restoreJob j) s.rebuildRecords.rebuildChannels) with
      store := s.store } failed closeFails
  unfold State.rebuild
  dsimp only
  rw [e]
  exact ⟨⟨laws.jobs, laws.lots, laws.rolls, laws.editions, laws.active, Store.sound_of_idle hg hb⟩, idle⟩

theorem State.rebuild_rest (s : State) (failed : List RecKey) (closeFails : Bool) :
    (s.rebuild failed closeFails).handling = {} ∧ (s.rebuild failed closeFails).phase = s.phase ∧
      (s.rebuild failed closeFails).store.groups = [] ∧ (s.rebuild failed closeFails).store.behind = [] := by
  have first := s.rebuildChannels_rebuilt
  have kept := keeps_foldl (fun s j => s.restoreJob j) State.restoreJob_keeps s.rebuildRecords.rebuildChannels.jobs
    s.rebuildRecords.rebuildChannels
  have rest := restoreJobs_handling s.rebuildRecords.rebuildChannels.jobs s.rebuildRecords.rebuildChannels
  obtain ⟨st, n, e, hg, hb⟩ := State.restoreCommit_shape
    { (s.rebuildRecords.rebuildChannels.jobs.foldl (fun s j => s.restoreJob j) s.rebuildRecords.rebuildChannels) with
      store := s.store } failed closeFails
  unfold State.rebuild
  dsimp only
  rw [e]
  exact ⟨rest.trans first.handling, kept.phase.trans first.phase, hg, hb⟩

theorem State.raiseRestoreClose_works (s : State) (r : RestoreReport) (u : Subject) :
    s.works (s.raiseRestoreClose r u) := by
  unfold State.raiseRestoreClose
  split
  · split
    · exact s.raise_works _ _
    · exact s.works_refl
  · exact s.works_refl

theorem State.raiseRestoreFaults_works (s : State) (r : RestoreReport) (g : Region) :
    s.works (s.raiseRestoreFaults r g) := by
  unfold State.raiseRestoreFaults
  dsimp only
  refine State.works.trans ?_ (State.raiseRestoreClose_works _ _ _)
  refine State.works.trans ?_ (works_foldl _ (fun s k => s.raise_works _ _) _ _)
  split
  · exact s.works_refl
  · exact s.raise_works _ _

theorem State.restoreNotices_works (s : State) (r : RestoreReport) : s.works (s.restoreNotices r) := by
  unfold State.restoreNotices
  dsimp only
  refine State.works.trans ?_ (State.raiseRestoreClose_works _ _ _)
  refine State.works.trans ?_ (works_foldl _ (fun s g => s.raiseRestoreFaults_works r g) _ _)
  have h0 := s.raise_works (.num 0) (.restarted s.cause r.markerFound r.voided r.lost.length)
  split
  · refine State.works.trans ?_ (State.raise_works _ _ _)
    split
    · exact h0
    · exact h0.trans (State.raise_works _ _ _)
  · split
    · exact h0
    · exact h0.trans (State.raise_works _ _ _)

/-- The end of the restore keeps the laws, and the store is at work then (R207, R208). -/
theorem State.endRestore_works (s : State) (r : RestoreReport) :
    s.works (s.endRestore r) ∧ (s.endRestore r).atWork := by
  unfold State.endRestore
  dsimp only
  have noticed := (s.restoreNotices_works r).trans (State.within.works (State.send_within _ (.stopAt none)))
  have entered : s.works { ((s.restoreNotices r).send (.stopAt none)) with
      phase := .run, store := { ((s.restoreNotices r).send (.stopAt none)).store with restored := none } } :=
    noticed.trans (State.works_of_tables rfl rfl rfl rfl (Store.sound_congr rfl rfl rfl rfl) (fun _ => .inl rfl) rfl)
  split
  · exact ⟨entered.trans (State.startFlush_works _), (State.startFlush_works _).phase (.inl rfl)⟩
  · exact ⟨entered, .inl rfl⟩

/-- The restore, whole or what is left of it. -/
theorem State.restore_laws {s : State} (failed : List RecKey) (closeFails : Bool) (hs : s.sound) :
    (s.restore failed closeFails).sound ∧ (s.onePrinting → (s.restore failed closeFails).onePrinting) := by
  unfold State.restore
  split
  · rename_i r _
    obtain ⟨ended, work⟩ := s.endRestore_works r
    exact ⟨ended.sound_of work hs.tables, ended.printing hs.tables⟩
  · obtain ⟨laws, none⟩ := State.rebuild_leaves failed closeFails hs.tables.store
    obtain ⟨-, phase, hg, hb⟩ := s.rebuild_rest failed closeFails
    have one : (s.rebuild failed closeFails).onePrinting := by
      have empty : (s.rebuild failed closeFails).jobs.filter (fun j => j.state == .printing) = [] :=
        List.filter_eq_nil_iff.mpr fun j hj => by simpa using none j hj
      unfold State.onePrinting; rw [empty]; exact Nat.zero_le 1
    dsimp only
    split
    · rename_i r _
      obtain ⟨ended, work⟩ := State.endRestore_works (s.rebuild failed closeFails) r
      exact ⟨ended.sound_of work laws, fun _ => ended.printing laws one⟩
    · exact ⟨(State.sound_iff _).mpr ⟨laws, fun _ => ⟨hg, hb⟩⟩, fun _ => one⟩

/-- A restore leaves the handling in hand, or none. -/
theorem State.restore_handling (s : State) (failed : List RecKey) (closeFails : Bool) :
    (s.restore failed closeFails).handling = s.handling ∨ (s.restore failed closeFails).handling = {} := by
  unfold State.restore
  split
  · exact .inl (s.endRestore_works _).1.handling
  · have rest := (s.rebuild_rest failed closeFails).1
    dsimp only
    split
    · exact .inr ((State.endRestore_works _ _).1.handling.trans rest)
    · exact .inr rest

end Sys2Proof.Machine
end

-- ==== Sys2Proof/Proofs/laws ====
section
/-!
O2 and O3: what every step keeps of the laws, in every phase.
-/

namespace Sys2Proof.Machine

/-- `t` obeys the laws of a step from `s`: the tables and the groups stay sound, at most one job is PRINTING, and the
handling in hand is the one before or none. -/
structure State.obeys (s t : State) : Prop where
  sound : s.sound → t.sound
  printing : s.sound → s.onePrinting → t.onePrinting
  handling : t.handling = s.handling ∨ t.handling = {}

/-- Of a store at work. -/
theorem State.works.obeys {s t : State} (h : s.works t) (hw : s.atWork) : s.obeys t :=
  ⟨h.sound hw, fun hs => h.printing hs.tables, .inl h.handling⟩

/-- A step that leaves the tables, the store, the phase and the handling alone. -/
theorem State.within.obeys {s t : State} {l : List Field} (h : s.within l t)
    (hl : ∀ f ∈ Field.handling :: lawfulFields, f ∉ l := by decide) : s.obeys t := by
  have w := h.works hl
  refine ⟨fun hs => (State.sound_iff t).mpr ⟨w.tables hs.tables, ?_⟩, fun hs => w.printing hs.tables, .inl w.handling⟩
  rw [h .phase (hl _ (by decide)), h .store (hl _ (by decide))]
  exact ((State.sound_iff s).mp hs).2

/-- A part that loses its working records is sound and has nothing in hand (R204). -/
theorem State.discard_obeys (s : State) (p : Phase) (c : StartCause) : s.obeys (s.discard p c) := by
  refine ⟨fun _ => (State.sound_iff _).mpr ⟨⟨?_, ?_, ?_, ?_, ?_, Store.sound_of_idle rfl rfl⟩, fun _ => ⟨rfl, rfl⟩⟩,
    fun _ _ => ?_, .inr rfl⟩
  · exact List.Pairwise.nil
  · exact List.Pairwise.nil
  · exact List.Pairwise.nil
  · exact List.Pairwise.nil
  · exact Nat.zero_le 1
  · exact Nat.zero_le 1

variable (s : State)

theorem State.quiet_within : s.within [.out] s.quiet := by
  intro f hf; cases f <;> first | rfl | simp at hf

theorem State.quiet_obeys : s.obeys s.quiet := s.quiet_within.obeys

theorem State.dropFrame_obeys : s.obeys s.quiet.dropFrame := by
  refine State.within.obeys (l := [.out, .port]) ?_
  intro f hf; cases f <;> first | rfl | simp at hf

theorem State.respond_obeys (code seq : Nat) (st : Status) (b : Body) : s.obeys (s.quiet.respond code seq st b) := by
  refine State.within.obeys (l := [.out, .port]) ?_
  intro f hf; cases f <;> first | rfl | simp at hf

/-! ### The requests (R209 to R213) -/

theorem State.serve_works (code seq : Nat) {h : State → Reply} (hk : ∀ s : State, s.leads (h s).state) :
    s.works (s.serve code seq h) := by
  rw [s.serve_shape]
  have begun : s.leads s.beginHandling := s.beginHandling_within.keeps.leads
  have ended : (h s.beginHandling).state.leads ((h s.beginHandling).state.endHandling s.handling) :=
    (State.endHandling_within _ _).keeps.leads
  have all := (begun.trans (hk _)).trans ended
  have held : s.works ((h s.beginHandling).state.endHandling s.handling) := all.works rfl
  exact held.trans (State.works_of_tables rfl rfl rfl rfl id id rfl)

theorem State.request_obeys (code seq : Nat) {h : State → Reply} (hk : ∀ s : State, s.leads (h s).state) :
    s.obeys (s.request code seq h) := by
  unfold State.request
  split
  · exact s.quiet_obeys
  · rename_i run
    split
    · exact s.dropFrame_obeys
    · exact (s.quiet_within.works.trans (s.quiet.serve_works code seq hk)).obeys (.inl run)
  · split
    · exact s.dropFrame_obeys
    · exact s.respond_obeys _ _ _ _

theorem State.takeFrame_obeys (l : List Byte) : s.obeys (s.takeFrame l) := by
  have handed : ∀ f, s.obeys (s.handOn f) := by
    intro f
    unfold State.handOn
    split
    · rename_i p hp
      obtain ⟨i, -, hi⟩ := Option.bind_eq_some_iff.mp hp
      exact s.request_obeys _ _ (requestParts_leads hi)
    · exact s.request_obeys _ _ fun s => s.keeps_refl.leads
  have tested : ∀ f, s.obeys (s.testFrame f) := by
    intro f
    unfold State.testFrame
    split
    · exact s.respond_obeys _ _ _ _
    · split
      · exact s.respond_obeys _ _ _ _
      · split
        · exact s.respond_obeys _ _ _ _
        · split
          · exact s.respond_obeys _ _ _ _
          · exact handed f
  unfold State.takeFrame
  split
  · exact s.quiet_obeys
  · split
    · exact s.quiet_obeys
    · split
      · exact s.dropFrame_obeys
      · exact tested _

/-! ### The links -/

theorem State.atWork_or (s : State) : s.atWork ∨ s.phase = .restore ∨ s.phase = .off := by
  unfold State.atWork; cases s.phase <;> simp

theorem State.takesMessages_iff (s : State) : s.takesMessages = true ↔ s.atWork := by
  simp [State.takesMessages, State.atWork]

/-- A Head Link frame that is handled with no change, outside FLUSH, changes the answer alone. -/
theorem State.headFrame_still {h : State → State × HeadAnswer} (hf : s.phase ≠ .flush)
    (hs : (h s.quiet.beginHandling).1 = s.quiet.beginHandling) : s.obeys (s.headFrame h) := by
  refine State.within.obeys (l := [.out, .head]) ?_
  unfold State.headFrame
  dsimp only
  split
  · exact s.quiet_within.mono (by decide)
  · rw [hs]
    have idle : ∀ t : State, t.phase = s.phase → t.advanceFlush = t := fun t e => State.advanceFlush_idle (e ▸ hf)
    have same : s.quiet.beginHandling.endHandling s.quiet.handling = s.quiet := rfl
    rw [same]
    split
    · rw [idle]
      · exact (s.quiet_within.next [.out, .head] (State.send_within _ _))
      · rfl
    · rw [idle]
      · intro f hf; cases f <;> first | (simp at hf; done) | rfl
      · rfl

theorem State.headFrame_obeys {h : State → State × HeadAnswer} (hk : ∀ s : State, s.keeps (h s).1)
    (hr : ∀ s : State, s.phase = .restore → (h s).1 = s) : s.obeys (s.headFrame h) := by
  rcases s.atWork_or with work | restore | off
  · exact (s.headFrame_works hk).obeys work
  · exact s.headFrame_still (by rw [restore]; decide) (hr _ restore)
  · have : s.headFrame h = s.quiet := by unfold State.headFrame; exact if_pos (.inl off)
    rw [this]; exact s.quiet_obeys

theorem State.mediaArrives_obeys (m : MediaMsg) : s.obeys (s.mediaArrives m) := by
  unfold State.mediaArrives
  dsimp only
  split
  · exact s.quiet_obeys
  · rename_i taken
    have work : s.atWork := (State.takesMessages_iff s.quiet).mp (by simpa using taken)
    split
    · exact (s.quiet_within.works.trans (State.takeMedia_works _ m)).obeys work
    · exact (s.quiet_within.works.trans (State.setMedia_works _ _)).obeys work

theorem State.readingArrives_obeys (m : ReadingMsg) : s.obeys (s.readingArrives m) := by
  unfold State.readingArrives
  dsimp only
  split
  · exact s.quiet_obeys
  · rename_i taken
    have work : s.atWork := (State.takesMessages_iff s.quiet).mp (by simpa using taken)
    split
    · exact (s.quiet_within.works.trans (State.takeSensor_works _ m)).obeys work
    · exact (s.quiet_within.works.trans (State.setCheck_works _ _)).obeys work

theorem State.cutTimeout_obeys :
    s.obeys (if s.takesMessages && s.media.cutter == .cutting then (s.quiet.beginHandling.jam .timeout).endHandling s.handling
      else s.quiet) := by
  split
  · rename_i h
    have work : s.atWork := (State.takesMessages_iff s).mp (Bool.and_eq_true_iff.mp h).1
    exact (s.quiet_within.works.trans (s.quiet.handled_works fun s => s.jam_keeps _)).obeys work
  · exact s.quiet_obeys

/-! ### The store and the supply -/

theorem State.groups_of_asleep {s : State} (h : s.phase = .restore ∨ s.phase = .off) (hs : s.sound) : s.store.groups = [] :=
  (((State.sound_iff s).mp hs).2 h).1

/-- In RESTORE and without power no group is open that could complete or fail. -/
theorem State.obeys_of_sound {s t : State} (h : s.sound → s.obeys t) (hh : t.handling = s.handling) : s.obeys t :=
  ⟨fun hs => (h hs).sound hs, fun hs => (h hs).printing hs, .inl hh⟩

theorem State.works_quiet {t : State} (h : s.quiet.works t) : s.works t := s.quiet_within.works.trans h

theorem State.commitGroupComplete_obeys (n : Nat) :
    s.obeys (match s.quiet.store.openGroup n with
      | some g => s.quiet.completeGroup g
      | none => s.quiet) := by
  split
  · rename_i g hg
    have worked : s.works (s.quiet.completeGroup g) :=
      s.works_quiet (State.completeGroup_works (Store.openGroup_mem hg))
    refine State.obeys_of_sound (fun hs => ?_) worked.handling
    rcases s.atWork_or with work | asleep
    · exact worked.obeys work
    · have : g ∈ s.store.groups := Store.openGroup_mem hg
      rw [State.groups_of_asleep asleep hs] at this
      cases this
  · exact s.quiet_obeys

theorem State.writeFails_obeys (w : FailedWrite) : s.obeys (s.quiet.writeFails w) := by
  unfold State.writeFails
  split
  · rename_i taken
    exact (s.works_quiet (s.quiet.failedWrite_works w)).obeys ((State.takesMessages_iff s).mp taken)
  · exact s.quiet_obeys

theorem State.pfail_works (b : Bool) : s.works { s.quiet with pfail := b } :=
  State.works_of_tables rfl rfl rfl rfl id id rfl

theorem State.pfail_obeys (b : Bool) : s.obeys { s.quiet with pfail := b } := by
  refine State.within.obeys (l := [.out, .pfail]) ?_
  intro f hf; cases f <;> first | rfl | simp at hf

theorem State.pfailAssert_obeys :
    s.obeys (if s.phase = .run then { s.quiet with pfail := true }.startFlush else { s.quiet with pfail := true }) := by
  split
  · rename_i run
    exact ((s.pfail_works true).trans (State.startFlush_works _)).obeys (.inl run)
  · exact s.pfail_obeys true

theorem State.pfailDeassert_obeys : s.obeys ({ s.quiet with pfail := false } : State).advanceFlush := by
  by_cases h : s.phase = .flush
  · exact ((s.pfail_works false).trans (State.advanceFlush_works _)).obeys (.inr h)
  · rw [State.advanceFlush_idle (s := { s.quiet with pfail := false }) h]
    exact s.pfail_obeys false

theorem State.quiet_sound {s : State} (h : s.sound) : s.quiet.sound := s.quiet_obeys.sound h

theorem State.restore_obeys (failed : List RecKey) (closeFails : Bool) : s.obeys (s.quiet.restore failed closeFails) :=
  ⟨fun hs => (State.restore_laws failed closeFails (State.quiet_sound hs)).1,
    fun hs => (State.restore_laws failed closeFails (State.quiet_sound hs)).2, s.quiet.restore_handling failed closeFails⟩

/-- What the part does on an empty queue. -/
theorem State.idle_obeys : s.obeys s.idle := by
  unfold State.idle
  split
  · exact s.quiet_obeys
  · split
    · obtain ⟨hand, phase, hg, hb⟩ := s.quiet.rebuild_rest [] false
      refine ⟨fun hs => ?_, fun hs _ => ?_, .inr hand⟩
      · exact (State.sound_iff _).mpr ⟨(State.rebuild_leaves (s := s.quiet) [] false hs.tables.store).1, fun _ => ⟨hg, hb⟩⟩
      · have none : (s.quiet.rebuild [] false).jobs.filter (fun j => j.state == .printing) = [] :=
          List.filter_eq_nil_iff.mpr fun j hj => by
            simpa using (State.rebuild_leaves (s := s.quiet) [] false hs.tables.store).2 j hj
        unfold State.onePrinting; rw [none]; exact Nat.zero_le 1
    · exact s.quiet_obeys
  · rename_i run
    exact (s.works_quiet s.quiet.storeWork_works).obeys (.inl run)
  · rename_i flush
    exact (s.works_quiet s.quiet.storeWork_works).obeys (.inr flush)

/-! ### Every command -/

/-- Every command obeys the laws: a request by its block, a frame or message by its link, an event by what it does. -/
theorem exec_obeys (i : Instr) (s : State) : ∃ t, exec i s = .next t ∧ s.obeys t := by
  match hp : requestParts i with
  | some p => exact ⟨_, exec_request hp s, s.request_obeys _ _ (requestParts_leads hp)⟩
  | none =>
    cases i <;> simp only [requestParts, reduceCtorEq] at hp
    case requestFrameRefused l => exact ⟨_, rfl, s.takeFrame_obeys l⟩
    case requestFrameDropped l => exact ⟨_, rfl, s.takeFrame_obeys l⟩
    case swath tag kind t d =>
      exact ⟨_, rfl, s.headFrame_obeys (fun s => s.takeSwath_keeps _ _ _ _) fun s h => State.takeSwath_restore h _ _ _ _⟩
    case purge t d =>
      exact ⟨_, rfl, s.headFrame_obeys (fun s => s.takePurge_keeps _ _) fun s h => State.takePurge_restore h _ _⟩
    case rowStatus c i f =>
      exact ⟨_, rfl, s.headFrame_obeys (fun s => s.takeRowStatus_keeps _ _ _) fun s h => State.takeRowStatus_restore h _ _ _⟩
    case rowMapQuery =>
      exact ⟨_, rfl, s.headFrame_obeys State.takeRowMapQuery_keeps fun s h => State.takeRowMapQuery_restore h⟩
    case headFrameCrcBad l =>
      exact ⟨_, rfl, s.headFrame_obeys (fun s => s.takeHeadBytes_keeps l) fun s h => State.takeHeadBytes_restore h l⟩
    case feed d => exact ⟨_, rfl, s.mediaArrives_obeys _⟩
    case cutDone => exact ⟨_, rfl, s.mediaArrives_obeys _⟩
    case cutFault c => exact ⟨_, rfl, s.mediaArrives_obeys _⟩
    case cutTimeout => exact ⟨_, rfl, s.cutTimeout_obeys⟩
    case rollPresent p v => exact ⟨_, rfl, s.mediaArrives_obeys _⟩
    case rollEnd p => exact ⟨_, rfl, s.mediaArrives_obeys _⟩
    case reading m => exact ⟨_, rfl, s.readingArrives_obeys m⟩
    case pfailAssert => exact ⟨_, rfl, s.pfailAssert_obeys⟩
    case pfailDeassert => exact ⟨_, rfl, s.pfailDeassert_obeys⟩
    case powerOn => exact ⟨_, rfl, s.discard_obeys _ _⟩
    case reset =>
      refine ⟨_, rfl, ?_⟩
      split
      · exact s.quiet_obeys
      · exact s.discard_obeys _ _
    case restoreEnd failed =>
      refine ⟨_, rfl, ?_⟩
      split
      · exact s.restore_obeys _ _
      · exact s.quiet_obeys
    case commitGroupComplete n => exact ⟨_, rfl, s.commitGroupComplete_obeys n⟩
    case storeWriteFailure w => exact ⟨_, rfl, s.writeFails_obeys w⟩
    case powerLoss => exact ⟨_, rfl, s.discard_obeys _ _⟩

/-- Taking the command off the queue touches nothing the laws speak of. -/
theorem step_obeys {s t : State} (h : step s = .next t) : s.obeys t := by
  unfold step at h
  split at h
  · rename_i c rest _
    obtain ⟨u, hu, k⟩ := exec_obeys c { s with pending := rest }
    obtain rfl : u = t := Host.Outcome.next.inj (hu.symm.trans h)
    exact ⟨k.sound, k.printing, k.handling⟩
  · obtain rfl : s.idle = t := Host.Outcome.next.inj h
    exact s.idle_obeys

/-- Settles O2: every command and the idle step obey the laws of the tables and of the open groups. -/
theorem everyStepKeepsTablesOrdered : Obligations.EveryStepKeepsTablesOrdered := by
  refine ⟨fun s t hs h => (step_obeys h).sound hs, fun s t hs h => ?_⟩
  rcases (step_obeys h).handling with e | e
  · exact e.trans hs
  · exact e

/-- Settles O3, from the same laws: BEGIN JOB alone makes a job PRINTING, where none is. -/
theorem everyStepKeepsOneJobPrinting : Obligations.EveryStepKeepsOneJobPrinting :=
  fun _ _ hs ho h => (step_obeys h).printing hs ho

end Sys2Proof.Machine
end

-- ==== Sys2Proof/Proofs/readings ====
section
/-!
O11: the readings of the tables, and what a request that changes nothing answers.
-/

namespace Sys2Proof.Machine

/-- No commit point is numbered above the last one made. -/
theorem State.sound.noneAbove {s : State} (h : s.sound) : s.store.openAbove s.store.called = [] := h.tables.store.1

/-- A ready request that its block answers without a change is answered at once (R211, R213, R214). -/
theorem exec_same {s : State} (hr : s.ready) (hs : s.sound) {i : Instr} {code seq : Nat} {f : State → Reply} {st : Status}
    {b : Body} (hi : requestParts i = some (code, seq, f))
    (hf : f s.quiet.beginHandling = ⟨s.quiet.beginHandling, st, b⟩) : exec i s = .next (s.answerOnly code seq st b) := by
  rw [exec_request hi, State.request_same hr hs.noneAbove code seq hf]

/-- A table in key order lists its keys in ascending order. -/
theorem ordered.keys {α : Type} {key : α → Nat} {l : List α} (h : ordered key l) : (l.map key).Pairwise (· < ·) :=
  List.pairwise_map.mpr h

theorem readJob_all (s : State) : readJob 0 s = ⟨s, .ok, .jobList (s.jobs.map fun j => (j.tag, j.spec.kind, j.state))⟩ := rfl

theorem readJob_one {s : State} {tag : Nat} {j : Job} (ht : tag ≠ 0) (h : s.job? tag = some j) :
    readJob tag s = ⟨s, .ok, .job j⟩ := by simp [readJob, ht, h]

theorem readJob_none {s : State} {tag : Nat} (ht : tag ≠ 0) (h : s.job? tag = none) :
    readJob tag s = ⟨s, .unknownTag, .empty⟩ := by simp [readJob, ht, h, State.refuse]

theorem readLot_all (s : State) :
    readLot 0 s = ⟨s, .ok, .lotList (s.lots.map fun l => (l.code, l.channel, l.state, l.location))⟩ := rfl

theorem readLot_one {s : State} {n : Nat} {l : Lot} (hn : n ≠ 0) (h : s.lot? n = some l) :
    readLot n s = ⟨s, .ok, .lot l⟩ := by simp [readLot, hn, h]

theorem readLot_none {s : State} {n : Nat} (hn : n ≠ 0) (h : s.lot? n = none) :
    readLot n s = ⟨s, .unknownLot, .empty⟩ := by simp [readLot, hn, h, State.refuse]

/-- The number of a channel names it. -/
@[simp] theorem chanOf_val (c : Chan) : chanOf c.val = some c := by simp [chanOf]

theorem chanOf_none {n : Nat} (h : 11 < n) : chanOf n = none := by simp [chanOf]; omega

theorem readChannel_one (s : State) (c : Chan) :
    readChannel c.val s =
      ⟨s, .ok, .channel { channel := s.chan c, remaining := s.slotVolume c .A + s.slotVolume c .B
                          usable := s.slotVolume c .A + s.slotVolume c .B - (s.chan c).cfg.reserve - (s.chan c).reserved
                          lotA := s.lotIn c .A, lotB := s.lotIn c .B }⟩ := by
  simp only [readChannel, chanOf_val]; rfl

theorem readChannel_none {s : State} {n : Nat} (h : 11 < n) : readChannel n s = ⟨s, .badParam, .empty⟩ := by
  simp [readChannel, chanOf_none h, State.refuse]

theorem readEdition_all (s : State) :
    readEdition 0 s = ⟨s, .ok, .editionList (s.editions.map fun e => (e.id, e.state, e.limit, e.issued))⟩ := rfl

theorem readEdition_one {s : State} {id : Nat} {e : Edition} (hi : id ≠ 0) (h : s.edition? id = some e) :
    readEdition id s =
      ⟨s, .ok, .editionView e (if e.state = .closed then 0 else e.limit - e.issued - s.liveJobs id) (s.liveJobs id)⟩ := by
  have key : e.id = id := State.edition_key h
  simp [readEdition, hi, h, State.freeSlots, key]

theorem readEdition_none {s : State} {id : Nat} (hi : id ≠ 0) (h : s.edition? id = none) :
    readEdition id s = ⟨s, .unknownEdition, .empty⟩ := by simp [readEdition, hi, h, State.refuse]

/-- Settles O11: each reading answers what its table holds and leaves the state as it is. -/
theorem tableReadingsReturnTheRecord : Obligations.TableReadingsReturnTheRecord := by
  refine ⟨fun s seq tag hr hs => ?_, fun s seq n hr hs => ?_, fun s seq id hr hs => ?_⟩
  · have answered : ∀ {tag st b}, readJob tag s.quiet.beginHandling = ⟨s.quiet.beginHandling, st, b⟩ →
        exec (.readJob seq tag) s = .next (s.answerOnly 0x14 seq st b) := exec_same hr hs rfl
    exact ⟨fun j ht hj => answered (readJob_one ht hj), fun ht hj => answered (readJob_none ht hj),
      answered (readJob_all _), hs.tables.jobs.keys⟩
  · have answered : ∀ {n st b}, readLot n s.quiet.beginHandling = ⟨s.quiet.beginHandling, st, b⟩ →
        exec (.readLot seq n) s = .next (s.answerOnly 0x26 seq st b) := exec_same hr hs rfl
    have channels : ∀ {n st b}, readChannel n s.quiet.beginHandling = ⟨s.quiet.beginHandling, st, b⟩ →
        exec (.readChannel seq n) s = .next (s.answerOnly 0x21 seq st b) := exec_same hr hs rfl
    exact ⟨fun l hn hl => answered (readLot_one hn hl), fun hn hl => answered (readLot_none hn hl),
      answered (readLot_all _), hs.tables.lots.keys, fun c => channels (readChannel_one _ c),
      fun hn => channels (readChannel_none hn)⟩
  · have answered : ∀ {id st b}, readEdition id s.quiet.beginHandling = ⟨s.quiet.beginHandling, st, b⟩ →
        exec (.readEdition seq id) s = .next (s.answerOnly 0x55 seq st b) := exec_same hr hs rfl
    exact ⟨fun e hi he => answered (readEdition_one hi he), fun hi he => answered (readEdition_none hi he),
      answered (readEdition_all _), hs.tables.editions.keys⟩

end Sys2Proof.Machine
end

-- ==== Sys2Proof/Proofs/tables ====
section
/-!
O12 and O13: the admission test, and the refusals of SUBMIT JOB in table order.
-/

namespace Sys2Proof.Machine

/-! ### Tables of conditions -/

/-- A decision procedure answers as a table of conditions says: the first condition that holds gives the answer, and none is
given where none holds. -/
def answersTable {α : Type} (o : Option α) (l : List (Prop × α)) : Prop :=
  (∀ x, firstOf l x ↔ o = some x) ∧ (noneOf l ↔ o = none)

theorem answersTable_nil {α : Type} : answersTable (none : Option α) [] := ⟨by simp [firstOf], by simp [noneOf]⟩

/-- A table is read from its first line. -/
theorem answersTable_cons {α : Type} {o : Option α} {c : Prop} {a : α} {l : List (Prop × α)} (hc : c → o = some a)
    (hl : ¬ c → answersTable o l) : answersTable o ((c, a) :: l) := by
  unfold answersTable noneOf at *
  by_cases h : c
  · have e := hc h
    exact ⟨fun x => by simp [firstOf, h, e, eq_comm], by simp [h, e]⟩
  · obtain ⟨h1, h2⟩ := hl h
    exact ⟨fun x => by simp [firstOf, h, h1], by simpa [h] using h2⟩

/-! ### Searching the channels -/

/-- The first element of an ascending list that meets a condition is the lowest one that does. -/
theorem find_ascending {n : Nat} {p : Fin n → Bool} {l : List (Fin n)} (hl : l.Pairwise (· < ·)) (c : Fin n) :
    l.find? p = some c ↔ c ∈ l ∧ p c = true ∧ ∀ d ∈ l, d < c → p d = false := by
  induction l with
  | nil => simp
  | cons x l ih =>
    obtain ⟨hx, hl⟩ := List.pairwise_cons.mp hl
    cases hp : p x
    · rw [List.find?_cons_of_neg (by simp [hp]), ih hl]
      constructor
      · rintro ⟨hc, pc, h⟩
        exact ⟨List.mem_cons_of_mem _ hc, pc, fun d hd lt => (List.mem_cons.mp hd).elim (fun e => e ▸ hp) fun hd => h d hd lt⟩
      · rintro ⟨hc, pc, h⟩
        refine ⟨(List.mem_cons.mp hc).resolve_left fun e => ?_, pc, fun d hd => h d (List.mem_cons_of_mem _ hd)⟩
        rw [e, hp] at pc; cases pc
    · rw [List.find?_cons_of_pos hp]
      constructor
      · rintro e
        obtain rfl := Option.some.inj e
        refine ⟨List.mem_cons_self, hp, fun d hd lt => ?_⟩
        rcases List.mem_cons.mp hd with rfl | hd
        · exact absurd lt (lt_irrefl _)
        · exact absurd lt (not_lt.mpr (hx d hd).le)
      · rintro ⟨hc, pc, h⟩
        rcases List.mem_cons.mp hc with rfl | hc
        · rfl
        · exact absurd hp (by simp [h x List.mem_cons_self (hx c hc)])

/-- The first channel that meets a condition is the lowest-numbered one. -/
theorem chan_find {p : Chan → Bool} {c : Chan} :
    Chan.list.find? p = some c ↔ p c = true ∧ ∀ d, d < c → p d = false := by
  rw [Chan.list, find_ascending (List.pairwise_lt_finRange 12)]
  simp

theorem chan_find_none {p : Chan → Bool} : Chan.list.find? p = none ↔ ∀ c, p c = false := by
  rw [List.find?_eq_none]; simp [Chan.list]

theorem chan_any {p : Chan → Bool} : Chan.list.any p = true ↔ ∃ c, p c = true := by
  simp [Chan.list]

/-! ### The admission test (R6, R64, R65) -/

/-- A reservation is the estimate times gain and margin over 102,400, rounded up, and the strip allowance (R64, R65). -/
theorem State.inkNeed_eq (s : State) (sp : JobSpec) (c : Chan) : s.inkNeed sp c = s.needOf sp c := rfl

@[simp] theorem State.inkNeeds_get (s : State) (sp : JobSpec) (c : Chan) : (s.inkNeeds sp).get c = s.needOf sp c := by
  simp [State.inkNeeds, State.inkNeed_eq]

theorem rollNeed_eq (s : State) (sp : JobSpec) : rollNeed s.media.geometry sp = s.mediaOf sp := by
  unfold rollNeed State.mediaOf; split <;> simp_all

/-- A length fits where the roll covers it (R6). -/
theorem State.rollFits_iff (s : State) (r : Roll) (len : Nat) : s.rollFits r len = true ↔ s.mediaCovers r len := by
  unfold State.rollFits; rw [decide_eq_true_eq]; rfl

/-- The ink part of the admission test fails on a channel (R6). -/
def State.inkFails (s : State) (sp : JobSpec) (c : Chan) : Prop := s.needOf sp c ≠ 0 ∧ s.usableFree c < s.needOf sp c

theorem State.shortOn_eq (s : State) (sp : JobSpec) (c : Chan) :
    ((s.inkNeeds sp).get c != 0 && decide (s.usableFree c < (s.inkNeeds sp).get c)) = true ↔ s.inkFails sp c := by
  simp [State.inkFails]

/-- The admission test by its cases, its definition unfolded before it is applied, as in `State.tryAdmit_pass`: the ink part first, on the lowest-numbered channel that fails. -/
theorem State.admission_inkShort {s : State} {sp : JobSpec} (r : Roll) {c : Chan} (hc : s.inkFails sp c)
    (hd : ∀ d, d < c → ¬ s.inkFails sp d) : s.admission sp r = .inkShort c (s.needOf sp c - s.usableFree c) := by
  have found : Chan.list.find? (fun c => (s.inkNeeds sp).get c != 0 && decide (s.usableFree c < (s.inkNeeds sp).get c)) =
      some c :=
    chan_find.mpr ⟨(s.shortOn_eq sp c).mpr hc, fun d lt => Bool.eq_false_iff.mpr fun e => hd d lt ((s.shortOn_eq sp d).mp e)⟩
  have e : @State.admission = @State.admission := rfl
  conv at e => rhs; delta State.admission
  rw [congrFun (congrFun (congrFun e s) sp) r]
  dsimp only
  rw [found]
  simp only [State.inkNeeds_get]

theorem State.admission_fits {s : State} {sp : JobSpec} (r : Roll) (h : ∀ c, ¬ s.inkFails sp c) :
    s.admission sp r =
      if s.rollFits r (s.mediaOf sp) then .pass (s.inkNeeds sp) (s.mediaOf sp)
      else .mediaShort (s.mediaOf sp + runOut s.media.geometry + r.reserved - r.remaining) := by
  have found : Chan.list.find? (fun c => (s.inkNeeds sp).get c != 0 && decide (s.usableFree c < (s.inkNeeds sp).get c)) =
      none := chan_find_none.mpr fun c => Bool.eq_false_iff.mpr fun e => h c ((s.shortOn_eq sp c).mp e)
  have e : @State.admission = @State.admission := rfl
  conv at e => rhs; delta State.admission
  rw [congrFun (congrFun (congrFun e s) sp) r]
  dsimp only
  rw [found, rollNeed_eq]

/-- Where some channel fails, one is the lowest-numbered. -/
theorem exists_lowest {p : Chan → Prop} (h : ∃ c, p c) : ∃ c, p c ∧ ∀ d, d < c → ¬ p d := by
  obtain ⟨c, hc, hmin⟩ := WellFounded.has_min (wellFounded_lt (α := Chan)) {c | p c} h
  exact ⟨c, hc, fun d lt hd => hmin d hd lt⟩

/-- Settles O12, by the three answers of the test. -/
theorem admissionTestPassesWhenBothPartsFit : Obligations.AdmissionTestPassesWhenBothPartsFit := by
  intro s sp r need free len claimed inkFits mediaFits
  have fits : inkFits ↔ ∀ c, ¬ s.inkFails sp c := by
    refine forall_congr' fun c => ?_
    unfold State.inkFails
    show (need c ≠ 0 → need c ≤ free c) ↔ ¬ (need c ≠ 0 ∧ free c < need c)
    omega
  have covers : mediaFits ↔ s.rollFits r (s.mediaOf sp) = true := (s.rollFits_iff r _).symm
  by_cases hi : inkFits
  · have e := State.admission_fits r (fits.mp hi)
    by_cases hm : mediaFits
    · rw [if_pos (covers.mp hm)] at e
      rw [e]
      refine ⟨⟨fun _ => rfl, fun _ => ⟨hi, hm⟩⟩, fun c n => ⟨fun k => (nomatch k), fun k => ?_⟩, fun n =>
        ⟨fun k => (nomatch k), fun k => absurd hm k.2.1⟩⟩
      exact absurd (hi c k.1) (not_le.mpr k.2.1)
    · rw [if_neg (mt covers.mpr hm)] at e
      rw [e]
      refine ⟨⟨fun k => absurd k.2 hm, fun k => (nomatch k)⟩, fun c n => ⟨fun k => (nomatch k), fun k => ?_⟩, fun n =>
        ⟨fun k => ⟨hi, hm, (Admission.mediaShort.inj k).symm⟩, fun k => by rw [k.2.2]; rfl⟩⟩
      exact absurd (hi c k.1) (not_le.mpr k.2.1)
  · obtain ⟨c, hc, low⟩ := exists_lowest (p := s.inkFails sp) (by simpa using mt fits.mpr hi)
    rw [State.admission_inkShort r hc low]
    refine ⟨⟨fun k => absurd k.1 hi, fun k => (nomatch k)⟩, fun d n => ⟨fun k => ?_, fun k => ?_⟩, fun n =>
      ⟨fun k => (nomatch k), fun k => absurd k.1 hi⟩⟩
    · obtain ⟨rfl, rfl⟩ := Admission.inkShort.inj k
      exact ⟨hc.1, hc.2, rfl, fun e lt => by
        have : ¬ (need e ≠ 0 ∧ free e < need e) := low e lt
        omega⟩
    · obtain ⟨k1, k2, k3, k4⟩ := k
      have here : s.inkFails sp d := ⟨k1, k2⟩
      have same : c = d := by
        rcases lt_trichotomy c d with lt | e | lt
        · have := k4 c lt
          have short : need c ≠ 0 ∧ free c < need c := hc
          omega
        · exact e
        · exact absurd here (low d lt)
      subst same
      rw [k3]; rfl

end Sys2Proof.Machine
end

-- ==== Sys2Proof/Proofs/submit ====
section
/-!
O13: the refusals of SUBMIT JOB.
-/

namespace Sys2Proof.Machine

/-! ### The table of R5 -/

/-- The second condition of R5. -/
theorem submitBad_iff (r : SubmitReq) :
    submitBad r (jobKindOf r.kind) = true ↔
      (2 < r.kind ∨ (r.kind = 0 ∧ ¬ r.editionSupplied = true) ∨ (r.kind = 1 ∧ r.editionSupplied = true) ∨
        (r.kind = 2 ∧ (r.lead ≠ 0 ∨ r.image ≠ 0 ∨ r.tail ≠ 0 ∨ r.swaths ≠ 0)) ∨
        (r.kind ≠ 2 ∧ (r.image = 0 ∨ r.lead + r.image + r.tail < 10000 ∨ 4294967295 < r.lead + r.image + r.tail ∨
          r.swaths < 1 ∨ 4095 < r.swaths)) ∨
        ∃ c, 1000000000 < r.estimates.get c) := by
  have ink : (Chan.list.any fun c => decide (1000000000 < r.estimates.get c)) = true ↔
      ∃ c, 1000000000 < r.estimates.get c := by rw [chan_any]; simp
  match hk : r.kind with
  | 0 => simp only [jobKindOf, submitBad, Bool.or_eq_true, Bool.and_eq_true, ink, decide_eq_true_eq]; simp [Config.max32, or_assoc]
  | 1 => simp only [jobKindOf, submitBad, Bool.or_eq_true, Bool.and_eq_true, ink, decide_eq_true_eq]; simp [Config.max32, or_assoc]
  | 2 => simp only [jobKindOf, submitBad, Bool.or_eq_true, ink]; simp [or_assoc]
  | n + 3 => simp [jobKindOf, submitBad]

/-- The number of live jobs naming an edition, written out (R158). -/
theorem State.liveJobs_pos (s : State) (id : Nat) :
    s.liveJobs id ≠ 0 ↔ ∃ j ∈ s.jobs, j.live = true ∧ j.spec.edition = some id := by
  unfold State.liveJobs
  rw [Ne, List.length_eq_zero_iff, ← Ne, List.ne_nil_iff_exists_cons]
  constructor
  · rintro ⟨j, l, e⟩
    have hj : j ∈ s.jobs.filter fun j => j.live && j.names id := e ▸ List.mem_cons_self
    obtain ⟨hm, hp⟩ := List.mem_filter.mp hj
    simp only [Bool.and_eq_true, Job.names, beq_iff_eq] at hp
    exact ⟨j, hm, hp⟩
  · rintro ⟨j, hm, h1, h2⟩
    refine List.ne_nil_iff_exists_cons.mp (List.ne_nil_of_mem (List.mem_filter.mpr ⟨hm, ?_⟩))
    simp [h1, Job.names, h2]

/-- No slot of an edition is free where the live jobs take what is left of its limit (log 29). -/
theorem State.freeSlots_zero {s : State} {e : Edition} {id : Nat} (hc : e.state ≠ .closed) (he : e.id = id) :
    s.freeSlots e = 0 ↔ e.limit ≤ e.issued + s.liveJobs id := by
  unfold State.freeSlots; rw [if_neg hc, he]; omega

/-- The roll and edition conditions of R5, as a table. -/
theorem State.claimRefused_table (s : State) (sp : JobSpec) :
    answersTable (s.claimRefused sp)
      [ (s.roll? sp.roll = none, .unknownRoll),
        (∃ x, s.roll? sp.roll = some x ∧ (x.state = .shelved ∨ x.state = .ended), .notLoaded),
        (∃ id, sp.edition = some id ∧ s.edition? id = none, .unknownEdition),
        (∃ id, sp.edition = some id ∧ ∃ e, s.edition? id = some e ∧ e.state = .closed, .editionClosed),
        (∃ id, sp.edition = some id ∧ ∃ e, s.edition? id = some e ∧ e.state = .proving ∧ s.liveJobs id ≠ 0, .provingBusy),
        (∃ id, sp.edition = some id ∧ ∃ e, s.edition? id = some e ∧ e.limit ≤ e.issued + s.liveJobs id,
          .editionFull) ] := by
  unfold State.claimRefused
  refine answersTable_cons (fun h => by rw [h]) fun hr => ?_
  obtain ⟨x, hx⟩ := Option.ne_none_iff_exists'.mp hr
  rw [hx]
  dsimp only
  refine answersTable_cons (fun h => ?_) fun hl => ?_
  · obtain ⟨y, hy, h⟩ := h
    obtain rfl := Option.some.inj hy
    rw [if_pos h]
  · rw [if_neg fun h => hl ⟨x, rfl, h⟩]
    cases hs : sp.edition with
    | none => simp [answersTable, firstOf, noneOf]
    | some id =>
      refine answersTable_cons (fun ⟨i, hi, h⟩ => ?_) fun hu => ?_
      · obtain rfl := Option.some.inj hi; dsimp only; rw [h]
      · obtain ⟨e, he⟩ := Option.ne_none_iff_exists'.mp fun h => hu ⟨id, rfl, h⟩
        dsimp only
        rw [he]
        dsimp only
        refine answersTable_cons (fun ⟨i, hi, y, hy, h⟩ => ?_) fun hc => ?_
        · obtain rfl := Option.some.inj hi
          obtain rfl := Option.some.inj (he.symm.trans hy)
          rw [if_pos h]
        · have hc : e.state ≠ .closed := fun h => hc ⟨id, rfl, e, he, h⟩
          rw [if_neg hc]
          refine answersTable_cons (fun ⟨i, hi, y, hy, h⟩ => ?_) fun hp => ?_
          · obtain rfl := Option.some.inj hi
            obtain rfl := Option.some.inj (he.symm.trans hy)
            rw [if_pos h]
          · rw [if_neg fun h => hp ⟨id, rfl, e, he, h⟩]
            have full := State.freeSlots_zero (s := s) hc (State.edition_key he)
            refine answersTable_cons (fun ⟨i, hi, y, hy, h⟩ => ?_) fun hf => ?_
            · obtain rfl := Option.some.inj hi
              obtain rfl := Option.some.inj (he.symm.trans hy)
              rw [if_pos (full.mpr h)]
            · rw [if_neg fun h => hf ⟨id, rfl, e, he, full.mp h⟩]
              exact answersTable_nil

/-- A table stays the same answer when its conditions are written otherwise. -/
theorem answersTable_congr {α : Type} {o : Option α} {l m : List (Prop × α)}
    (h : List.Forall₂ (fun p q => (p.1 ↔ q.1) ∧ p.2 = q.2) l m) (ha : answersTable o l) : answersTable o m := by
  have same : l = m := by
    clear ha
    induction h with
    | nil => rfl
    | cons e _ ih => rw [ih, Prod.ext (propext e.1) e.2]
  exact same ▸ ha

/-- The edition a SUBMIT JOB names. -/
theorem submitSpec_edition (r : SubmitReq) (k : JobKind) (p : Nat → Prop) :
    (∃ id, (submitSpec r k).edition = some id ∧ p id) ↔ r.editionSupplied = true ∧ p r.edition := by
  unfold submitSpec
  by_cases h : r.editionSupplied = true <;> simp [h]

/-- The refusals of SUBMIT JOB are those of R5, in table order. -/
theorem State.submitRefused_table (s : State) (r : SubmitReq) :
    answersTable (s.submitRefused r)
      [ (r.tag = 0 ∨ r.roll = 0 ∨ (r.editionSupplied = true ∧ r.edition = 0), .badKey),
        (2 < r.kind ∨ (r.kind = 0 ∧ ¬ r.editionSupplied = true) ∨ (r.kind = 1 ∧ r.editionSupplied = true) ∨
          (r.kind = 2 ∧ (r.lead ≠ 0 ∨ r.image ≠ 0 ∨ r.tail ≠ 0 ∨ r.swaths ≠ 0)) ∨
          (r.kind ≠ 2 ∧ (r.image = 0 ∨ r.lead + r.image + r.tail < 10000 ∨ 4294967295 < r.lead + r.image + r.tail ∨
            r.swaths < 1 ∨ 4095 < r.swaths)) ∨
          ∃ c, 1000000000 < r.estimates.get c, .badParam),
        ((s.job? r.tag).isSome = true, .tagExists),
        (32 ≤ s.jobs.length, .tableFull),
        (s.roll? r.roll = none, .unknownRoll),
        (∃ x, s.roll? r.roll = some x ∧ (x.state = .shelved ∨ x.state = .ended), .notLoaded),
        (r.editionSupplied = true ∧ s.edition? r.edition = none, .unknownEdition),
        (r.editionSupplied = true ∧ ∃ e, s.edition? r.edition = some e ∧ e.state = .closed, .editionClosed),
        (r.editionSupplied = true ∧ ∃ e, s.edition? r.edition = some e ∧ e.state = .proving ∧
          ∃ j ∈ s.jobs, j.live = true ∧ j.spec.edition = some r.edition, .provingBusy),
        (r.editionSupplied = true ∧ ∃ e, s.edition? r.edition = some e ∧
          e.limit ≤ e.issued + (s.jobs.filter fun j => j.live && j.spec.edition == some r.edition).length,
          .editionFull) ] := by
  unfold State.submitRefused
  refine answersTable_cons (fun h => if_pos h) fun hk => ?_
  rw [if_neg hk]
  refine answersTable_cons (fun h => if_pos ((submitBad_iff r).mpr h)) fun hb => ?_
  have hb := mt (submitBad_iff r).mp hb
  rw [if_neg hb]
  refine answersTable_cons (fun h => if_pos h) fun ht => ?_
  rw [if_neg ht]
  refine answersTable_cons (fun h => if_pos h) fun hf => ?_
  rw [if_neg (show ¬ Config.jobCapacity ≤ s.jobs.length from hf)]
  obtain ⟨k, e⟩ : ∃ k, jobKindOf r.kind = some k := Option.ne_none_iff_exists'.mp fun h => hb (by rw [h]; rfl)
  rw [e]
  refine answersTable_congr ?_ (s.claimRefused_table (submitSpec r k))
  have named := submitSpec_edition r k
  refine .cons ⟨Iff.rfl, rfl⟩ (.cons ⟨Iff.rfl, rfl⟩ (.cons ⟨named _, rfl⟩ (.cons ⟨named _, rfl⟩
    (.cons ⟨(named _).trans ?_, rfl⟩ (.cons ⟨named _, rfl⟩ .nil)))))
  simp only [State.liveJobs_pos]

theorem submitJob_refused {s : State} {r : SubmitReq} {st : Status} (h : s.submitRefused r = some st) :
    submitJob r s = ⟨s, st, .empty⟩ := by unfold submitJob; rw [h]; rfl

/-- Settles O13: the refusal is the first condition of R5 that holds, and a refused SUBMIT JOB is answered alone. -/
theorem submitJobRefusesInTableOrder : Obligations.SubmitJobRefusesInTableOrder := by
  intro s seq r hr hs supplied table
  obtain ⟨first, none⟩ := s.submitRefused_table r
  exact ⟨fun st h => exec_same hr hs rfl (submitJob_refused (s := s.quiet.beginHandling) ((first st).mp h)), none⟩

end Sys2Proof.Machine
end

-- ==== Sys2Proof/Proofs/begin ====
section
/-!
O16: the refusals of BEGIN JOB.
-/

namespace Sys2Proof.Machine

/-! ### The table of R12 -/

theorem State.printing_isSome (s : State) : s.printing?.isSome = true ↔ ∃ k ∈ s.jobs, k.state = .printing := by
  unfold State.printing?; rw [List.find?_isSome]; simp

theorem State.rollActive_iff (s : State) (id : Nat) :
    s.rollActive id = true ↔ ∃ r, s.activeRoll = some r ∧ r.id = id := by
  unfold State.rollActive; cases s.activeRoll <;> simp

/-- A segment of an edition's mask blocks it, or none does (R92). -/
theorem State.blockedSegment_none (s : State) (e : Edition) :
    s.blockedSegment e = none ↔
      ¬ ∃ c i, e.covers c = true ∧ ((s.chan c).segments.get i).blocks = true := by
  unfold State.blockedSegment
  rw [List.findSome?_eq_none_iff]
  simp [Chan.list]

theorem State.expiredOver_iff (s : State) (e : Edition) :
    (Chan.list.any fun c => e.covers c && (s.chan c).expired) = true ↔
      ∃ c, e.covers c = true ∧ (s.chan c).expired = true := by rw [chan_any]; simp

/-- A recomputed reservation rises by more than the usable free volume (R12, R67). -/
def State.grows (s : State) (j : Job) (c : Chan) : Prop := j.ink.get c + s.usableFree c < s.needOf j.spec c

theorem State.beginShort_find (s : State) (j : Job) (c : Chan) :
    decide (s.usableFree c < (s.inkNeeds j.spec).get c - j.ink.get c) = true ↔ s.grows j c := by
  rw [decide_eq_true_eq, State.inkNeeds_get]; unfold State.grows; omega

theorem State.beginShort_none (s : State) (j : Job) : s.beginShort j = none ↔ ¬ ∃ c, s.grows j c := by
  unfold State.beginShort
  rw [Option.map_eq_none_iff, chan_find_none, not_exists]
  exact forall_congr' fun c => by rw [Bool.eq_false_iff, ne_eq, s.beginShort_find j c]

theorem State.beginShort_some {s : State} {j : Job} {x : Chan × Nat} (h : s.beginShort j = some x) :
    s.grows j x.1 ∧ (∀ d, d < x.1 → ¬ s.grows j d) ∧ x.2 = s.needOf j.spec x.1 - j.ink.get x.1 - s.usableFree x.1 := by
  unfold State.beginShort at h
  obtain ⟨c, hc, rfl⟩ := Option.map_eq_some_iff.mp h
  obtain ⟨hp, low⟩ := chan_find.mp hc
  refine ⟨(s.beginShort_find j c).mp hp, fun d lt hd => ?_, by simp⟩
  exact Bool.eq_false_iff.mp (low d lt) ((s.beginShort_find j d).mpr hd)

/-- The edition conditions of R12, as a table. -/
theorem State.editionHolds_table (s : State) (e : Edition) :
    answersTable ((s.editionHolds e).map Prod.fst)
      [ (e.state = .locked, .locked),
        (∃ c i, e.covers c = true ∧ ((s.chan c).segments.get i).blocks = true, .rowFault),
        (∃ c, e.covers c = true ∧ (s.chan c).expired = true, .expired) ] := by
  unfold State.editionHolds
  refine answersTable_cons (fun h => by rw [if_pos h]; rfl) fun hl => ?_
  rw [if_neg hl]
  have faults := s.blockedSegment_none e
  match hb : s.blockedSegment e with
  | some x =>
    refine answersTable_cons (fun _ => rfl) fun h => ?_
    exact absurd (faults.mpr h) (by simp [hb])
  | none =>
    refine answersTable_cons (fun h => absurd h (faults.mp hb)) fun _ => ?_
    have exp := s.expiredOver_iff e
    refine answersTable_cons (fun h => by dsimp only; rw [if_pos (exp.mpr h)]; rfl) fun h => ?_
    dsimp only
    rw [if_neg (mt exp.mp h)]
    exact answersTable_nil

/-- A table behind another: its conditions hold where none of the first table's does. -/
theorem answersTable_orElse {α : Type} {o p : Option α} {l m : List (Prop × α)} (ho : answersTable o l)
    (hp : answersTable p m) : answersTable (o.or p) (l ++ m) := by
  induction l generalizing o with
  | nil => rw [ho.2.mp (by simp [noneOf])]; simpa using hp
  | cons x l ih =>
    obtain ⟨c, a⟩ := x
    refine answersTable_cons (fun h => ?_) fun h => ih ⟨fun y => ?_, ?_⟩
    · rw [(ho.1 a).mp (.inl ⟨h, rfl⟩)]; rfl
    · rw [← ho.1 y]; simp [firstOf, h]
    · rw [← ho.2]; simp [noneOf, h]

/-- The edition a job names, for an EDITION job. -/
theorem State.heldOf_table (s : State) (j : Job) :
    let ed (p : Edition → Prop) : Prop :=
      j.spec.kind = .edition ∧ ∃ id e, j.spec.edition = some id ∧ s.edition? id = some e ∧ p e
    answersTable
      ((match j.spec.kind with
        | .edition => (j.spec.edition.bind s.edition?).bind s.editionHolds
        | _ => none).map Prod.fst)
      [ (ed fun e => e.state = .locked, .locked),
        (ed fun e => ∃ c i, e.covers c = true ∧ ((s.chan c).segments.get i).blocks = true, .rowFault),
        (ed fun e => ∃ c, e.covers c = true ∧ (s.chan c).expired = true, .expired) ] := by
  intro ed
  have unnamed : (¬ ∃ e, j.spec.kind = .edition ∧ j.spec.edition.bind s.edition? = some e) → ∀ p, ¬ ed p := by
    rintro h p ⟨hk, id, e, hi, he, -⟩
    exact h ⟨e, hk, by rw [hi]; exact he⟩
  by_cases h : ∃ e, j.spec.kind = .edition ∧ j.spec.edition.bind s.edition? = some e
  · obtain ⟨e, hk, he⟩ := h
    have named : ∀ p : Edition → Prop, ed p ↔ p e := by
      intro p
      obtain ⟨id, hi, hid⟩ := Option.bind_eq_some_iff.mp he
      constructor
      · rintro ⟨-, i, x, hx, hx', hp⟩
        obtain rfl := Option.some.inj (hi.symm.trans hx)
        obtain rfl := Option.some.inj (hid.symm.trans hx')
        exact hp
      · exact fun hp => ⟨hk, id, e, hi, hid, hp⟩
    rw [hk, he]
    have table := s.editionHolds_table e
    refine answersTable_congr ?_ table
    exact .cons ⟨(named fun e => e.state = .locked).symm, rfl⟩
      (.cons ⟨(named fun e => ∃ c i, e.covers c = true ∧ ((s.chan c).segments.get i).blocks = true).symm, rfl⟩
        (.cons ⟨(named fun e => ∃ c, e.covers c = true ∧ (s.chan c).expired = true).symm, rfl⟩ .nil))
  · have none : (match j.spec.kind with
        | .edition => (j.spec.edition.bind s.edition?).bind s.editionHolds
        | _ => none) = none := by
      split
      · rename_i hk
        have : j.spec.edition.bind s.edition? = none := Option.eq_none_iff_forall_ne_some.mpr fun e he => h ⟨e, hk, he⟩
        rw [this]; rfl
      · rfl
    rw [none]
    exact answersTable_cons (fun k => absurd k (unnamed h _)) fun _ => answersTable_cons (fun k => absurd k (unnamed h _))
      fun _ => answersTable_cons (fun k => absurd k (unnamed h _)) fun _ => answersTable_nil

/-- The status of the edition conditions, or else of the ink condition, whatever these are. -/
theorem map_orElse_status (held : Option (Status × Body)) (short : Option (Chan × Nat)) :
    (held.map Prod.fst).or (short.map fun _ => Status.inkShort) =
      (match held with
        | some x => some x
        | none => short.map fun p : Chan × Nat => (Status.inkShort, Body.inkShort p.1 p.2)).map Prod.fst := by
  cases held
  · simp [Function.comp_def]
  · rfl

/-- The refusals of BEGIN JOB are those of R12, in table order. -/
theorem State.beginRefused_table (s : State) (j : Job) :
    let ed (p : Edition → Prop) : Prop :=
      j.spec.kind = .edition ∧ ∃ id e, j.spec.edition = some id ∧ s.edition? id = some e ∧ p e
    answersTable ((s.beginRefused j).map Prod.fst)
      [ ((∃ k ∈ s.jobs, k.state = .printing), .busy),
        (¬ (∃ r, s.activeRoll = some r ∧ r.id = j.spec.roll) ∨ s.media.cutter = .jammed, .mediaNotReady),
        (12 < s.media.queue.length + 2, .cutBacklog),
        (ed fun e => e.state = .locked, .locked),
        (ed fun e => ∃ c i, e.covers c = true ∧ ((s.chan c).segments.get i).blocks = true, .rowFault),
        (ed fun e => ∃ c, e.covers c = true ∧ (s.chan c).expired = true, .expired),
        ((∃ c, s.grows j c), .inkShort) ] := by
  intro ed
  unfold State.beginRefused
  have busy := s.printing_isSome
  refine answersTable_cons (fun h => by rw [if_pos (busy.mpr h)]; rfl) fun hb => ?_
  rw [if_neg (mt busy.mp hb)]
  have media : (!s.rollActive j.spec.roll || s.media.cutter == .jammed) = true ↔
      (¬ (∃ r, s.activeRoll = some r ∧ r.id = j.spec.roll) ∨ s.media.cutter = .jammed) := by
    rw [← s.rollActive_iff]; simp
  refine answersTable_cons (fun h => by rw [if_pos (media.mpr h)]; rfl) fun hm => ?_
  rw [if_neg (mt media.mp hm)]
  refine answersTable_cons (fun h => by rw [if_pos (show Config.cutCapacity < _ from h)]; rfl) fun hc => ?_
  rw [if_neg (show ¬ Config.cutCapacity < _ from hc)]
  have short : answersTable ((s.beginShort j).map fun _ => Status.inkShort) [((∃ c, s.grows j c), Status.inkShort)] := by
    have fits := s.beginShort_none j
    match h : s.beginShort j with
    | some x => exact answersTable_cons (fun _ => rfl) fun k => absurd (fits.mpr k) (by simp [h])
    | none => exact answersTable_cons (fun k => absurd k (fits.mp h)) fun _ => answersTable_nil
  have all := answersTable_orElse (s.heldOf_table j) short
  rw [map_orElse_status] at all
  exact all

/-- The body of INK_SHORT names the lowest-numbered channel that falls short, and by how much (R12). -/
theorem State.beginRefused_inkShort {s : State} {j : Job} {b : Body} (h : s.beginRefused j = some (.inkShort, b)) :
    ∃ c, s.grows j c ∧ (∀ d, d < c → ¬ s.grows j d) ∧
      b = .inkShort c (s.needOf j.spec c - j.ink.get c - s.usableFree c) := by
  unfold State.beginRefused at h
  split at h
  · cases h
  · split at h
    · cases h
    · split at h
      · cases h
      · dsimp only at h
        split at h
        · rename_i x hx
          cases h
          split at hx
          · obtain ⟨e, -, he⟩ := Option.bind_eq_some_iff.mp hx
            unfold State.editionHolds at he
            split at he
            · cases he
            · split at he
              · cases he
              · split at he <;> cases he
          · cases hx
        · obtain ⟨x, hx, e⟩ := Option.map_eq_some_iff.mp h
          obtain ⟨hg, low, hn⟩ := State.beginShort_some hx
          exact ⟨x.1, hg, low, by rw [← hn]; exact (Prod.mk.inj e).2.symm⟩

theorem beginJob_unknown {s : State} {tag : Nat} (h : s.job? tag = none) : beginJob tag s = ⟨s, .unknownTag, .empty⟩ := by
  unfold beginJob; rw [h]; rfl

theorem beginJob_wrongState {s : State} {tag : Nat} {j : Job} (h : s.job? tag = some j) (hs : j.state ≠ .admitted) :
    beginJob tag s = ⟨s, .wrongState, .empty⟩ := by
  unfold beginJob; rw [h]; dsimp only; rw [if_pos hs]; rfl

theorem beginJob_refused {s : State} {tag : Nat} {j : Job} {st : Status} {b : Body} (h : s.job? tag = some j)
    (hs : j.state = .admitted) (hb : s.beginRefused j = some (st, b)) : beginJob tag s = ⟨s, st, b⟩ := by
  unfold beginJob; rw [h]; dsimp only; rw [if_neg (not_not.mpr hs), hb]

/-- Settles O16: the status is that of the first condition of R12 that holds, and the job stays as it was. -/
theorem beginJobRefusesInTableOrder : Obligations.BeginJobRefusesInTableOrder := by
  intro s seq tag hr hs
  have answered : ∀ {st b}, beginJob tag s.quiet.beginHandling = ⟨s.quiet.beginHandling, st, b⟩ →
      exec (.beginJob seq tag) s = .next (s.answerOnly 0x12 seq st b) := exec_same hr hs rfl
  refine ⟨fun h => answered (beginJob_unknown h), fun j hj => ⟨fun h => answered (beginJob_wrongState hj h), fun h => ?_⟩⟩
  obtain ⟨first, none⟩ := s.beginRefused_table j
  refine ⟨fun st hf => ?_, none.trans Option.map_eq_none_iff⟩
  obtain ⟨⟨st', b⟩, hb, rfl⟩ := Option.map_eq_some_iff.mp ((first st).mp hf)
  refine ⟨b, answered (beginJob_refused (s := s.quiet.beginHandling) hj h hb), fun e => ?_⟩
  obtain rfl : st' = .inkShort := e
  exact State.beginRefused_inkShort hb

end Sys2Proof.Machine
end

-- ==== Sys2Proof/Proofs/groups ====
section
/-!
Which image of a record is the newest in the open commit groups, and what handing another group leaves of it (R193).
-/

namespace Sys2Proof.Machine

/-- The open groups hold the image `i` of record `k` with the newest number, and the retry mark `r` with it (R193, R199). -/
def holdsNewest (gs : List OpenGroup) (k : RecKey) (i : Image) (r : Bool) : Prop :=
  ∃ w ∈ gs.flatMap OpenGroup.writes, w.key = k ∧ w.image = i ∧ w.retry = r ∧
    ∀ v ∈ gs.flatMap OpenGroup.writes, v.key = k → v.group ≤ w.group

/-- An image without its stage. -/
def Write.unstaged (w : Write) : Write := { w with stage := .waiting }

/-! ### Starting a write -/

theorem startFirst_unstaged (held : RecKey → Bool) (ws : List Write) :
    (startFirst held ws).map Write.unstaged = ws.map Write.unstaged := by
  induction ws with
  | nil => rfl
  | cons w ws ih => unfold startFirst; split <;> simp [ih, Write.unstaged]

theorem startGroup_unstaged (all gs : List OpenGroup) :
    ((startGroup all gs).flatMap OpenGroup.writes).map Write.unstaged =
      (gs.flatMap OpenGroup.writes).map Write.unstaged := by
  induction gs with
  | nil => rfl
  | cons g gs ih =>
    unfold startGroup
    split
    · simp only [List.flatMap_cons, List.map_append, startFirst_unstaged]
    · simp only [List.flatMap_cons, List.map_append, ih]

/-- Starting a write changes no image but its stage (R193). -/
theorem startWrite_unstaged (gs : List OpenGroup) :
    ((startWrite gs).flatMap OpenGroup.writes).map Write.unstaged = (gs.flatMap OpenGroup.writes).map Write.unstaged := by
  unfold startWrite; split
  · rfl
  · exact startGroup_unstaged gs gs

/-- Every image of one list stands in the other but for its stage. -/
theorem exists_of_unstaged {a b : List Write} (h : a.map Write.unstaged = b.map Write.unstaged) {w : Write} (hw : w ∈ a) :
    ∃ v ∈ b, v.key = w.key ∧ v.image = w.image ∧ v.retry = w.retry ∧ v.group = w.group := by
  obtain ⟨v, hv, e⟩ := List.mem_map.mp (h ▸ List.mem_map_of_mem hw)
  have e : v.unstaged = w.unstaged := e
  simp only [Write.unstaged, Write.mk.injEq] at e
  obtain ⟨e1, e2, e3, -, e5⟩ := e
  exact ⟨v, hv, e1, e2, e5, e3⟩

theorem holdsNewest_startWrite {gs : List OpenGroup} {k : RecKey} {i : Image} {r : Bool} (h : holdsNewest gs k i r) :
    holdsNewest (startWrite gs) k i r := by
  obtain ⟨w, hw, hk, hi, hr, top⟩ := h
  obtain ⟨v, hv, e1, e2, e3, e4⟩ := exists_of_unstaged (startWrite_unstaged gs).symm hw
  refine ⟨v, hv, e1.trans hk, e2.trans hi, e3.trans hr, fun u hu hu' => ?_⟩
  obtain ⟨x, hx, f1, -, -, f4⟩ := exists_of_unstaged (startWrite_unstaged gs) hu
  rw [e4, ← f4]
  exact top x hx (f1.trans hu')

/-! ### Handing a group -/

/-- The images in the queue once a group stands in the place of those it joins. -/
theorem mem_placeJoined {joins : OpenGroup → Bool} {g : OpenGroup} {gs : List OpenGroup} {w : Write} :
    w ∈ (placeJoined joins g gs).flatMap OpenGroup.writes ↔
      w ∈ g.writes ∨ ∃ x ∈ gs, joins x = false ∧ w ∈ x.writes := by
  rw [((placeJoined_perm joins g gs).flatMap_right OpenGroup.writes).mem_iff]
  simp only [List.flatMap_cons, List.mem_append, List.mem_flatMap, List.mem_filter, Bool.not_eq_true', and_assoc]

/-- The images of the groups that a group of the images `new` joins, each replaced by the newer one where it waits (R193). -/
def joinedWrites (new : List Write) (gs : List OpenGroup) : List Write :=
  ((gs.filter fun g => g.awaits new).flatMap OpenGroup.writes).map (replaceWaiting new)

/-- A waiting image is replaced by a newer one of its record, or stands as it is. -/
theorem replaceWaiting_cases (new : List Write) (w : Write) :
    (replaceWaiting new w ∈ new ∧ (replaceWaiting new w).key = w.key) ∨ replaceWaiting new w = w := by
  unfold replaceWaiting
  split
  · cases hf : new.find? fun n => n.key == w.key with
    | none => exact .inr rfl
    | some m => exact .inl ⟨List.mem_of_find?_eq_some hf, by simpa using List.find?_some hf⟩
  · exact .inr rfl

theorem replaceWaiting_same {new : List Write} {w : Write} (h : ∀ n ∈ new, n.key ≠ w.key) : replaceWaiting new w = w :=
  (replaceWaiting_cases new w).resolve_left fun ⟨hm, hk⟩ => h _ hm hk

/-- An image among those joined is one handed, or one that was open. -/
theorem mem_joinedWrites {new : List Write} {gs : List OpenGroup} {w : Write} (h : w ∈ joinedWrites new gs) :
    w ∈ new ∨ w ∈ gs.flatMap OpenGroup.writes := by
  obtain ⟨x, hx, rfl⟩ := List.mem_map.mp h
  obtain ⟨g, hg, hx⟩ := List.mem_flatMap.mp hx
  rcases replaceWaiting_cases new x with ⟨hm, -⟩ | e
  · exact .inl hm
  · rw [e]; exact .inr (List.mem_flatMap.mpr ⟨g, (List.mem_filter.mp hg).1, hx⟩)

/-- A record that a group brings has its newest image from the group (R193). -/
theorem handGroup_brings {id num : Nat} {new : List Write} {gs : List OpenGroup}
    (older : ∀ w ∈ gs.flatMap OpenGroup.writes, w.group ≤ num) (numbered : ∀ n ∈ new, n.group = num) {n : Write}
    (hn : n ∈ new) :
    ∃ m ∈ new, m.key = n.key ∧ holdsNewest (handGroup id num new gs) n.key m.image m.retry := by
  have low : ∀ w, w ∈ new ∨ w ∈ gs.flatMap OpenGroup.writes → w.group ≤ num := by
    rintro w (h | h)
    · exact (numbered w h).le
    · exact older w h
  suffices h : ∃ m ∈ new, m.key = n.key ∧ m ∈ (newestWrites (joinedWrites new gs) ++
      new.filter fun n => !(gs.filter fun g => g.awaits new).any fun g =>
        g.writes.any fun w => w.stage == .waiting && w.key == n.key) by
    obtain ⟨m, hm, hk, hw⟩ := h
    refine ⟨m, hm, hk, ?_⟩
    unfold handGroup
    refine holdsNewest_startWrite ⟨m, mem_placeJoined.mpr (.inl hw), hk, rfl, rfl, fun v hv _ => ?_⟩
    rw [numbered m hm]
    rcases mem_placeJoined.mp hv with hv | ⟨x, hx, -, hv⟩
    · rcases List.mem_append.mp hv with hv | hv
      · exact low v (mem_joinedWrites (mem_of_newestWrites hv))
      · exact low v (.inl (List.mem_filter.mp hv).1)
    · exact low v (.inr (List.mem_flatMap.mpr ⟨x, hx, hv⟩))
  by_cases hj : ((gs.filter fun g => g.awaits new).any fun g =>
      g.writes.any fun w => w.stage == .waiting && w.key == n.key) = true
  · obtain ⟨g, hg, hw⟩ := List.any_eq_true.mp hj
    obtain ⟨w, hw, e⟩ := List.any_eq_true.mp hw
    simp only [Bool.and_eq_true, beq_iff_eq] at e
    obtain ⟨m, hm⟩ : ∃ m, (new.find? fun x => x.key == w.key) = some m := by
      rw [← Option.isSome_iff_exists, List.find?_isSome]
      exact ⟨n, hn, by simp [e.2]⟩
    have mem := List.mem_of_find?_eq_some hm
    have here : m ∈ joinedWrites new gs := by
      refine List.mem_map.mpr ⟨w, List.mem_flatMap.mpr ⟨g, hg, hw⟩, ?_⟩
      unfold replaceWaiting
      rw [if_pos e.1, hm]; rfl
    refine ⟨m, mem, by simpa [e.2] using List.find?_some hm, List.mem_append_left _ (mem_newestWrites here ?_)⟩
    intro v hv _
    rw [numbered m mem]
    exact low v (mem_joinedWrites hv)
  · exact ⟨n, hn, rfl, List.mem_append_right _ (List.mem_filter.mpr ⟨hn, by simpa using hj⟩)⟩

/-- A record that a group does not bring keeps its newest image (R193). -/
theorem handGroup_spares {id num : Nat} {new : List Write} {gs : List OpenGroup} {k : RecKey} {i : Image} {r : Bool}
    (h : holdsNewest gs k i r) (hk : ∀ n ∈ new, n.key ≠ k) : holdsNewest (handGroup id num new gs) k i r := by
  obtain ⟨w, hw, rfl, hi, hr, top⟩ := h
  have high : ∀ v, v.key = w.key → v ∈ new ∨ v ∈ gs.flatMap OpenGroup.writes → v.group ≤ w.group := fun v e hv =>
    hv.elim (fun hn => absurd e (hk v hn)) fun ho => top v ho e
  unfold handGroup
  refine holdsNewest_startWrite ⟨w, mem_placeJoined.mpr ?_, rfl, hi, hr, fun v hv e => ?_⟩
  · obtain ⟨g, hg, hwg⟩ := List.mem_flatMap.mp hw
    cases ha : g.awaits new
    · exact .inr ⟨g, hg, ha, hwg⟩
    · have here : w ∈ joinedWrites new gs :=
        List.mem_map.mpr ⟨w, List.mem_flatMap.mpr ⟨g, List.mem_filter.mpr ⟨hg, ha⟩, hwg⟩, replaceWaiting_same hk⟩
      exact .inl (List.mem_append_left _ (mem_newestWrites here fun v hv e => high v e (mem_joinedWrites hv)))
  · rcases mem_placeJoined.mp hv with hv | ⟨x, hx, -, hv⟩
    · rcases List.mem_append.mp hv with hv | hv
      · exact high v e (mem_joinedWrites (mem_of_newestWrites hv))
      · exact high v e (.inl (List.mem_filter.mp hv).1)
    · exact high v e (.inr (List.mem_flatMap.mpr ⟨x, hx, hv⟩))

/-! ### The group of a commit point -/

/-- The images that the group of a commit point brings: its own, and those of the unsaved records of its regions as they
stand (R193, R199). -/
def State.brings (s : State) (regions : List Region) (ws : List Write) : List Write :=
  ws.map (fun w => { w with group := s.store.count + 1, retry := s.store.unsaved.contains w.key }) ++
    (s.store.takesUp regions ws).map fun k => ⟨k, s.image k, s.store.count + 1, .waiting, true⟩

theorem State.brings_group {s : State} {regions : List Region} {ws : List Write} :
    ∀ n ∈ s.brings regions ws, n.group = s.store.count + 1 := by
  intro n hn
  rcases List.mem_append.mp hn with hn | hn <;> obtain ⟨x, -, rfl⟩ := List.mem_map.mp hn <;> rfl

theorem State.brings_key {s : State} {regions : List Region} {ws : List Write} {n : Write} (hn : n ∈ s.brings regions ws) :
    (∃ w ∈ ws, w.key = n.key ∧ w.image = n.image ∧ n.retry = s.store.unsaved.contains w.key) ∨
      (n.key ∈ s.store.takesUp regions ws ∧ n.image = s.image n.key ∧ n.retry = true) := by
  rcases List.mem_append.mp hn with hn | hn <;> obtain ⟨x, hx, rfl⟩ := List.mem_map.mp hn
  · exact .inl ⟨x, hx, rfl, rfl, rfl⟩
  · exact .inr ⟨hx, rfl, rfl⟩

theorem Store.mem_takesUp {st : Store} {regions : List Region} {ws : List Write} {k : RecKey} :
    k ∈ st.takesUp regions ws ↔ k ∈ st.unsaved ∧ regionOf k ∈ regions ∧ ∀ w ∈ ws, w.key ≠ k := by
  unfold Store.takesUp
  rw [List.mem_filter]
  simp

theorem State.place_groups (s : State) (id : Nat) (regions : List Region) (ws : List Write) :
    (s.place id regions ws).store.groups =
      if s.brings regions ws = [] then s.store.groups
      else handGroup id (s.store.count + 1) (s.brings regions ws) s.store.groups := by
  unfold State.place
  dsimp only
  split
  · rename_i h
    have none : s.brings regions ws = [] := List.isEmpty_iff.mp h
    rw [if_pos none]
  · rename_i h
    have some : s.brings regions ws ≠ [] := mt List.isEmpty_iff.mpr h
    rw [if_neg some]; rfl

theorem State.place_behind (s : State) (id : Nat) (regions : List Region) (ws : List Write) :
    (s.place id regions ws).store.behind =
      s.store.behind.map fun p => p.renew (s.store.takesUp regions ws) s.image := by
  unfold State.place
  dsimp only
  split
  · rename_i h
    have : s.store.takesUp regions ws = [] := by simp at h; exact h.2
    simp [this, CommitPoint.renew]
  · rfl

theorem State.mem_place_changed {s : State} {id : Nat} {regions : List Region} {ws : List Write} {k : RecKey} :
    k ∈ (s.place id regions ws).store.changed ↔ k ∈ s.store.changed ∧ k ∉ s.store.takesUp regions ws := by
  unfold State.place
  dsimp only
  split
  · rename_i h
    have : s.store.takesUp regions ws = [] := by simp at h; exact h.2
    simp [this]
  · simp [List.mem_filter]

/-- The records stand in working memory, whatever the store does. -/
theorem State.image_store (s : State) (st : Store) (k : RecKey) : ({ s with store := st } : State).image k = s.image k := by
  cases k <;> rfl

theorem State.place_image (s : State) (id : Nat) (regions : List Region) (ws : List Write) (k : RecKey) :
    (s.place id regions ws).image k = s.image k := by rw [s.place_shape, State.image_store]

/-- The open groups carry no number above the last one given. -/
theorem older_of_numbered {gs : List OpenGroup} {count : Nat} (h : ∀ g ∈ gs, g.numbered count) :
    ∀ w ∈ gs.flatMap OpenGroup.writes, w.group ≤ count + 1 := by
  intro w hw
  obtain ⟨g, hg, hw⟩ := List.mem_flatMap.mp hw
  obtain ⟨-, -, low, own⟩ := h g hg
  exact (low _ (own w hw)).trans (Nat.le_succ _)

/-- A record of the commit point, all of whose images of it are the one given, has that image newest (R193). -/
theorem State.place_brings {s : State} {id : Nat} {regions : List Region} {ws : List Write} {k : RecKey} {i : Image}
    (h : ∀ g ∈ s.store.groups, g.numbered s.store.count) (hk : ∃ w ∈ ws, w.key = k) (hi : ∀ w ∈ ws, w.key = k → w.image = i) :
    holdsNewest (s.place id regions ws).store.groups k i (s.store.unsaved.contains k) := by
  obtain ⟨w, hw, rfl⟩ := hk
  have hn : ({ w with group := s.store.count + 1, retry := s.store.unsaved.contains w.key } : Write) ∈ s.brings regions ws :=
    List.mem_append_left _ (List.mem_map_of_mem hw)
  rw [s.place_groups, if_neg (List.ne_nil_of_mem hn)]
  obtain ⟨m, hm, e, held⟩ := handGroup_brings (id := id) (older_of_numbered h) State.brings_group hn
  have e : m.key = w.key := e
  rcases State.brings_key hm with ⟨x, hx, k1, k2, k3⟩ | ⟨hm, -, -⟩
  · rw [← k2, hi x hx (k1.trans e), k3, k1.trans e] at held
    exact held
  · exact absurd e.symm ((Store.mem_takesUp.mp hm).2.2 w hw)

/-- An unsaved record of the regions has its image as it stands newest, with the retry mark (R199). -/
theorem State.place_takesUp {s : State} {id : Nat} {regions : List Region} {ws : List Write} {k : RecKey}
    (h : ∀ g ∈ s.store.groups, g.numbered s.store.count) (hk : k ∈ s.store.takesUp regions ws) :
    holdsNewest (s.place id regions ws).store.groups k (s.image k) true := by
  have hn : (⟨k, s.image k, s.store.count + 1, .waiting, true⟩ : Write) ∈ s.brings regions ws :=
    List.mem_append_right _ (List.mem_map_of_mem (f := fun k => (⟨k, s.image k, s.store.count + 1, .waiting, true⟩ : Write)) hk)
  rw [s.place_groups, if_neg (List.ne_nil_of_mem hn)]
  obtain ⟨m, hm, e, held⟩ := handGroup_brings (id := id) (older_of_numbered h) State.brings_group hn
  have e : m.key = k := e
  rcases State.brings_key hm with ⟨x, hx, k1, -, -⟩ | ⟨-, k2, k3⟩
  · exact absurd (k1.trans e) ((Store.mem_takesUp.mp hk).2.2 x hx)
  · rw [k2, k3, e] at held
    exact held

/-- Any other record keeps its newest image. -/
theorem State.place_spares {s : State} {id : Nat} {regions : List Region} {ws : List Write} {k : RecKey} {i : Image}
    {r : Bool} (hw : ∀ w ∈ ws, w.key ≠ k) (hk : k ∉ s.store.takesUp regions ws) (h : holdsNewest s.store.groups k i r) :
    holdsNewest (s.place id regions ws).store.groups k i r := by
  rw [s.place_groups]
  split
  · exact h
  · refine handGroup_spares h fun n hn e => ?_
    rcases State.brings_key hn with ⟨w, hw', k1, -, -⟩ | ⟨k2, -, -⟩
    · exact hw w hw' (k1.trans e)
    · exact hk (e ▸ k2)

end Sys2Proof.Machine
end

-- ==== Sys2Proof/Proofs/ledger ====
section
/-!
The ledger of a handling: what has become of each record's changes since the handling began. Every operation of the part
keeps it (`s.minds t`), and at the end it says what `State.commits` asks of a record that a commit point has taken.
-/

namespace Sys2Proof.Machine

/-! ### The commit points of the handling in hand -/

/-- A commit point of the handling in hand. -/
def State.ownPoint (s : State) (p : CommitPoint) : Prop := ∃ n, s.handling.since = some n ∧ n < p.id

/-- A handling is in hand, begun at a commit point made already. -/
def State.handles (s : State) : Prop := ∃ n, s.handling.since = some n ∧ n ≤ s.store.called

/-- None of the handling's commit points waits. -/
def State.noneWaits (s : State) : Prop := ∀ p ∈ s.store.behind, ¬ s.ownPoint p

theorem State.mem_awaited {s : State} {k : Nat} :
    k ∈ s.awaited ↔ k ∈ s.store.openIds ∧ ∃ n, s.handling.since = some n ∧ n < k := by
  unfold State.awaited
  cases h : s.handling.since with
  | none => simp
  | some n => simp [Store.mem_openAbove]

/-- The open groups hold the image of record `k` as it stands, newest, and no commit point of another handling waits with
an older one. -/
def State.queued (s : State) (k : RecKey) : Prop :=
  (∃ r, holdsNewest s.store.groups k (s.image k) r) ∧
    ∀ p ∈ s.store.behind, ¬ s.ownPoint p → ∀ w ∈ p.writes, w.key = k → w.image = s.image k

/-- A commit point of the handling in hand waits with the image of record `k` as it stands. -/
def State.waitsWith (s : State) (k : RecKey) : Prop :=
  ∃ p ∈ s.store.behind, s.ownPoint p ∧ ∃ w ∈ p.writes, w.key = k ∧ w.image = s.image k

/-- Since `b`, record `k` has a change that no commit point has taken, or none at all, or its image is in hand. -/
def State.accounts (b s : State) (k : RecKey) : Prop :=
  k ∈ s.store.changed ∨ (s.image k = b.image k ∧ k ∉ b.store.changed) ∨ s.queued k ∨ s.waitsWith k

/-- Where none of the handling's commit points waits, the open groups have taken up the unsaved records of a region (R199).
-/
def State.takenUp (s : State) (g : Region) : Prop :=
  s.noneWaits → ∀ v ∈ s.store.unsaved, regionOf v = g →
    ∃ i, holdsNewest s.store.groups v i true ∧ (v ∉ s.store.changed → i = s.image v)

/-- They have, in a group of the handling that is not complete. -/
def State.retried (s : State) (g : Region) : Prop :=
  s.takenUp g ∧ (s.noneWaits → (∃ v ∈ s.store.unsaved, regionOf v = g) → s.awaited ≠ [])

/-- What a handling begun at `b` has come to at `s`. -/
structure State.ledger (b s : State) : Prop where
  since : s.handling.since = b.handling.since
  sound : s.store.sound
  called : b.store.called ≤ s.store.called
  opens : ∀ k, k ∈ b.store.openIds ↔ k ∈ s.store.openIds ∧ k ≤ b.store.called
  unsaved : s.store.unsaved = b.store.unsaved
  marker : s.store.marker = true → ∀ k, s.image k = b.image k
  accounts : ∀ k, b.accounts s k

theorem Store.sound.called {st : Store} (h : st.sound) {k : Nat} (hk : k ∈ st.openIds) : k ≤ st.called :=
  ((Store.sound_iff _).mp h).1.called k hk

theorem Store.sound.steady {st : Store} (h : st.sound) : st.steady := ((Store.sound_iff _).mp h).1

theorem State.ledger_refl {s : State} (h : s.store.sound) : s.ledger s where
  since := rfl
  sound := h
  called := le_refl _
  opens _ := ⟨fun hk => ⟨hk, h.called hk⟩, And.left⟩
  unsaved := rfl
  marker _ _ := rfl
  accounts k := by
    by_cases hk : k ∈ s.store.changed
    · exact .inl hk
    · exact .inr (.inl ⟨rfl, hk⟩)

/-! ### Handing a group -/

theorem State.place_ownPoint (s : State) (id : Nat) (regions : List Region) (ws : List Write) (p : CommitPoint) :
    (s.place id regions ws).ownPoint p ↔ s.ownPoint p := by
  unfold State.ownPoint; rw [s.place_shape]

/-- The commit points that wait once a group is handed are those before, with the newer images of what it takes up. -/
theorem State.mem_place_behind {s : State} {id : Nat} {regions : List Region} {ws : List Write} {p : CommitPoint} :
    p ∈ (s.place id regions ws).store.behind ↔
      ∃ q ∈ s.store.behind, q.renew (s.store.takesUp regions ws) s.image = p := by
  rw [s.place_behind, List.mem_map]

theorem CommitPoint.mem_renew {p : CommitPoint} {keys : List RecKey} {image : RecKey → Image} {w : Write} :
    w ∈ (p.renew keys image).writes ↔
      ∃ v ∈ p.writes, v.key = w.key ∧ w = if keys.contains v.key then { v with image := image v.key } else v := by
  unfold CommitPoint.renew
  rw [List.mem_map]
  constructor
  · rintro ⟨v, hv, rfl⟩
    exact ⟨v, hv, by split <;> rfl, rfl⟩
  · rintro ⟨v, hv, -, e⟩
    exact ⟨v, hv, e.symm⟩

/-- Renewed images are as they stand. -/
theorem CommitPoint.renew_image {p : CommitPoint} {keys : List RecKey} {image : RecKey → Image} {k : RecKey} {w : Write}
    (hw : w ∈ (p.renew keys image).writes) (hk : w.key = k)
    (h : k ∉ keys → ∀ v ∈ p.writes, v.key = k → v.image = image k) : w.image = image k := by
  obtain ⟨v, hv, e, rfl⟩ := CommitPoint.mem_renew.mp hw
  have e : v.key = k := e.trans hk
  by_cases hm : k ∈ keys
  · rw [if_pos (by rw [e]; simpa using hm)]; simp [e]
  · rw [if_neg (by rw [e]; simpa using hm)]; exact h hm v hv e

section
variable {b s : State} {id : Nat} {regions : List Region} {ws : List Write} {k : RecKey}

/-- Handing a group leaves what the commit points of other handlings wait with, or brings it up to date. -/
theorem State.place_others
    (h : k ∉ s.store.takesUp regions ws → ∀ p ∈ s.store.behind, ¬ s.ownPoint p → ∀ w ∈ p.writes, w.key = k →
      w.image = s.image k) :
    ∀ p ∈ (s.place id regions ws).store.behind, ¬ (s.place id regions ws).ownPoint p → ∀ w ∈ p.writes, w.key = k →
      w.image = (s.place id regions ws).image k := by
  intro p hp ho w hw hk
  obtain ⟨q, hq, rfl⟩ := State.mem_place_behind.mp hp
  rw [s.place_image]
  rw [State.place_ownPoint] at ho
  exact CommitPoint.renew_image hw hk fun hm v hv e => h hm q hq ho v hv e

/-- A record taken up by a group is in the queue. -/
theorem State.place_queued_more (hs : ∀ g ∈ s.store.groups, g.numbered s.store.count) (hk : k ∈ s.store.takesUp regions ws) :
    (s.place id regions ws).queued k :=
  ⟨⟨true, by rw [s.place_image]; exact State.place_takesUp hs hk⟩, State.place_others fun h => absurd hk h⟩

/-- A record of the commit point, with its image as it stands, is in the queue. -/
theorem State.place_queued_own (hs : ∀ g ∈ s.store.groups, g.numbered s.store.count) (hk : ∃ w ∈ ws, w.key = k)
    (hi : ∀ w ∈ ws, w.key = k → w.image = s.image k)
    (ho : ∀ p ∈ s.store.behind, ¬ s.ownPoint p → ∀ w ∈ p.writes, w.key = k → w.image = s.image k) :
    (s.place id regions ws).queued k :=
  ⟨⟨_, by rw [s.place_image]; exact State.place_brings hs hk hi⟩, State.place_others fun _ => ho⟩

theorem State.place_queued (hs : ∀ g ∈ s.store.groups, g.numbered s.store.count) (h : s.queued k) (hi : ∀ w ∈ ws, w.key = k → w.image = s.image k) :
    (s.place id regions ws).queued k := by
  obtain ⟨⟨r, held⟩, others⟩ := h
  by_cases hw : ∃ w ∈ ws, w.key = k
  · exact State.place_queued_own hs hw hi others
  · by_cases hm : k ∈ s.store.takesUp regions ws
    · exact State.place_queued_more hs hm
    · refine ⟨⟨r, ?_⟩, State.place_others fun _ => others⟩
      rw [s.place_image]
      exact State.place_spares (fun w hw' e => hw ⟨w, hw', e⟩) hm held

theorem State.place_waitsWith (h : s.waitsWith k) : (s.place id regions ws).waitsWith k := by
  obtain ⟨p, hp, ho, w, hw, hk, hi⟩ := h
  refine ⟨_, State.mem_place_behind.mpr ⟨p, hp, rfl⟩, (State.place_ownPoint ..).mpr ?_, _,
    CommitPoint.mem_renew.mpr ⟨w, hw, ?_, rfl⟩, ?_, ?_⟩
  · exact ho
  · split <;> rfl
  · split <;> exact hk
  · rw [s.place_image]
    split
    · rw [hk]
    · exact hi

/-- Handing the group of a commit point that holds no outdated image of a record in the queue keeps the account of it. -/
theorem State.place_accounts (hs : ∀ g ∈ s.store.groups, g.numbered s.store.count)
    (h : k ∈ s.store.changed ∨ (s.image k = b.image k ∧ k ∉ b.store.changed) ∨
      (s.queued k ∧ ∀ w ∈ ws, w.key = k → w.image = s.image k) ∨ s.waitsWith k) :
    b.accounts (s.place id regions ws) k := by
  rcases h with h | ⟨h1, h2⟩ | ⟨h, hi⟩ | h
  · by_cases hm : k ∈ s.store.takesUp regions ws
    · exact .inr (.inr (.inl (State.place_queued_more hs hm)))
    · exact .inl (State.mem_place_changed.mpr ⟨h, hm⟩)
  · exact .inr (.inl ⟨by rw [s.place_image]; exact h1, h2⟩)
  · exact .inr (.inr (.inl (State.place_queued hs h hi)))
  · exact .inr (.inr (.inr (State.place_waitsWith h)))
end

/-! ### Commit points of other handlings hand their groups -/

theorem State.placeFirst_accounts {b s : State} {f : CommitPoint → Bool} {k : RecKey}
    (hs : ∀ g ∈ s.store.groups, g.numbered s.store.count) (hf : ∀ p, f p = true → ¬ s.ownPoint p) (h : b.accounts s k) :
    b.accounts (s.placeFirst f) k := by
  unfold State.placeFirst
  split
  · rename_i p hp
    have mem := List.mem_of_find?_eq_some hp
    have other := hf p (List.find?_some hp)
    have image : ∀ k, ({ s with store := { s.store with behind := s.store.behind.eraseP f } } : State).image k = s.image k :=
      s.image_store _
    refine State.place_accounts (s := { s with store := { s.store with behind := s.store.behind.eraseP f } }) hs ?_
    rcases h with h | ⟨h1, h2⟩ | ⟨h, ho⟩ | ⟨q, hq, ho, w, hw, hk, hi⟩
    · exact .inl h
    · exact .inr (.inl ⟨by rw [image]; exact h1, h2⟩)
    · refine .inr (.inr (.inl ⟨⟨by rw [image]; exact h, fun q hq => ?_⟩, ?_⟩))
      · rw [image]
        exact ho q (List.mem_of_mem_eraseP hq)
      · rw [image]
        exact ho p mem other
    · have nf : ¬ f q = true := fun e => hf q e ho
      exact .inr (.inr (.inr ⟨q, (List.mem_eraseP_of_neg nf).mpr hq, ho, w, hw, hk, by rw [image]; exact hi⟩))
  · exact h

theorem State.placeFirst_numbered {s : State} (f : CommitPoint → Bool) (h : ∀ g ∈ s.store.groups, g.numbered s.store.count) :
    ∀ g ∈ (s.placeFirst f).store.groups, g.numbered (s.placeFirst f).store.count := by
  unfold State.placeFirst
  split
  · exact State.place_numbered _ _ _ h
  · exact h

theorem State.placeThose_accounts {b s : State} {f : CommitPoint → Bool} {k : RecKey}
    (hs : ∀ g ∈ s.store.groups, g.numbered s.store.count) (hf : ∀ p, f p = true → ¬ s.ownPoint p) (h : b.accounts s k) :
    b.accounts (s.placeThose f) k := by
  unfold State.placeThose
  generalize s.store.behind = l
  induction l generalizing s with
  | nil => exact h
  | cons p l ih =>
    have same : ∀ q, (s.placeFirst f).ownPoint q ↔ s.ownPoint q := fun q => by
      unfold State.ownPoint; rw [s.placeFirst_shape]
    exact ih (State.placeFirst_numbered f hs) (fun q e => mt (same q).mp (hf q e)) (State.placeFirst_accounts hs hf h)

/-- The commit points overtaken are of other handlings. -/
theorem State.overtaken_other {s : State} {keys : List RecKey} {p : CommitPoint}
    (hp : p.id ∈ s.store.overtaken s.handling.since keys) : ¬ s.ownPoint p := by
  rintro ⟨n, hn, lt⟩
  unfold Store.overtaken at hp
  obtain ⟨q, hq, e⟩ := List.mem_map.mp (List.mem_filter.mp hp).1
  have low := (List.mem_filter.mp hq).2
  simp only [hn, Option.map_some, Option.getD_some, decide_eq_true_eq] at low
  omega

/-- A newer commit point makes those of other handlings hand their groups: the account of every record goes on. -/
theorem State.overtake_accounts {b s : State} (keys : List RecKey) {k : RecKey} (hs : s.store.sound) (h : b.accounts s k) :
    b.accounts (s.overtake keys) k := by
  unfold State.overtake
  exact State.placeThose_accounts hs.steady.numbered (fun p hp => State.overtaken_other (by simpa using hp)) h

/-- The commit points that wait once those overtaken have handed their groups. -/
theorem State.overtake_behind (s : State) (keys : List RecKey) :
    (s.overtake keys).store.behind.map CommitPoint.waits =
      (s.store.behind.map CommitPoint.waits).filter fun x => !(s.store.overtaken s.handling.since keys).contains x.1 :=
  State.placeThose_behind (fun p => (s.store.overtaken s.handling.since keys).contains p.id)
    (fun x => (s.store.overtaken s.handling.since keys).contains x.1) (fun _ => rfl) s

/-- Once they have, no commit point of another handling waits with an image of one of the records. -/
theorem State.overtake_clears {s : State} {keys : List RecKey} {p : CommitPoint}
    (hp : p ∈ (s.overtake keys).store.behind) (ho : ¬ s.ownPoint p) : ∀ w ∈ p.writes, w.key ∉ keys := by
  intro w hw hk
  have hp' : p.waits ∈ (s.overtake keys).store.behind.map CommitPoint.waits := List.mem_map_of_mem hp
  rw [State.overtake_behind, List.mem_filter] at hp'
  obtain ⟨q, hq, e⟩ := List.mem_map.mp hp'.1
  simp only [CommitPoint.waits, Prod.mk.injEq] at e
  obtain ⟨e1, -, e3⟩ := e
  have holds : q.holds keys = true := by
    unfold CommitPoint.holds
    obtain ⟨v, hv, ev⟩ := List.mem_map.mp (e3 ▸ List.mem_map_of_mem (f := Write.key) hw)
    exact List.any_eq_true.mpr ⟨v, hv, by rw [ev]; simpa using hk⟩
  have other : (s.handling.since.map fun n => decide (q.id ≤ n)).getD true = true := by
    cases hn : s.handling.since with
    | none => rfl
    | some n =>
      have : ¬ n < p.id := fun lt => ho ⟨n, hn, lt⟩
      simp only [Option.map_some, Option.getD_some, decide_eq_true_eq]; omega
  have : q.id ∈ s.store.overtaken s.handling.since keys := by
    unfold Store.overtaken
    have mem : q ∈ s.store.behind.filter fun p => (s.handling.since.map fun n => decide (p.id ≤ n)).getD true :=
      List.mem_filter.mpr ⟨hq, other⟩
    refine List.mem_filter.mpr ⟨List.mem_map_of_mem mem, List.any_eq_true.mpr ⟨q, List.mem_filter.mpr ⟨mem, holds⟩, ?_⟩⟩
    simp
  have hp2 := hp'.2
  simp only [CommitPoint.waits, Bool.not_eq_true', List.contains_eq_mem, decide_eq_false_iff_not] at hp2
  exact hp2 (e1 ▸ this)

/-! ### Making a commit point -/

/-- The images of a commit point as they are taken (R193). -/
def State.takes (s : State) (keys : List RecKey) : List Write :=
  keys.map fun k => (⟨k, s.image k, 0, .waiting, false⟩ : Write)

theorem State.mem_takes {s : State} {keys : List RecKey} {k : RecKey} :
    (∃ w ∈ s.takes keys, w.key = k) ↔ k ∈ keys := by
  unfold State.takes; simp

theorem State.takes_image {s : State} {keys : List RecKey} {k : RecKey} :
    ∀ w ∈ s.takes keys, w.key = k → w.image = s.image k := by
  intro w hw e
  obtain ⟨x, -, rfl⟩ := List.mem_map.mp hw
  exact congrArg s.image e

/-- A commit point of these records is called for, and those of other handlings are overtaken (R193, R201). -/
def State.calls (s : State) (keys : List RecKey) : State :=
  { s.overtake keys with store := { (s.overtake keys).store with
      called := s.store.called + 1, changed := (s.overtake keys).store.changed.filter fun k => !keys.contains k } }

/-- A commit point hands its group, where its handling waits for none or it holds no image, or waits (R193, R194). -/
theorem State.hand_cases (s : State) (names : List RecKey) :
    ((s.awaited = [] ∨ s.store.groupKeys names = []) ∧
      s.hand names = (s.calls (s.store.groupKeys names)).place (s.store.called + 1) (names.map regionOf)
        (s.takes (s.store.groupKeys names))) ∨
    (s.awaited ≠ [] ∧ s.store.groupKeys names ≠ [] ∧
      s.hand names = { s.calls (s.store.groupKeys names) with store := { (s.calls (s.store.groupKeys names)).store with
        behind := (s.calls (s.store.groupKeys names)).store.behind ++
          [⟨s.store.called + 1, s.takes (s.store.groupKeys names), s.awaited⟩] } }) := by
  unfold State.hand
  dsimp only
  split
  · rename_i h
    simp only [Bool.or_eq_true, List.isEmpty_iff] at h
    exact .inl ⟨h, rfl⟩
  · rename_i h
    simp only [Bool.or_eq_true, not_or, List.isEmpty_iff] at h
    exact .inr ⟨h.1, h.2, rfl⟩

section
variable {b s : State} {keys : List RecKey}

theorem State.calls_image (k : RecKey) : (s.calls keys).image k = s.image k := by
  unfold State.calls; rw [State.image_store, s.overtake_shape, State.image_store]

theorem State.calls_ownPoint (p : CommitPoint) : (s.calls keys).ownPoint p ↔ s.ownPoint p := by
  unfold State.ownPoint State.calls; rw [s.overtake_shape]

theorem State.calls_unsaved : (s.calls keys).store.unsaved = s.store.unsaved := by
  unfold State.calls; rw [(s.overtake_store keys).1]

theorem State.calls_numbered (hs : s.store.sound) :
    ∀ g ∈ (s.calls keys).store.groups, g.numbered (s.calls keys).store.count :=
  (State.overtake_sound keys hs).1.steady.numbered

theorem State.calls_openIds (hs : s.store.sound) : (s.calls keys).store.openIds.Perm s.store.openIds :=
  (State.overtake_sound keys hs).2

/-- A record the commit point does not name keeps its account. -/
theorem State.calls_accounts {k : RecKey} (hs : s.store.sound) (h : b.accounts s k) (hk : k ∉ keys) :
    b.accounts (s.calls keys) k := by
  have same : ∀ k, (s.calls keys).image k = (s.overtake keys).image k := fun k => State.image_store _ _ k
  rcases State.overtake_accounts keys hs h with h | ⟨h1, h2⟩ | ⟨h, ho⟩ | ⟨p, hp, ho, w, hw, e, hi⟩
  · exact .inl (List.mem_filter.mpr ⟨h, by simpa using hk⟩)
  · exact .inr (.inl ⟨by rw [same]; exact h1, h2⟩)
  · exact .inr (.inr (.inl ⟨by rw [same]; exact h, fun p hp hn => by rw [same]; exact ho p hp hn⟩))
  · exact .inr (.inr (.inr ⟨p, hp, ho, w, hw, e, by rw [same]; exact hi⟩))

/-- No commit point of another handling waits with a record the commit point takes. -/
theorem State.calls_clears {k : RecKey} (hk : k ∈ keys) :
    ∀ p ∈ (s.calls keys).store.behind, ¬ (s.calls keys).ownPoint p → ∀ w ∈ p.writes, w.key ≠ k := by
  intro p hp ho w hw e
  rw [State.calls_ownPoint] at ho
  exact State.overtake_clears hp ho w hw (e ▸ hk)

/-- A commit point keeps the account of every record. -/
theorem State.hand_accounts {k : RecKey} (names : List RecKey) (hs : s.store.sound) (h : b.accounts s k) :
    b.accounts (s.hand names) k := by
  have num := State.calls_numbered (keys := s.store.groupKeys names) hs
  have same := fun k => State.calls_image (s := s) (keys := s.store.groupKeys names) k
  have clear := fun hk => State.calls_clears (s := s) (keys := s.store.groupKeys names) (k := k) hk
  have rest := State.calls_accounts (b := b) (keys := s.store.groupKeys names) (k := k) hs h
  rcases s.hand_cases names with ⟨-, e⟩ | ⟨ha, -, e⟩ <;> rw [e] <;> generalize s.store.groupKeys names = keys at *
  · by_cases hk : k ∈ keys
    · refine .inr (.inr (.inl (State.place_queued_own num (State.mem_takes.mpr hk) (fun w hw e => ?_)
        fun p hp ho w hw e => absurd e (clear hk p hp ho w hw))))
      rw [same]
      exact State.takes_image w hw e
    · refine State.place_accounts num ?_
      rcases rest hk with h | h | h | h
      · exact .inl h
      · exact .inr (.inl h)
      · exact .inr (.inr (.inl ⟨h, fun w hw e => absurd (State.mem_takes.mp ⟨w, hw, e⟩) hk⟩))
      · exact .inr (.inr (.inr h))
  · have image : ∀ st k, ({ s.calls keys with store := st } : State).image k = s.image k := fun st k =>
      (State.image_store _ st k).trans (same k)
    have own : s.ownPoint ⟨s.store.called + 1, s.takes keys, s.awaited⟩ := by
      obtain ⟨i, hi⟩ := List.exists_mem_of_ne_nil _ ha
      obtain ⟨hm, n, hn, lt⟩ := State.mem_awaited.mp hi
      exact ⟨n, hn, lt.trans_le ((hs.called hm).trans (Nat.le_succ _))⟩
    by_cases hk : k ∈ keys
    · obtain ⟨w, hw, e⟩ := State.mem_takes (s := s).mpr hk
      refine .inr (.inr (.inr ⟨_, List.mem_append_right _ (List.mem_singleton_self _), (State.calls_ownPoint _).mpr own,
        w, hw, e, ?_⟩))
      rw [image]
      exact State.takes_image w hw e
    · rcases rest hk with h | ⟨h1, h2⟩ | ⟨h, ho⟩ | ⟨p, hp, ho, w, hw, e, hi⟩
      · exact .inl h
      · exact .inr (.inl ⟨by rw [image, ← same]; exact h1, h2⟩)
      · refine .inr (.inr (.inl ⟨by rw [image, ← same]; exact h, fun p hp hn => ?_⟩))
        rw [image, ← same]
        rcases List.mem_append.mp hp with hp | hp
        · exact ho p hp hn
        · rw [List.mem_singleton.mp hp] at hn
          exact absurd ((State.calls_ownPoint _).mpr own) hn
      · exact .inr (.inr (.inr ⟨p, List.mem_append_left _ hp, ho, w, hw, e, by rw [image, ← same]; exact hi⟩))
/-- The handling's own commit points go on waiting. -/
theorem State.calls_own {p : CommitPoint} (hp : p ∈ s.store.behind) (ho : s.ownPoint p) :
    ∃ q ∈ (s.calls keys).store.behind, q.id = p.id := by
  have : p.waits ∈ (s.overtake keys).store.behind.map CommitPoint.waits := by
    rw [State.overtake_behind, List.mem_filter]
    refine ⟨List.mem_map_of_mem hp, ?_⟩
    simp only [CommitPoint.waits, Bool.not_eq_true', List.contains_eq_mem, decide_eq_false_iff_not]
    exact fun h => State.overtaken_other h ho
  obtain ⟨q, hq, e⟩ := List.mem_map.mp this
  simp only [CommitPoint.waits, Prod.mk.injEq] at e
  exact ⟨q, hq, e.1⟩

theorem State.hand_since (names : List RecKey) : (s.hand names).handling.since = s.handling.since := by
  rw [State.hand_handling]

theorem State.hand_ownPoint (names : List RecKey) (p : CommitPoint) : (s.hand names).ownPoint p ↔ s.ownPoint p := by
  unfold State.ownPoint; rw [State.hand_handling]

theorem State.hand_image (names : List RecKey) (k : RecKey) : (s.hand names).image k = s.image k := by
  rw [s.hand_shape, State.image_store]

/-- A commit point that waits is the handling's own. -/
theorem State.own_of_awaited (hs : s.store.sound) (ha : s.awaited ≠ []) (ws : List Write) (after : List Nat) :
    s.ownPoint ⟨s.store.called + 1, ws, after⟩ := by
  obtain ⟨i, hi⟩ := List.exists_mem_of_ne_nil _ ha
  obtain ⟨hm, n, hn, lt⟩ := State.mem_awaited.mp hi
  exact ⟨n, hn, lt.trans_le ((hs.called hm).trans (Nat.le_succ _))⟩

/-- Where none of the handling's commit points waits behind a commit point, none waited before it. -/
theorem State.hand_noneWaits {names : List RecKey} (h : (s.hand names).noneWaits) : s.noneWaits := by
  intro p hp ho
  obtain ⟨n, hn, lt⟩ := ho
  obtain ⟨q, hq, e⟩ := State.calls_own (keys := s.store.groupKeys names) hp ⟨n, hn, lt⟩
  have stays : ∃ x ∈ (s.hand names).store.behind, x.id = p.id := by
    rcases s.hand_cases names with ⟨-, e'⟩ | ⟨-, -, e'⟩ <;> rw [e']
    · exact ⟨_, State.mem_place_behind.mpr ⟨q, hq, rfl⟩, e⟩
    · exact ⟨q, List.mem_append_left _ hq, e⟩
  obtain ⟨x, hx, ex⟩ := stays
  exact h x hx ((State.hand_ownPoint names x).mpr ⟨n, hn, by omega⟩)

/-- The commit points not complete after a commit point are those before, and itself unless it closes at once. -/
theorem State.hand_openIds (names : List RecKey) (hs : s.store.sound) :
    (∀ k ∈ s.store.openIds, k ∈ (s.hand names).store.openIds) ∧
      ∀ k ∈ (s.hand names).store.openIds, k ∈ s.store.openIds ∨ k = s.store.called + 1 := by
  have perm := State.calls_openIds (keys := s.store.groupKeys names) hs
  rcases s.hand_cases names with ⟨-, e⟩ | ⟨-, -, e⟩ <;> rw [e]
  · rcases State.place_openIds (s.calls (s.store.groupKeys names)) (s.store.called + 1) (names.map regionOf)
      (s.takes (s.store.groupKeys names)) with p | ⟨-, e⟩
    · refine ⟨fun k hk => p.mem_iff.mpr (List.mem_cons_of_mem _ (perm.mem_iff.mpr hk)), fun k hk => ?_⟩
      rcases List.mem_cons.mp (p.mem_iff.mp hk) with h | h
      · exact .inr h
      · exact .inl (perm.mem_iff.mp h)
    · rw [e]
      exact ⟨fun k hk => perm.mem_iff.mpr hk, fun k hk => .inl (perm.mem_iff.mp hk)⟩
  · have ids : ∀ (st : Store) (p : CommitPoint), ({ st with behind := st.behind ++ [p] } : Store).openIds =
        st.openIds ++ [p.id] := by intro st p; simp [Store.openIds]
    rw [show ∀ st : Store, ({ s.calls (s.store.groupKeys names) with store := st } : State).store = st from fun _ => rfl, ids]
    refine ⟨fun k hk => List.mem_append_left _ (perm.mem_iff.mpr hk), fun k hk => ?_⟩
    rcases List.mem_append.mp hk with h | h
    · exact .inl (perm.mem_iff.mp h)
    · exact .inr (List.mem_singleton.mp h)

/-- A group that brings an image is open. -/
theorem State.place_opens {s : State} {id : Nat} {regions : List Region} {ws : List Write} (h : s.brings regions ws ≠ []) :
    id ∈ (s.place id regions ws).store.openIds := by
  unfold Store.openIds
  rw [s.place_groups, if_neg h]
  exact List.mem_append_left _ ((handGroup_ids _ _ _ _).mem_iff.mpr List.mem_cons_self)

/-- Where none of the handling's commit points waits behind a commit point, its group is handed. -/
theorem State.hand_placed {names : List RecKey} (hs : s.store.sound) (h : (s.hand names).noneWaits) :
    (s.awaited = [] ∨ s.store.groupKeys names = []) ∧
      s.hand names = (s.calls (s.store.groupKeys names)).place (s.store.called + 1) (names.map regionOf)
        (s.takes (s.store.groupKeys names)) := by
  rcases s.hand_cases names with h' | ⟨ha, -, e⟩
  · exact h'
  · exact absurd ((State.hand_ownPoint names _).mpr (State.own_of_awaited hs ha _ _))
      (h _ (by rw [e]; exact List.mem_append_right _ (List.mem_singleton_self _)))

theorem State.hand_unsaved (names : List RecKey) : (s.hand names).store.unsaved = s.store.unsaved := by
  rw [(s.hand_makes names).1]

/-- A group that is handed has taken up an unsaved record of its regions, with its image as it stands (R199). -/
theorem State.place_unsaved {names : List RecKey} {v : RecKey} (hs : s.store.sound) (hv : v ∈ s.store.unsaved)
    (hg : regionOf v ∈ names.map regionOf) :
    let t := (s.calls (s.store.groupKeys names)).place (s.store.called + 1) (names.map regionOf)
      (s.takes (s.store.groupKeys names))
    holdsNewest t.store.groups v (s.image v) true ∧ s.store.called + 1 ∈ t.store.openIds := by
  have num := State.calls_numbered (keys := s.store.groupKeys names) hs
  have unsaved : v ∈ (s.calls (s.store.groupKeys names)).store.unsaved := by rw [State.calls_unsaved]; exact hv
  dsimp only
  by_cases hw : ∃ w ∈ s.takes (s.store.groupKeys names), w.key = v
  · obtain ⟨w, hw', -⟩ := id hw
    have held := State.place_brings (id := s.store.called + 1) (regions := names.map regionOf) num hw State.takes_image
    rw [show (s.calls (s.store.groupKeys names)).store.unsaved.contains v = true by simpa using unsaved] at held
    exact ⟨held, State.place_opens (List.ne_nil_of_mem (List.mem_append_left _ (List.mem_map_of_mem hw')))⟩
  · have hm : v ∈ (s.calls (s.store.groupKeys names)).store.takesUp (names.map regionOf)
        (s.takes (s.store.groupKeys names)) := Store.mem_takesUp.mpr ⟨unsaved, hg, fun w hw' e => hw ⟨w, hw', e⟩⟩
    refine ⟨by rw [← State.calls_image]; exact State.place_takesUp num hm, State.place_opens ?_⟩
    exact List.ne_nil_of_mem (List.mem_append_right _ (List.mem_map_of_mem
      (f := fun k => (⟨k, (s.calls (s.store.groupKeys names)).image k,
        (s.calls (s.store.groupKeys names)).store.count + 1, .waiting, true⟩ : Write)) hm))

/-- Behind a commit point that names a record, the unsaved records of its region are taken up (R199). -/
theorem State.hand_takenUp {names : List RecKey} {k : RecKey} (hs : s.store.sound) (hk : k ∈ names) :
    (s.hand names).takenUp (regionOf k) := by
  intro none v hv hg
  rw [State.hand_unsaved] at hv
  rw [(State.hand_placed hs none).2]
  obtain ⟨held, -⟩ := State.place_unsaved hs hv (by rw [hg]; exact List.mem_map_of_mem hk)
  exact ⟨_, held, fun _ => by rw [State.place_image, State.calls_image]⟩

/-- They are, in a group of the handling that is not complete. -/
theorem State.hand_retried {names : List RecKey} {k : RecKey} (hs : s.store.sound) (hh : s.handles) (hk : k ∈ names) :
    (s.hand names).retried (regionOf k) := by
  refine ⟨State.hand_takenUp hs hk, fun none ⟨v, hv, hg⟩ => ?_⟩
  rw [State.hand_unsaved] at hv
  obtain ⟨-, here⟩ := State.place_unsaved hs hv (by rw [hg]; exact List.mem_map_of_mem hk)
  obtain ⟨n, hn, le⟩ := hh
  refine List.ne_nil_of_mem (a := s.store.called + 1) (State.mem_awaited.mpr ⟨?_, n, ?_, Nat.lt_succ_of_le le⟩)
  · rw [(State.hand_placed hs none).2]; exact here
  · rw [State.hand_since]; exact hn

/-- A commit point of no image lets no other hand its group. -/
theorem State.calls_nil : s.calls [] = { s with store := { s.store with called := s.store.called + 1 } } := by
  have none : s.store.overtaken s.handling.since [] = [] := by
    unfold Store.overtaken CommitPoint.holds; simp
  have stay : ∀ l : List CommitPoint, ∀ t : State, l.foldl (fun s _ => s.placeFirst fun _ => false) t = t := by
    intro l
    induction l with
    | nil => intro t; rfl
    | cons p l ih =>
      intro t
      have : t.placeFirst (fun _ => false) = t := by
        unfold State.placeFirst; rw [List.find?_eq_none.mpr (by simp)]
      rw [List.foldl_cons, this]; exact ih t
  have same : s.overtake [] = s := by
    unfold State.overtake State.placeThose
    simp only [none, List.contains_nil]
    exact stay _ _
  unfold State.calls
  rw [same]; simp

/-- A further commit point leaves the unsaved records of a region taken up, once the handling has done so. -/
theorem State.hand_keeps_retried {g : Region} (names : List RecKey) (hs : s.store.sound) (h : s.retried g) :
    (s.hand names).retried g := by
  have kept : (s.hand names).noneWaits → (∃ v ∈ s.store.unsaved, regionOf v = g) → s.awaited ≠ [] ∧
      s.hand names = ({ s with store := { s.store with called := s.store.called + 1 } } : State).place
        (s.store.called + 1) (names.map regionOf) [] := by
    intro none hv
    have waits := h.2 (State.hand_noneWaits none) hv
    obtain ⟨h1, e⟩ := State.hand_placed hs none
    rw [h1.resolve_left waits, State.calls_nil] at e
    exact ⟨waits, e⟩
  constructor
  · intro none v hv hg
    rw [State.hand_unsaved] at hv
    obtain ⟨i, held, hi⟩ := h.1 (State.hand_noneWaits none) v hv hg
    obtain ⟨-, e⟩ := kept none ⟨v, hv, hg⟩
    have image := State.image_store s { s.store with called := s.store.called + 1 } v
    rw [e]
    by_cases hm : v ∈ s.store.takesUp (names.map regionOf) []
    · exact ⟨_, State.place_takesUp hs.steady.numbered hm, fun _ => by rw [State.place_image]⟩
    · refine ⟨i, State.place_spares (by simp) hm held, fun hc => ?_⟩
      rw [State.place_image, image]
      exact hi fun hc' => hc (State.mem_place_changed.mpr ⟨hc', hm⟩)
  · intro none hv
    rw [State.hand_unsaved] at hv
    obtain ⟨waits, -⟩ := kept none hv
    obtain ⟨i, hi⟩ := List.exists_mem_of_ne_nil _ waits
    obtain ⟨hm, n, hn, lt⟩ := State.mem_awaited.mp hi
    exact List.ne_nil_of_mem (State.mem_awaited.mpr ⟨(State.hand_openIds names hs).1 i hm, n,
      by rw [State.hand_since]; exact hn, lt⟩)

/-- A commit point keeps the ledger. -/
theorem State.ledger.hand (h : b.ledger s) (names : List RecKey) : b.ledger (s.hand names) where
  since := (State.hand_since names).trans h.since
  sound := State.hand_sound names h.sound
  called := h.called.trans (by rw [State.hand_store_called]; omega)
  opens k := by
    obtain ⟨grow, new⟩ := State.hand_openIds names h.sound
    rw [h.opens k]
    constructor
    · rintro ⟨hk, le⟩; exact ⟨grow k hk, le⟩
    · rintro ⟨hk, le⟩
      refine ⟨(new k hk).resolve_right fun e => ?_, le⟩
      have := h.called; omega
  unsaved := (State.hand_unsaved names).trans h.unsaved
  marker hm k := by
    rw [State.hand_image]
    exact h.marker ((s.hand_makes names).2.2 hm) k
  accounts k := State.hand_accounts names h.sound (h.accounts k)
end

end Sys2Proof.Machine
end

-- ==== Sys2Proof/Proofs/minds ====
section
/-!
Every operation of the part minds the ledger of the handling in hand: a record it changes is noted, and a commit point
takes what is noted.
-/

namespace Sys2Proof.Machine

/-! ### Changing records -/

/-- Nothing is done to the store but that changes are noted: those of records with another image, at the least. -/
structure State.notes (s t : State) : Prop where
  since : t.handling.since = s.handling.since
  store : t.store = { s.store with changed := t.store.changed, marker := t.store.marker, dirty := t.store.dirty }
  changed : ∀ k ∈ s.store.changed, k ∈ t.store.changed
  image : ∀ k, t.image k ≠ s.image k → k ∈ t.store.changed ∧ t.store.marker = false
  marker : t.store.marker = true → s.store.marker = true

/-- The handling in hand stays, and its ledger with it. -/
structure State.minds (s t : State) : Prop where
  since : t.handling.since = s.handling.since
  called : s.store.called ≤ t.store.called
  ledger : ∀ b : State, b.ledger s → b.ledger t
  retried : ∀ g, s.store.sound → s.retried g → t.retried g
  sound : s.store.sound → t.store.sound

theorem State.minds_refl (s : State) : s.minds s :=
  ⟨rfl, le_refl _, fun _ h => h, fun _ _ h => h, id⟩

theorem State.minds.trans {s t u : State} (h : s.minds t) (k : t.minds u) : s.minds u where
  since := k.since.trans h.since
  called := h.called.trans k.called
  ledger b hb := k.ledger b (h.ledger b hb)
  retried g hs hg := k.retried g (h.sound hs) (h.retried g hs hg)
  sound := k.sound ∘ h.sound

theorem State.minds.handles {s t : State} (h : s.minds t) (hs : s.handles) : t.handles := by
  obtain ⟨n, hn, le⟩ := hs
  exact ⟨n, h.since.trans hn, le.trans h.called⟩

theorem State.notes.minds {s t : State} (h : s.notes t) : s.minds t := by
  have groups : t.store.groups = s.store.groups := by rw [h.store]
  have behind : t.store.behind = s.store.behind := by rw [h.store]
  have called : t.store.called = s.store.called := by rw [h.store]
  have unsaved : t.store.unsaved = s.store.unsaved := by rw [h.store]
  have count : t.store.count = s.store.count := by rw [h.store]
  have ids : t.store.openIds = s.store.openIds := by unfold Store.openIds; rw [groups, behind]
  have own : ∀ p, t.ownPoint p ↔ s.ownPoint p := fun p => by unfold State.ownPoint; rw [h.since]
  have none : t.noneWaits ↔ s.noneWaits := by unfold State.noneWaits; rw [behind]; simp only [own]
  have awaited : ∀ k, k ∈ t.awaited ↔ k ∈ s.awaited := fun k => by
    rw [State.mem_awaited, State.mem_awaited, ids, h.since]
  have sound : s.store.sound → t.store.sound := Store.sound_congr groups behind count called
  have image : ∀ k, k ∉ t.store.changed → t.image k = s.image k := fun k hk => by
    by_contra ne; exact hk (h.image k ne).1
  refine ⟨h.since, called.ge, fun b hb => ⟨h.since.trans hb.since, sound hb.sound, hb.called.trans called.ge, ?_,
    unsaved.trans hb.unsaved, ?_, ?_⟩, fun g _ hg => ⟨?_, ?_⟩, sound⟩
  · intro k; rw [ids]; exact hb.opens k
  · intro hm k
    refine Eq.trans ?_ (hb.marker (h.marker hm) k)
    by_contra ne
    rw [(h.image k ne).2] at hm
    cases hm
  · intro k
    by_cases hk : k ∈ t.store.changed
    · exact .inl hk
    have e := image k hk
    rcases hb.accounts k with h1 | ⟨h1, h2⟩ | ⟨⟨r, h1⟩, h2⟩ | ⟨p, hp, ho, w, hw, hk', hi⟩
    · exact absurd (h.changed k h1) hk
    · exact .inr (.inl ⟨e.trans h1, h2⟩)
    · refine .inr (.inr (.inl ⟨⟨r, by rw [groups, e]; exact h1⟩, fun p hp ho w hw hk' => ?_⟩))
      rw [e]
      exact h2 p (behind ▸ hp) (mt (own p).mpr ho) w hw hk'
    · exact .inr (.inr (.inr ⟨p, by rw [behind]; exact hp, (own p).mpr ho, w, hw, hk', hi.trans e.symm⟩))
  · intro hn v hv hr
    rw [unsaved] at hv
    obtain ⟨i, held, hi⟩ := hg.1 (none.mp hn) v hv hr
    refine ⟨i, by rw [groups]; exact held, fun hc => ?_⟩
    rw [image v hc]
    exact hi fun hc' => hc (h.changed v hc')
  · intro hn hv he
    rw [unsaved] at hv
    refine hg.2 (none.mp hn) hv (List.eq_nil_iff_forall_not_mem.mpr fun k hk => ?_)
    have := (awaited k).mpr hk
    rw [he] at this
    cases this

/-! ### Steps that note what they change -/

/-- The fields in which a record of the store stands, and the store. -/
def imageFields : List Field :=
  [.channels, .lots, .jobs, .seqCounter, .day, .rolls, .media, .check, .editions, .prices, .stripMode, .overhead, .store,
    .handling]

theorem State.image_congr {s t : State} (hc : t.channels = s.channels) (hl : t.lots = s.lots) (hj : t.jobs = s.jobs)
    (hn : t.seqCounter = s.seqCounter) (hd : t.day = s.day) (hr : t.rolls = s.rolls)
    (hg : t.media.geometry = s.media.geometry) (hp : t.check.plan = s.check.plan) (he : t.editions = s.editions)
    (ht : t.prices = s.prices) (hm : t.stripMode = s.stripMode) (ho : t.overhead = s.overhead) (k : RecKey) :
    t.image k = s.image k := by
  cases k <;> simp only [State.image, State.chan, State.lot?, State.job?, State.roll?, State.edition?, *]

/-- A step that leaves the records and the store alone notes nothing. -/
theorem State.within.notes {s t : State} {l : List Field} (h : s.within l t)
    (hl : ∀ f ∈ imageFields, f ∉ l := by decide) : s.notes t := by
  have store := h .store (hl _ (by decide))
  have store : t.store = s.store := store
  have handling : t.handling = s.handling := h .handling (hl _ (by decide))
  have image : ∀ k, t.image k = s.image k :=
    State.image_congr (h .channels (hl _ (by decide))) (h .lots (hl _ (by decide))) (h .jobs (hl _ (by decide)))
      (h .seqCounter (hl _ (by decide))) (h .day (hl _ (by decide))) (h .rolls (hl _ (by decide)))
      (congrArg Media.geometry (h .media (hl _ (by decide)))) (congrArg CheckUnit.plan (h .check (hl _ (by decide))))
      (h .editions (hl _ (by decide))) (h .prices (hl _ (by decide))) (h .stripMode (hl _ (by decide)))
      (h .overhead (hl _ (by decide)))
  exact ⟨by rw [handling], by rw [store], by rw [store]; exact fun _ => id, fun k ne => absurd (image k) ne,
    by rw [store]; exact id⟩

theorem State.within.minds {s t : State} {l : List Field} (h : s.within l t)
    (hl : ∀ f ∈ imageFields, f ∉ l := by decide) : s.minds t := (h.notes hl).minds

/-- A step that changes no image and leaves the store and the handling's start alone. -/
theorem State.minds_same {s t : State} (image : ∀ k, t.image k = s.image k) (store : t.store = s.store)
    (since : t.handling.since = s.handling.since) : s.minds t :=
  State.notes.minds ⟨since, by rw [store], by rw [store]; exact fun _ => id, fun k ne => absurd (image k) ne,
    by rw [store]; exact id⟩

theorem Store.mem_touch {st : Store} {k n : RecKey} : n ∈ (st.touch k).changed ↔ n = k ∨ n ∈ st.changed := by
  unfold Store.touch
  dsimp only
  split
  · rename_i h
    have h : k ∈ st.changed := by simpa using h
    exact ⟨.inr, fun o => o.elim (fun e => e ▸ h) id⟩
  · simp [or_comm]

/-- Noting a record after a change that reaches no other record. -/
theorem State.notes.noting {s u t : State} {k : RecKey} (h : s.notes u) (store : t.store = u.store)
    (since : t.handling.since = u.handling.since) (base : s.image k = u.image k)
    (image : ∀ n, n ≠ k → t.image n = u.image n) : s.notes (s.noting k t) := by
  have same : ∀ n, (s.noting k t).image n = t.image n := fun n => by
    unfold State.noting; split
    · rfl
    · exact State.image_store _ _ _
  refine ⟨by rw [State.noting_handling, since]; exact h.since, ?_, ?_, ?_, ?_⟩
  · rw [State.noting_store, store, h.store]
    split <;> rfl
  · intro n hn
    rw [State.noting_store, store]
    split
    · exact h.changed n hn
    · exact Store.mem_touch.mpr (.inr (h.changed n hn))
  · intro n ne
    rw [same] at ne
    rw [State.noting_store, store]
    by_cases hn : n = k
    · subst hn
      rw [if_neg ne]
      exact ⟨Store.mem_touch.mpr (.inl rfl), rfl⟩
    · rw [image n hn] at ne
      obtain ⟨h1, h2⟩ := h.image n ne
      split
      · exact ⟨h1, h2⟩
      · exact ⟨Store.mem_touch.mpr (.inr h1), rfl⟩
  · rw [State.noting_store, store]
    split
    · exact h.marker
    · intro e; cases e

theorem State.notes_refl (s : State) : s.notes s := ⟨rfl, rfl, fun _ => id, fun _ ne => absurd rfl ne, id⟩

/-- A change that reaches one record, noted. -/
theorem State.noting_minds {s t : State} {k : RecKey} (store : t.store = s.store) (since : t.handling.since = s.handling.since)
    (image : ∀ n, n ≠ k → t.image n = s.image n) : s.minds (s.noting k t) :=
  (s.notes_refl.noting store since rfl image).minds

variable (s : State)

/-! ### Writing records (Machine/Ops.lean) -/

theorem State.setJob_minds (j : Job) : s.minds (s.setJob j) :=
  State.noting_minds rfl rfl fun n hn => by
    cases n <;> try rfl
    rename_i tag
    have : tag ≠ j.tag := fun e => hn (congrArg RecKey.job e)
    simp only [State.image, State.job?, find_insertBy_ne this]

theorem State.setLot_minds (l : Lot) : s.minds (s.setLot l) :=
  State.noting_minds rfl rfl fun n hn => by
    cases n <;> try rfl
    rename_i code
    have : code ≠ l.code := fun e => hn (congrArg RecKey.lot e)
    simp only [State.image, State.lot?, find_insertBy_ne this]

theorem State.setRoll_minds (r : Roll) : s.minds (s.setRoll r) :=
  State.noting_minds rfl rfl fun n hn => by
    cases n <;> try rfl
    rename_i id
    have : id ≠ r.id := fun e => hn (congrArg RecKey.roll e)
    simp only [State.image, State.roll?, find_insertBy_ne this]

theorem State.modRoll_minds (n : Nat) (f : Roll → Roll) : s.minds (s.modRoll n f) := by
  unfold State.modRoll; split
  · exact s.setRoll_minds _
  · exact s.minds_refl

theorem State.setEdition_minds (e : Edition) : s.minds (s.setEdition e) :=
  State.noting_minds rfl rfl fun n hn => by
    cases n <;> try rfl
    rename_i id
    have : id ≠ e.id := fun x => hn (congrArg RecKey.edition x)
    simp only [State.image, State.edition?, find_insertBy_ne this]

/-- The image of a record but the two of channel `c` says nothing of channel `c`. -/
theorem State.image_setChannel {c : Chan} (ch : Channel) {n : RecKey} (h1 : n ≠ .channel c) (h2 : n ≠ .slots c) :
    ({ s with channels := s.channels.set c ch } : State).image n = s.image n := by
  have other : ∀ d : Chan, d ≠ c → ({ s with channels := s.channels.set c ch } : State).chan d = s.chan d := fun d hd => by
    have : c.val ≠ d.val := fun e => hd (Fin.ext e.symm)
    simp [State.chan, get_getElem, this]
  cases n <;> try rfl
  · rename_i d
    simp only [State.image, other d fun e => h1 (congrArg RecKey.channel e)]
  · rename_i d
    simp only [State.image, other d fun e => h2 (congrArg RecKey.slots e)]

theorem State.noting_image (t : State) (k n : RecKey) : (s.noting k t).image n = t.image n := by
  unfold State.noting; split
  · rfl
  · exact State.image_store _ _ _

/-- Noting adds the record at most, and erases the marker where it does. -/
theorem State.noting_notes (t : State) (k : RecKey) : (s.noting k t).store =
      { t.store with changed := (s.noting k t).store.changed, marker := (s.noting k t).store.marker } ∧
    (∀ n ∈ t.store.changed, n ∈ (s.noting k t).store.changed) ∧
    (t.image k ≠ s.image k → k ∈ (s.noting k t).store.changed ∧ (s.noting k t).store.marker = false) ∧
    ((s.noting k t).store.marker = true → t.store.marker = true) := by
  rw [State.noting_store]
  split
  · rename_i h
    exact ⟨rfl, fun _ => id, fun ne => absurd h ne, id⟩
  · exact ⟨rfl, fun n hn => Store.mem_touch.mpr (.inr hn), fun _ => ⟨Store.mem_touch.mpr (.inl rfl), rfl⟩,
      fun e => by cases e⟩

/-- A changed channel is noted in its two parts. -/
theorem State.setChan_minds (c : Chan) (ch : Channel) : s.minds (s.setChan c ch) := by
  unfold State.setChan
  dsimp only
  have other := fun n => s.image_setChannel (c := c) ch (n := n)
  generalize hu : ({ s with channels := s.channels.set c ch } : State) = u at *
  have store : u.store = s.store := by rw [← hu]
  have since : u.handling = s.handling := by rw [← hu]
  obtain ⟨a1, a2, a3, a4⟩ := s.noting_notes u (.channel c)
  obtain ⟨b1, b2, b3, b4⟩ := s.noting_notes (s.noting (.channel c) u) (.slots c)
  refine State.notes.minds ⟨by rw [State.noting_handling, State.noting_handling, since], ?_, ?_, ?_, ?_⟩
  · rw [b1, a1, store]
  · intro k hk
    exact b2 k (a2 k (by rw [store]; exact hk))
  · intro k ne
    by_cases h1 : k = .slots c
    · subst h1
      rw [State.noting_image] at ne
      exact b3 ne
    · rw [State.noting_image, State.noting_image] at ne
      obtain rfl : k = .channel c := by
        by_contra h2
        exact ne (other k h2 h1)
      obtain ⟨m1, m2⟩ := a3 ne
      refine ⟨b2 _ m1, Bool.eq_false_iff.mpr fun e => ?_⟩
      rw [b4 e] at m2
      cases m2
  · intro e
    rw [← store]
    exact a4 (b4 e)

theorem State.modChan_minds (c : Chan) (f : Channel → Channel) : s.minds (s.modChan c f) := s.setChan_minds c _

theorem State.setCounters_minds (n d : Nat) (o : Overhead) : s.minds (s.setCounters n d o) :=
  State.noting_minds rfl rfl fun n hn => by
    cases n <;> first | rfl | exact absurd rfl hn

theorem State.setOverhead_minds (o : Overhead) : s.minds (s.setOverhead o) := s.setCounters_minds _ _ _

theorem State.hand_minds (l : List RecKey) : s.minds (s.hand l) where
  since := State.hand_since l
  called := by rw [State.hand_store_called]; omega
  ledger _ hb := hb.hand l
  retried _ hs hg := State.hand_keeps_retried l hs hg
  sound := State.hand_sound l

theorem State.commit_minds (l : List RecKey) : s.minds (s.commit l) := by
  rcases s.commit_cases l with ⟨-, e⟩ | ⟨g, -, e⟩ <;> rw [e]
  · exact s.hand_minds l
  · exact State.minds_same (fun k => State.image_congr rfl rfl rfl rfl rfl rfl rfl rfl rfl rfl rfl rfl k) rfl rfl

theorem minds_foldl {α : Type} (f : State → α → State) (h : ∀ (s : State) (a : α), s.minds (f s a)) (as : List α)
    (s : State) : s.minds (as.foldl f s) := by
  induction as generalizing s with
  | nil => exact s.minds_refl
  | cons a as ih => exact (h s a).trans (ih _)

theorem minds_ite {s t u : State} {p : Prop} [Decidable p] (h : s.minds t) (k : s.minds u) :
    s.minds (if p then t else u) := by split <;> assumption


theorem State.raise_minds (u : Subject) (d : Detail) : s.minds (s.raise u d) := (s.raise_within u d).minds
theorem State.raiseBehind_minds (u : Subject) (d : Detail) : s.minds (s.raiseBehind u d) := by
  unfold State.raiseBehind; split
  · exact State.minds_same (fun k => State.image_congr rfl rfl rfl rfl rfl rfl rfl rfl rfl rfl rfl rfl k) rfl rfl
  · exact s.raise_minds u d

/-- A dirty mark is no change of a record (R195). -/
theorem State.markDirty_minds (k : RecKey) : s.minds (s.markDirty k) := by
  unfold State.markDirty; split
  · exact s.minds_refl
  · exact State.notes.minds ⟨rfl, rfl, fun _ => id, fun n ne => absurd (State.image_store s _ n) ne, fun e => by cases e⟩

theorem State.handGathered_minds : s.minds s.handGathered := by
  have h : ({ s with handling := { s.handling with gathered := none } } : State).minds s.handGathered := by
    unfold State.handGathered
    exact (minds_foldl _ State.commit_minds _ _).trans (minds_foldl _ (fun s n => s.raise_minds _ _) _ _)
  refine State.minds.trans ?_ h
  exact State.minds_same (fun k => State.image_congr rfl rfl rfl rfl rfl rfl rfl rfl rfl rfl rfl rfl k) rfl rfl
theorem State.send_minds (o : Output) : s.minds (s.send o) := (s.send_within o).minds
theorem State.setMedia_minds (f : Media → Media) (h : (f s.media).geometry = s.media.geometry := by rfl) :
    s.minds (s.setMedia f) :=
  State.minds_same
    (fun k => State.image_congr (s := s) (t := s.setMedia f) rfl rfl rfl rfl rfl rfl h rfl rfl rfl rfl rfl k) rfl rfl
theorem State.setCheck_minds (c : CheckUnit) (h : c.plan = s.check.plan := by rfl) : s.minds { s with check := c } :=
  State.minds_same (fun k => State.image_congr (s := s) (t := { s with check := c })
    rfl rfl rfl rfl rfl rfl rfl h rfl rfl rfl rfl k) rfl rfl

/-! ### Holdings (Machine/Holdings.lean) -/

/-- No reserved total stands in the store (R191). -/
theorem State.moveInk_minds (a b : Vec12) : s.minds (s.moveInk a b) := by
  refine State.minds_same (fun k => ?_) rfl rfl
  have image : ∀ c, (s.moveInk a b).chan c = { s.chan c with reserved := (s.chan c).reserved + b.get c - a.get c } :=
    s.chan_moveInk a b
  cases k <;> try rfl
  · simp only [State.image, image]; rfl
  · simp only [State.image, image]
theorem State.moveChanInk_minds (c : Chan) (a b : Nat) : s.minds (s.moveChanInk c a b) := s.modChan_minds ..
theorem State.moveRoll_minds (id a b : Nat) : s.minds (s.moveRoll id a b) := s.modRoll_minds _ _
theorem State.release_minds (j : Job) : s.minds (s.release j) := (s.moveInk_minds _ _).trans (State.moveRoll_minds _ _ _ _)
theorem State.withdraw_minds (j : Job) (r : Resource) : s.minds (s.withdraw j r) :=
  (((s.release_minds j).trans (State.setJob_minds _ _)).trans (State.raise_minds _ _ _)).trans (State.commit_minds _ _)
theorem withdrawWhile_minds (p : State → Bool) (q : Job → Bool) (r : Resource) (n : Nat) :
    s.minds (withdrawWhile p q r n s) := by
  induction n generalizing s with
  | zero => exact s.minds_refl
  | succ n ih =>
    unfold withdrawWhile
    split
    · split
      · exact (s.withdraw_minds _ r).trans (ih _)
      · exact s.minds_refl
    · exact s.minds_refl

theorem State.trimInk_minds (c : Chan) : s.minds (s.trimInk c) := by
  unfold State.trimInk
  split
  · exact s.minds_refl
  · exact minds_ite s.minds_refl (((s.moveChanInk_minds _ _ _).trans (State.setJob_minds _ _)).trans
      (State.commit_minds _ _))
theorem State.trimRoll_minds (id : Nat) : s.minds (s.trimRoll id) := by
  unfold State.trimRoll
  split
  · exact minds_ite s.minds_refl (((s.moveRoll_minds _ _ _).trans (State.setJob_minds _ _)).trans
      (State.commit_minds _ _))
  · exact s.minds_refl
theorem State.enforceRoll_minds (id : Nat) : s.minds (s.enforceRoll id) :=
  (withdrawWhile_minds s _ _ _ _).trans (State.trimRoll_minds _ id)

/-! ### Settlement (Machine/Settle.lean) -/

theorem State.costAndCarry_minds (j : Job) : s.minds (s.costAndCarry j) := by
  unfold State.costAndCarry
  simp only
  split
  · split
    · exact ((s.setOverhead_minds _).trans (State.setEdition_minds _ _)).trans (State.setJob_minds _ _)
    · exact (s.setOverhead_minds _).trans (State.setJob_minds _ _)
  · refine State.minds.trans ?_ (State.setJob_minds _ _)
    exact minds_ite ((s.setOverhead_minds _).trans (State.setOverhead_minds _ _)) (s.setOverhead_minds _)
theorem State.forgetMerged_minds (n : Nat) : s.minds (s.forgetMerged n) := (s.forgetMerged_within n).minds
theorem State.raiseJobState_minds (n : Nat) : s.minds (s.raiseJobState n) := by
  unfold State.raiseJobState; split
  · exact s.raiseBehind_minds _ _
  · exact s.minds_refl
theorem State.settle_minds (j : Job) : s.minds (s.settle j) := by
  unfold State.settle
  exact (((s.costAndCarry_minds _).trans (State.commit_minds _ _)).trans (State.forgetMerged_minds _ _)).trans
    (State.raiseJobState_minds _ _)
theorem State.settleTest_minds (n : Nat) : s.minds (s.settleTest n) := by
  unfold State.settleTest; split
  · exact minds_ite (s.settle_minds _) s.minds_refl
  · exact s.minds_refl
theorem State.finish_minds (n : Nat) : s.minds (s.finish n) := by
  unfold State.finish; split
  · exact (((s.release_minds _).trans (State.setJob_minds _ _)).trans (State.commit_minds _ _)).trans
      (State.raiseJobState_minds _ _)
  · exact s.minds_refl

/-! ### Editions (Machine/EditionOps.lean) -/

theorem State.lockEdition_minds (e : Edition) (c : LockCause) (h : Option Chan) : s.minds (s.lockEdition e c h) :=
  ((s.setEdition_minds _).trans (State.raise_minds _ _ _)).trans (State.commit_minds _ _)
theorem State.treatEdition_minds (e : Edition) (c : LockCause) (h : Chan) : s.minds (s.treatEdition e c h) := by
  unfold State.treatEdition; split
  · exact s.lockEdition_minds _ _ _
  · exact s.lockEdition_minds _ _ _
  · exact minds_ite s.minds_refl ((s.setEdition_minds _).trans (State.commit_minds _ _))
  · exact s.minds_refl
theorem State.treatChannel_minds (c : LockCause) (h : Chan) : s.minds (s.treatChannel c h) :=
  minds_foldl _ (fun s e => s.treatEdition_minds e c h) _ _

/-! ### Ink (Machine/Ink.lean) -/

theorem State.evalExpired_minds (c : Chan) : s.minds (s.evalExpired c) := s.modChan_minds _ _
theorem State.flagLotChanged_minds (c : Chan) : s.minds (s.flagLotChanged c) := by
  unfold State.flagLotChanged; split
  · exact minds_ite (s.setJob_minds _) s.minds_refl
  · exact s.minds_refl
theorem State.lotChange_minds (v : ChangeBy) (c : Chan) (a b : Nat) : s.minds (s.lotChange v c a b) :=
  ((((s.evalExpired_minds c).trans (State.raise_minds _ _ _)).trans (State.treatChannel_minds _ _ _)).trans
    (State.flagLotChanged_minds _ _)).trans (State.commit_minds _ _)
theorem State.nextActive_minds (v : ChangeBy) (c : Chan) (t : TankSlot) (n : Nat) : s.minds (s.nextActive v c t n) := by
  have h : s.minds ((s.setActive c none).evalExpired c) := (s.modChan_minds _ _).trans (State.evalExpired_minds _ _)
  unfold State.nextActive; split
  · exact minds_ite ((s.modChan_minds _ _).trans (State.lotChange_minds _ _ _ _ _)) h
  · exact h
theorem State.exhaustActive_minds (v : ChangeBy) (c : Chan) (t : TankSlot) (n : Nat) : s.minds (s.exhaustActive v c t n) :=
  minds_ite (s.nextActive_minds v c t n) ((s.nextActive_minds v c t n).trans (State.commit_minds _ _))
theorem State.book_minds (k : Option SwathKind) (l : Lot) (v : Nat) : s.minds (s.book k l v) :=
  (s.markDirty_minds _).trans (State.setLot_minds _ _)
theorem State.drawActive_minds (k : Option SwathKind) (c : Chan) (v : Nat) : s.minds (s.drawActive k c v).1 := by
  unfold State.drawActive; split
  · simp only; split
    · exact s.minds_refl
    · exact minds_ite ((s.book_minds _ _ _).trans (State.exhaustActive_minds _ _ _ _ _)) (s.book_minds _ _ _)
  · exact s.minds_refl
theorem State.drawChannel_minds (k : Option SwathKind) (c : Chan) (v : Nat) : s.minds (s.drawChannel k c v).1 :=
  (s.drawActive_minds k c v).trans (State.drawActive_minds _ _ _ _)

theorem State.noteMerged_minds (j : Job) (c : Chan) (p : List Part) : s.minds (s.noteMerged j c p) :=
  (s.noteMerged_within j c p).minds
theorem State.chargeJob_minds (tag : Nat) (k : SwathKind) (c : Chan) (v : Nat) (p : List Part) :
    s.minds (s.chargeJob tag k c v p) := by
  unfold State.chargeJob; split
  · exact ((s.moveChanInk_minds _ _ _).trans (State.setJob_minds _ _)).trans (State.noteMerged_minds _ _ _ _)
  · exact s.minds_refl
theorem State.chargeMaintenance_minds (p : List Part) : s.minds (s.chargeMaintenance p) :=
  minds_foldl _ (fun s _ => s.setOverhead_minds _) _ _
theorem State.applyChannel_minds (j : Option (Nat × SwathKind)) (c : Chan) (v n : Nat) :
    s.minds (s.applyChannel j c v n) := by
  unfold State.applyChannel
  refine minds_ite (s.modChan_minds _ _) (State.minds.trans ?_ (State.modChan_minds _ _ _))
  cases j with
  | none => exact (s.drawChannel_minds _ c v).trans (State.chargeMaintenance_minds _ _)
  | some p => exact (s.drawChannel_minds _ c v).trans (State.chargeJob_minds _ _ _ _ _ _)

/-! ### Checks (Machine/CheckOps.lean) -/

theorem State.missCheck_minds (tag : Nat) (w : MissedReason) : s.minds (s.missCheck tag w) := by
  unfold State.missCheck; split
  · rename_i j _
    dsimp only
    have h := (s.setJob_minds { j with strip := .resolved, flags := { j.flags with unchecked := true } }).trans
      (State.raise_minds _ (.num tag) (.checkMissed w))
    split
    · exact h.trans (State.setCheck_minds _ _)
    · exact h
  · exact s.minds_refl
theorem State.missUnread_minds (tag : Nat) (w : MissedReason) : s.minds (s.missUnread tag w) := by
  unfold State.missUnread; split
  · exact minds_ite (s.missCheck_minds _ _) s.minds_refl
  · exact s.minds_refl
theorem State.supersede_minds : s.minds s.supersede := by
  unfold State.supersede; split
  · exact (((s.missCheck_minds _ _).trans (State.setCheck_minds _ _)).trans (State.commit_minds _ _)).trans
      (State.settleTest_minds _ _)
  · exact s.minds_refl
theorem State.arrive_minds (tag : Nat) : s.minds (s.arrive tag) := by
  unfold State.arrive; split
  · refine minds_ite ?_ s.minds_refl
    unfold State.armFor; simp only; split
    · exact (s.supersede_minds.trans (State.setCheck_minds _ _)).trans (State.send_minds _ _)
    · exact s.supersede_minds
  · exact s.minds_refl

/-! ### Cuts (Machine/Cuts.lean) -/

theorem State.startCut_minds : s.minds s.startCut := by
  unfold State.startCut; split
  · exact minds_ite ((s.setMedia_minds _).trans (State.send_minds _ _)) s.minds_refl
  · exact s.minds_refl
theorem State.sendStop_minds : s.minds s.sendStop := s.send_minds _
theorem State.planCuts_minds (es : List CutEntry) : s.minds (s.planCuts es) := by
  unfold State.planCuts; split
  · rename_i last r _ _
    have h := (s.setMedia_minds fun m => { m with queue := m.queue ++ es }).trans
      (State.setRoll_minds _ { r with boundary := last.point })
    exact minds_ite ((h.trans (State.sendStop_minds _)).trans (State.startCut_minds _)) h
  · exact s.minds_refl
theorem State.followFeed_minds (n : Nat) (b : Bool) : s.minds (s.followFeed n b) := by
  unfold State.followFeed; split
  · exact (s.moveRoll_minds _ _ _).trans (State.setJob_minds _ _)
  · exact s.minds_refl
theorem State.stripTest_minds (n : Nat) : s.minds (s.stripTest n) :=
  (s.setMedia_minds _).trans (minds_foldl _ (fun s t => s.arrive_minds t) _ _)
theorem State.moveFeed_minds (r : Roll) (n : Nat) (b : Bool) : s.minds (s.moveFeed r n b) :=
  minds_ite s.minds_refl (((s.markDirty_minds _).trans (State.setRoll_minds _ _)).trans (State.followFeed_minds _ _ _))
theorem State.applyFeed_minds (r : Roll) (d : Int) : s.minds (s.applyFeed r d) :=
  (((s.moveFeed_minds r _ _).trans (State.enforceRoll_minds _ r.id)).trans (State.startCut_minds _)).trans
    (State.stripTest_minds _ _)

end Sys2Proof.Machine
end

-- ==== Sys2Proof/Proofs/taken ====
section
/-!
What the ledger of a handling says at its end: the records it has committed (R193, R199) and the notices it has raised
(R194, R215), in the terms of the claims.
-/

namespace Sys2Proof.Machine

/-! ### Records committed -/

/-- Record `k` has no change that no commit point has taken, and the unsaved records of its region are taken up. -/
def State.done (s : State) (k : RecKey) : Prop := s.saved k ∧ s.retried (regionOf k)

/-- What a handling leaves of a record it has taken: committed, in the words of the claims (R193, R196, R199). -/
theorem State.ledger.commits_of_takenUp {b t : State} {k : RecKey} (h : b.ledger t) (saved : t.saved k)
    (taken : t.takenUp (regionOf k)) : b.commits t k := by
  have hand : ∀ w ∈ t.store.groups.flatMap OpenGroup.writes, w ∈ t.store.inHand := fun w hw => List.mem_append_left _ hw
  refine ⟨saved, fun changed => ⟨?_, fun none u hu hr => ?_⟩, fun ne => Bool.eq_false_iff.mpr fun hm => ne (h.marker hm k)⟩
  · rcases h.accounts k with h1 | ⟨h1, h2⟩ | ⟨⟨r, w, hw, hk, hi, -⟩, -⟩ | ⟨p, hp, -, w, hw, hk, hi⟩
    · exact absurd h1 saved
    · exact absurd (changed.resolve_left h2) (not_not_intro h1)
    · exact ⟨w, hand w hw, hk, hi⟩
    · exact ⟨w, List.mem_append_right _ (List.mem_flatMap.mpr ⟨p, hp, hw⟩), hk, hi⟩
  · obtain ⟨i, ⟨w, hw, hk, hi, hret, -⟩, same⟩ := taken (by unfold State.noneWaits; rw [none]; simp) u
      (by rw [h.unsaved]; exact hu) hr
    exact ⟨w, hand w hw, hk, hret, fun hc => hi.trans (same hc)⟩

theorem State.ledger.commits {b t : State} {k : RecKey} (h : b.ledger t) (d : t.done k) : b.commits t k :=
  h.commits_of_takenUp d.1 d.2.1

theorem State.commits_congr {s b t u : State} {k : RecKey} (h : b.commits u k) (hs : b.store = s.store)
    (hi : ∀ k, b.image k = s.image k) (ht : t.store = u.store) (hj : ∀ k, t.image k = u.image k) : s.commits t k := by
  unfold State.commits State.saved at *
  rw [ht, ← hs]
  simp only [hj, ← hi]
  exact h

theorem State.minds.done {s t : State} {k : RecKey} (h : s.minds t) (hs : s.store.sound) (hd : s.done k)
    (saved : t.saved k) : t.done k := ⟨saved, h.retried _ hs hd.2⟩

/-- A commit point outside a gathering takes the records it names. -/
theorem State.commit_done {s : State} (hg : s.handling.gathered = none) (hs : s.store.sound) (hh : s.handles)
    {names : List RecKey} {k : RecKey} (hk : k ∈ names) : (s.commit names).done k := by
  rw [State.commit_now hg]
  exact ⟨s.hand_saved hk, State.hand_retried hs hh hk⟩

/-- A commit point loses none of those taken. -/
theorem State.done.commit {s : State} {k : RecKey} (h : s.done k) (hs : s.store.sound) (names : List RecKey) :
    (s.commit names).done k := (s.commit_minds names).done hs h (State.saved_commit h.1)

/-- A change of one record leaves the others as they were committed. -/
theorem State.noting_saved {s t : State} {k n : RecKey} (h : t.saved n) (hn : n ≠ k) : (s.noting k t).saved n := by
  unfold State.saved
  rw [State.noting_store]
  split
  · exact h
  · exact fun e => (Store.mem_touch.mp e).elim hn h

/-! ### Notices raised -/

theorem NoticeQueue.takes_append {q r : NoticeQueue} {opens : List Nat} {l m : List (Nat × Subject × Detail)} :
    q.takes opens (l ++ m) r ↔ ∃ x, q.takes opens l x ∧ x.takes opens m r := by
  induction l generalizing q with
  | nil => exact ⟨fun h => ⟨q, rfl, h⟩, fun ⟨_, e, h⟩ => e ▸ h⟩
  | cons n l ih =>
    simp only [List.cons_append, NoticeQueue.takes]
    constructor
    · rintro ⟨after, ha, h⟩
      obtain ⟨x, h1, h2⟩ := ih.mp h
      exact ⟨x, ⟨after, ha, h1⟩, h2⟩
    · rintro ⟨x, ⟨after, ha, h1⟩, h2⟩
      exact ⟨after, ha, ih.mpr ⟨x, h1, h2⟩⟩

/-- Later commit points do not change what the notices wait for. -/
theorem NoticeQueue.takes_congr {q r : NoticeQueue} {a b : List Nat} {l : List (Nat × Subject × Detail)}
    (h : ∀ n ∈ l, ∀ k, k ≤ n.1 → (k ∈ a ↔ k ∈ b)) (ht : q.takes a l r) : q.takes b l r := by
  induction l generalizing q with
  | nil => exact ht
  | cons n l ih =>
    obtain ⟨after, ha, ht⟩ := ht
    refine ⟨after, fun k => (ha k).trans ?_, ih (fun m hm => h m (List.mem_cons_of_mem _ hm)) ht⟩
    exact and_congr_left fun hk => h n List.mem_cons_self k hk

/-- Since `b` the notices of `l` were raised, each with the number of the last commit point made before it. -/
def State.heard (b s : State) (l : List (Nat × Subject × Detail)) : Prop :=
  b.notices.takes s.awaited l s.notices ∧ ∀ n ∈ l, n.1 ≤ s.store.called

theorem State.heard_refl (s : State) : s.heard s [] := ⟨rfl, by simp⟩

/-- The commit points not complete, and numbered up to the last one made before, are the ones before. -/
theorem State.minds.awaited {s t : State} (h : s.minds t) (hs : s.store.sound) {k : Nat} (hk : k ≤ s.store.called) :
    k ∈ s.awaited ↔ k ∈ t.awaited := by
  have opens := (h.ledger s (State.ledger_refl hs)).opens k
  rw [State.mem_awaited, State.mem_awaited, h.since, opens]
  simp only [hk, and_true]

/-- A step that raises nothing. -/
theorem State.heard.minds {b s t : State} {l : List (Nat × Subject × Detail)} (h : b.heard s l) (m : s.minds t)
    (hs : s.store.sound) (hn : t.notices = s.notices) : b.heard t l := by
  refine ⟨?_, fun n hm => (h.2 n hm).trans m.called⟩
  rw [hn]
  exact NoticeQueue.takes_congr (fun n hm k hk => m.awaited hs (hk.trans (h.2 n hm))) h.1

/-- A notice raised. -/
theorem State.heard.raise {b s : State} {l : List (Nat × Subject × Detail)} (h : b.heard s l) (hs : s.store.sound)
    (u : Subject) (d : Detail) : b.heard (s.raise u d) (l ++ [(s.store.called, u, d)]) := by
  refine ⟨NoticeQueue.takes_append.mpr ⟨s.notices, h.1, s.awaited, fun k => ?_, rfl⟩, ?_⟩
  · exact (and_iff_left_of_imp fun hk => hs.called (State.awaited_mem hk)).symm
  · intro n hn
    rcases List.mem_append.mp hn with hn | hn
    · exact h.2 n hn
    · rw [List.mem_singleton.mp hn]; exact le_refl _

/-- What a handling begun at `s` has raised, with the numbers of its own commit points (R194). -/
theorem State.heard.noticed {s b t u : State} {l m : List (Nat × Subject × Detail)} (h : b.heard u m)
    (hb : b.notices = s.notices) (hc : u.handling.since = some s.store.called) (hn : t.notices = u.notices)
    (ht : t.store = u.store) (hl : m = l.map fun n => (s.store.called + n.1, n.2)) : s.noticed t l := by
  have awaited : u.awaited = t.store.openAbove s.store.called := by unfold State.awaited; rw [hc, ht]; rfl
  unfold State.noticed
  rw [← awaited, ← hb, hn, ← hl]
  exact h.1

/-! ### Requests -/

theorem Store.hands.called {a b : Store} {n : Nat} (h : a.hands b n) : b.called = a.called + n := by rw [h.1]

/-- The handling of a request: what its block begins with. -/
def State.opened (s : State) : State := s.quiet.beginHandling

theorem State.opened_handles (s : State) : s.opened.handles := ⟨_, rfl, le_refl _⟩

theorem State.opened_image (s : State) (k : RecKey) : s.opened.image k = s.image k :=
  State.image_congr rfl rfl rfl rfl rfl rfl rfl rfl rfl rfl rfl rfl k

/-- What a request leaves: the state its block leaves, with the port answered and the handling ended. -/
def State.closed (u s : State) (p : Port) : State := { u with handling := s.handling, port := p }

theorem State.closed_image (u s : State) (p : Port) (k : RecKey) : (u.closed s p).image k = u.image k :=
  State.image_congr rfl rfl rfl rfl rfl rfl rfl rfl rfl rfl rfl rfl k

section
variable (s u : State) (p : Port)
theorem State.opened_job (n : Nat) : s.opened.job? n = s.job? n := rfl
theorem State.opened_roll (n : Nat) : s.opened.roll? n = s.roll? n := rfl
theorem State.opened_chan (c : Chan) : s.opened.chan c = s.chan c := rfl
theorem State.closed_job (n : Nat) : (u.closed s p).job? n = u.job? n := rfl
theorem State.closed_roll (n : Nat) : (u.closed s p).roll? n = u.roll? n := rfl
theorem State.closed_chan (c : Chan) : (u.closed s p).chan c = u.chan c := rfl
end

/-- A ready request leaves what its block leaves (R194, R211, R213). -/
theorem exec_taken {s u : State} (hr : s.ready) {i : Instr} {code seq : Nat} {f : State → Reply} {st : Status} {b : Body}
    (hi : requestParts i = some (code, seq, f)) (hf : f s.opened = ⟨u, st, b⟩) (hp : u.port = s.port) :
    ∃ p, exec i s = .next (u.closed s p) ∧ s.answered (u.closed s p) code seq st b := by
  obtain ⟨p, e, a⟩ := State.request_taken hr code seq hf hp
  exact ⟨p, by rw [exec_request hi, e]; rfl, a⟩

/-- A field of the state that may have changed, or has not. -/
def Field.pick {α : Type} (l : List Field) (f : Field) (new old : α) : α := if l.contains f then new else old

theorem Field.pick_eq {α : Type} {l : List Field} {f : Field} {new old : α} (h : f ∉ l → new = old) :
    f.pick l new old = new := by
  unfold Field.pick
  split
  · rfl
  · rename_i hf; exact (h (by simpa using hf)).symm

/-- A state that differs in the fields of `l` at most, written out. -/
theorem State.frame {s t : State} {l : List Field} (h : s.within l t) :
    t = { pending := Field.pick l .pending t.pending s.pending, phase := Field.pick l .phase t.phase s.phase
          cause := Field.pick l .cause t.cause s.cause, pfail := Field.pick l .pfail t.pfail s.pfail
          port := Field.pick l .port t.port s.port, notices := Field.pick l .notices t.notices s.notices
          head := Field.pick l .head t.head s.head, channels := Field.pick l .channels t.channels s.channels
          lots := Field.pick l .lots t.lots s.lots, jobs := Field.pick l .jobs t.jobs s.jobs
          seqCounter := Field.pick l .seqCounter t.seqCounter s.seqCounter, day := Field.pick l .day t.day s.day
          rolls := Field.pick l .rolls t.rolls s.rolls, media := Field.pick l .media t.media s.media
          check := Field.pick l .check t.check s.check, editions := Field.pick l .editions t.editions s.editions
          prices := Field.pick l .prices t.prices s.prices
          pricesBad := Field.pick l .pricesBad t.pricesBad s.pricesBad
          stripMode := Field.pick l .stripMode t.stripMode s.stripMode
          overhead := Field.pick l .overhead t.overhead s.overhead, merged := Field.pick l .merged t.merged s.merged
          store := Field.pick l .store t.store s.store, handling := Field.pick l .handling t.handling s.handling
          out := Field.pick l .out t.out s.out, fresh := Field.pick l .fresh t.fresh s.fresh } :=
  State.ext (Field.pick_eq (h .pending)).symm (Field.pick_eq (h .phase)).symm (Field.pick_eq (h .cause)).symm
    (Field.pick_eq (h .pfail)).symm (Field.pick_eq (h .port)).symm (Field.pick_eq (h .notices)).symm
    (Field.pick_eq (h .head)).symm (Field.pick_eq (h .channels)).symm (Field.pick_eq (h .lots)).symm
    (Field.pick_eq (h .jobs)).symm (Field.pick_eq (h .seqCounter)).symm (Field.pick_eq (h .day)).symm
    (Field.pick_eq (h .rolls)).symm (Field.pick_eq (h .media)).symm (Field.pick_eq (h .check)).symm
    (Field.pick_eq (h .editions)).symm (Field.pick_eq (h .prices)).symm (Field.pick_eq (h .pricesBad)).symm
    (Field.pick_eq (h .stripMode)).symm (Field.pick_eq (h .overhead)).symm (Field.pick_eq (h .merged)).symm
    (Field.pick_eq (h .store)).symm (Field.pick_eq (h .handling)).symm (Field.pick_eq (h .out)).symm
    (Field.pick_eq (h .fresh)).symm

/-- Beside its block's fields a request changes the port and the messages sent. -/
theorem State.closed_within {s u : State} {l : List Field} (h : s.opened.within l u) (p : Port) (m : List Field)
    (hm : Field.port :: l.filter (· ≠ .handling) ⊆ m := by decide) : s.quiet.within m (u.closed s p) := by
  intro f hf
  by_cases h1 : f = .port
  · exact absurd (hm (h1 ▸ List.mem_cons_self)) hf
  by_cases h2 : f = .handling
  · subst h2; rfl
  have same := h f fun hl => hf (hm (List.mem_cons_of_mem _ (List.mem_filter.mpr ⟨hl, by simpa using h2⟩)))
  cases f <;> first | exact absurd rfl h1 | exact absurd rfl h2 | (simp only [Field.same] at same ⊢; exact same)

/-- The records a request's block has taken are committed. -/
theorem State.minds.commits {s u : State} {k : RecKey} (h : s.opened.minds u) (hs : s.sound) (hd : u.done k) (p : Port) :
    s.commits (u.closed s p) k :=
  State.commits_congr ((h.ledger _ (State.ledger_refl hs.2.2.2.2.2.1)).commits hd) rfl s.opened_image rfl (u.closed_image s p)

/-- The notices a request's block has raised. -/
theorem State.heard.requested {s u : State} {m : List (Nat × Subject × Detail)} (l : List (Nat × Subject × Detail))
    (h : s.opened.heard u m) (hm : s.opened.minds u) (p : Port) (hl : m = l.map fun n => (s.store.called + n.1, n.2)) :
    s.noticed (u.closed s p) l := h.noticed rfl hm.since rfl rfl hl

/-- A request whose block changes records and then makes one commit point (R193, R194): what it leaves is what the changes
leave, but for the store and the port. -/
theorem exec_committed {s v : State} (hr : s.ready) (hs : s.sound) {i : Instr} {code seq : Nat} {f : State → Reply}
    {st : Status} {b : Body} {names : List RecKey} {l : List Field} (hi : requestParts i = some (code, seq, f))
    (hf : f s.opened = ⟨v.commit names, st, b⟩) (mind : s.opened.minds v) (hands : s.store.hands v.store 0)
    (hw : s.opened.within l v) (m : List Field) (hl : Field.handling ∉ l ∧ Field.port ∉ l := by decide)
    (hm : [Field.port, .store] ++ l ⊆ m := by decide) :
    ∃ t, exec i s = .next t ∧ v.within [.store, .handling, .port] t ∧ s.quiet.within m t ∧ s.answered t code seq st b ∧
      (∀ k ∈ names, s.commits t k) ∧ s.store.hands t.store 1 := by
  have gathered : v.handling.gathered = none := congrArg Handling.gathered (hw .handling hl.1)
  have stays := v.commit_within names
  obtain ⟨p, e, a⟩ := exec_taken hr hi hf ((stays .port (by decide)).trans (hw .port hl.2))
  refine ⟨_, e, fun f hf => ?_, State.closed_within (hw.next (.store :: .handling :: l) stays ?_ ?_) p m ?_, a,
    fun k hk => ?_, State.commit_hands hands gathered _⟩
  · have same := stays f fun h => hf (by revert h; cases f <;> simp)
    cases f <;> first | exact same | exact absurd (by decide) hf
  · intro f hf; exact List.mem_cons_of_mem _ (List.mem_cons_of_mem _ hf)
  · intro f hf; revert hf; cases f <;> simp
  · intro f hf
    rcases List.mem_cons.mp hf with rfl | hf
    · exact hm (by simp)
    obtain ⟨hf, ne⟩ := List.mem_filter.mp hf
    rcases List.mem_cons.mp hf with rfl | hf
    · exact hm (by simp)
    rcases List.mem_cons.mp hf with rfl | hf
    · simp at ne
    · exact hm (List.mem_append_right _ hf)
  · exact (mind.trans (v.commit_minds names)).commits hs
      (State.commit_done gathered (mind.sound hs.2.2.2.2.2.1) (mind.handles s.opened_handles) hk) p

end Sys2Proof.Machine
end

-- ==== Sys2Proof/Proofs/admit ====
section
/-!
O14, O15: what SUBMIT JOB and ADMIT JOB leave where they are not refused.
-/

namespace Sys2Proof.Machine

@[simp] theorem Vec12.all_get (n : Nat) (c : Chan) : (Vec12.all n).get c = n := by simp [Vec12.all, get_getElem]

/-! ### Taking a job in (R6, R8) -/

section
variable (s : State) (j : Job) (ink : Vec12) (len : Nat)

/-- The reserved totals and the counter as a job is taken in, before its record is written. -/
def State.reserves : State :=
  ((s.moveInk (Vec12.all 0) ink).moveRoll j.spec.roll 0 len).setCounters s.nextSeq s.day s.overhead

theorem State.takeIn_eq :
    s.takeIn j ink len =
      (s.reserves j ink len).setJob { j with state := .admitted, ink := ink, rollRes := len, seqNo := some s.nextSeq } := rfl

theorem State.setCounters_within (n d : Nat) (o : Overhead) :
    s.within [.seqCounter, .day, .overhead, .store] (s.setCounters n d o) := by
  intro f hf; cases f <;> first | (simp at hf; done) | simp [Field.same, State.setCounters]

theorem State.reserves_within : s.within [.channels, .rolls, .seqCounter, .store] (s.reserves j ink len) := by
  have day : (s.reserves j ink len).day = s.day := by simp [State.reserves, State.setCounters]
  have overhead : (s.reserves j ink len).overhead = s.overhead := by simp [State.reserves, State.setCounters]
  have rest : s.within [.channels, .rolls, .seqCounter, .day, .overhead, .store] (s.reserves j ink len) :=
    ((s.moveInk_within _ _).next [.channels, .rolls, .store] (State.moveRoll_within _ _ _ _)).next _
      (State.setCounters_within _ _ _ _)
  intro f hf
  by_cases hd : f = .day
  · subst hd; exact day
  by_cases ho : f = .overhead
  · subst ho; exact overhead
  refine rest f fun hm => ?_
  cases f <;> simp_all

theorem State.takeIn_within : s.within [.jobs, .channels, .rolls, .seqCounter, .store] (s.takeIn j ink len) :=
  (s.reserves_within j ink len).next _ (State.setJob_within _ _)

theorem State.takeIn_minds : s.minds (s.takeIn j ink len) :=
  (((s.moveInk_minds _ _).trans (State.moveRoll_minds _ _ _ _)).trans (State.setCounters_minds _ _ _ _)).trans
    (State.setJob_minds _ _)

theorem State.takeIn_hands : s.store.hands (s.takeIn j ink len).store 0 :=
  State.setJob_hands (State.setCounters_hands (State.modRoll_hands (s := s.moveInk _ _) s.store.hands_refl _ _) _ _ _) _

theorem State.takeIn_seqCounter : (s.takeIn j ink len).seqCounter = s.nextSeq := by
  simp [State.takeIn, State.setCounters]

theorem State.takeIn_job_self (h : ordered Job.tag s.jobs) :
    (s.takeIn j ink len).job? j.tag =
      some { j with state := .admitted, ink := ink, rollRes := len, seqNo := some s.nextSeq } := by
  have jobs : (s.reserves j ink len).jobs = s.jobs := s.reserves_within j ink len .jobs (by decide)
  exact State.job_setJob_self (s := s.reserves j ink len)
    (x := { j with state := .admitted, ink := ink, rollRes := len, seqNo := some s.nextSeq }) (jobs ▸ h)

theorem State.takeIn_job_ne {n : Nat} (h : n ≠ j.tag) : (s.takeIn j ink len).job? n = s.job? n := by
  exact (State.job_setJob_ne (s := s.reserves j ink len)
    (x := { j with state := .admitted, ink := ink, rollRes := len, seqNo := some s.nextSeq }) h).trans
    ((s.reserves_within j ink len).job (by decide) n)

theorem State.takeIn_chan (c : Chan) :
    (s.takeIn j ink len).chan c = { s.chan c with reserved := (s.chan c).reserved + ink.get c } := by
  rw [State.takeIn_eq, (State.setJob_within _ _).chan (by decide)]
  unfold State.reserves
  rw [(State.setCounters_within _ _ _ _).chan (by decide), (State.moveRoll_within _ _ _ _).chan (by decide),
    State.chan_moveInk]
  simp

theorem State.takeIn_roll_self {x : Roll} (h : ordered Roll.id s.rolls) (hx : s.roll? j.spec.roll = some x) :
    (s.takeIn j ink len).roll? j.spec.roll = some { x with reserved := x.reserved + len } := by
  rw [State.takeIn_eq, (State.setJob_within _ _).roll (by decide)]
  unfold State.reserves State.moveRoll
  rw [(State.setCounters_within _ _ _ _).roll (by decide)]
  exact State.roll_modRoll_self (s := s.moveInk (Vec12.all 0) ink) (r := x) _ h hx rfl

theorem State.takeIn_roll_ne {id : Nat} (h : id ≠ j.spec.roll) : (s.takeIn j ink len).roll? id = s.roll? id := by
  rw [State.takeIn_eq, (State.setJob_within _ _).roll (by decide)]
  unfold State.reserves State.moveRoll
  rw [(State.setCounters_within _ _ _ _).roll (by decide)]
  exact State.roll_modRoll_ne (s := s.moveInk (Vec12.all 0) ink) _ (fun _ => rfl) h
end

/-- The figures of a passing admission test, and that the roll covers them (R6). -/
theorem State.admission_pass {s : State} {sp : JobSpec} {r : Roll} {ink : Vec12} {len : Nat}
    (h : s.admission sp r = .pass ink len) : (∀ c, ink.get c = s.needOf sp c) ∧ len = s.mediaOf sp ∧ s.mediaCovers r len := by
  by_cases hi : ∀ c, ¬ s.inkFails sp c
  · rw [State.admission_fits r hi] at h
    split at h
    · rename_i hr
      obtain ⟨rfl, rfl⟩ := Admission.pass.inj h
      exact ⟨s.inkNeeds_get sp, rfl, (s.rollFits_iff r _).mp hr⟩
    · cases h
  · obtain ⟨c, hc, low⟩ := exists_lowest (p := s.inkFails sp) (by simpa using hi)
    rw [State.admission_inkShort r hc low] at h
    cases h

theorem State.nextSeq_eq (s : State) : s.nextSeq = min (s.seqCounter + 1) 4294967295 := Nat.min_comm _ _

/-- What a passing admission test leaves, in the words of the claims: the record ADMITTED with its holdings, the reserved
totals and the counter moved, and one commit point. -/
theorem exec_takeIn {s : State} (hr : s.ready) (hs : s.sound) {i : Instr} {code seq : Nat} {f : State → Reply} {j : Job}
    {x : Roll} {ink : Vec12} {len next : Nat} (hn : s.nextSeq = next) (hi : requestParts i = some (code, seq, f))
    (hx : s.roll? j.spec.roll = some x)
    (hf : f s.opened = ⟨(s.opened.takeIn j ink len).commit [.job j.tag, .counters], .ok, .admitted s.nextSeq ink len⟩) :
    ∃ t : State, exec i s = .next t ∧
      t.job? j.tag = some { j with state := .admitted, ink := ink, rollRes := len, seqNo := some next } ∧
      (∀ n, n ≠ j.tag → t.job? n = s.job? n) ∧ t.seqCounter = next ∧ s.commits t (.job j.tag) ∧ s.commits t .counters ∧
      s.answered t code seq .ok (.admitted next ink len) ∧ s.store.hands t.store 1 ∧
      (∀ c, t.chan c = { s.chan c with reserved := (s.chan c).reserved + ink.get c }) ∧
      t.roll? j.spec.roll = some { x with reserved := x.reserved + len } ∧
      (∀ id, id ≠ j.spec.roll → t.roll? id = s.roll? id) ∧
      t = { s with jobs := t.jobs, channels := t.channels, rolls := t.rolls, seqCounter := t.seqCounter
                   store := t.store, port := t.port, out := [] } := by
  subst hn
  obtain ⟨t, e, same, rest, a, done, hands⟩ := exec_committed hr hs hi hf (s.opened.takeIn_minds j ink len)
    (s.opened.takeIn_hands j ink len) (s.opened.takeIn_within j ink len) [.jobs, .channels, .rolls, .seqCounter, .store, .port]
  refine ⟨t, e, ?_, fun n hn => ?_, ?_, done _ (by simp), done _ (by simp), a, hands, fun c => ?_, ?_, fun id hid => ?_,
    State.frame rest⟩
  · rw [same.job (by decide)]; exact s.opened.takeIn_job_self j ink len hs.tables.jobs
  · rw [same.job (by decide), State.takeIn_job_ne _ _ _ _ hn, State.opened_job]
  · rw [same .seqCounter (by decide)]; exact s.opened.takeIn_seqCounter j ink len
  · rw [same.chan (by decide), State.takeIn_chan, State.opened_chan]
  · rw [same.roll (by decide)]; exact s.opened.takeIn_roll_self j ink len hs.tables.rolls hx
  · rw [same.roll (by decide), State.takeIn_roll_ne _ _ _ _ hid, State.opened_roll]

/-! ### ADMIT JOB (R9) -/

theorem admitJob_unknown {s : State} {tag : Nat} (h : s.job? tag = none) : admitJob tag s = ⟨s, .unknownTag, .empty⟩ := by
  unfold admitJob; rw [h]; rfl

theorem admitJob_wrongState {s : State} {tag : Nat} {j : Job} (h : s.job? tag = some j) (hj : j.state ≠ .deferred) :
    admitJob tag s = ⟨s, .wrongState, .empty⟩ := by unfold admitJob; rw [h]; exact if_pos hj

theorem admitJob_refused {s : State} {tag : Nat} {j : Job} {st : Status} (h : s.job? tag = some j)
    (hj : j.state = .deferred) (hc : s.claimRefused j.spec = some st) : admitJob tag s = ⟨s, st, .empty⟩ := by
  unfold admitJob; rw [h]; dsimp only; rw [if_neg (not_not_intro hj), hc]; rfl

theorem admitJob_tried {s : State} {tag : Nat} {j : Job} (h : s.job? tag = some j) (hj : j.state = .deferred)
    (hc : s.claimRefused j.spec = none) : admitJob tag s = s.tryAdmit j s := by
  unfold admitJob; rw [h]; dsimp only; rw [if_neg (not_not_intro hj), hc]

/-- The admission test reads nothing that a handling begins with. -/
theorem State.opened_admission (s : State) (sp : JobSpec) (r : Roll) : s.opened.admission sp r = s.admission sp r := by
  by_cases hi : ∀ c, ¬ s.inkFails sp c
  · have fits : s.opened.rollFits r (s.mediaOf sp) = s.rollFits r (s.mediaOf sp) := rfl
    rw [State.admission_fits r hi, State.admission_fits (s := s.opened) r hi]
    exact if_congr (by rw [← fits]; rfl) rfl rfl
  · obtain ⟨c, hc, low⟩ := exists_lowest (p := s.inkFails sp) (by simpa using hi)
    rw [State.admission_inkShort r hc low, State.admission_inkShort (s := s.opened) r hc low]
    rfl

/-! The admission test of a request by its answer (R7). -/

section
variable {s failed : State} {j : Job} {x : Roll}

theorem State.tried_pass {ink : Vec12} {len : Nat} (hx : s.roll? j.spec.roll = some x)
    (h : s.admission j.spec x = .pass ink len) :
    s.opened.tryAdmit j failed =
      ⟨(s.opened.takeIn j ink len).commit [.job j.tag, .counters], .ok, .admitted s.nextSeq ink len⟩ := by
  rw [State.tryAdmit_some (s := s.opened) hx, State.opened_admission, h]; rfl

theorem State.tried_inkShort {c : Chan} {n : Nat} (hx : s.roll? j.spec.roll = some x)
    (h : s.admission j.spec x = .inkShort c n) : s.opened.tryAdmit j failed = ⟨failed, .inkShort, .inkShort c n⟩ := by
  rw [State.tryAdmit_some (s := s.opened) hx, State.opened_admission, h]; rfl

theorem State.tried_mediaShort {n : Nat} (hx : s.roll? j.spec.roll = some x)
    (h : s.admission j.spec x = .mediaShort n) : s.opened.tryAdmit j failed = ⟨failed, .mediaShort, .mediaShort n⟩ := by
  rw [State.tryAdmit_some (s := s.opened) hx, State.opened_admission, h]; rfl
end

/-- Settles O15: a refusal or a failing test is answered alone, and a passing one takes the job in. -/
theorem admitJobTestsADeferredJob : Obligations.AdmitJobTestsADeferredJob := by
  intro s seq tag hr hs
  refine ⟨fun h => exec_same hr hs rfl (admitJob_unknown (s := s.quiet.beginHandling) h), fun j h => ⟨fun hj =>
    exec_same hr hs rfl (admitJob_wrongState (s := s.quiet.beginHandling) h hj), fun st hj hc =>
    exec_same hr hs rfl (admitJob_refused (s := s.quiet.beginHandling) h hj hc), fun x hj hc hx => ?_⟩⟩
  have key : j.tag = tag := State.job_key h
  have tried := admitJob_tried (s := s.opened) h hj hc
  cases ha : s.admission j.spec x with
  | pass ink len =>
    obtain ⟨need, media, covers⟩ := State.admission_pass ha
    subst key
    exact ⟨need, media, covers,
      exec_takeIn hr hs s.nextSeq_eq rfl hx (tried.trans (State.tried_pass hx ha))⟩
  | inkShort c n => exact exec_same hr hs rfl (tried.trans (State.tried_inkShort hx ha))
  | mediaShort n => exact exec_same hr hs rfl (tried.trans (State.tried_mediaShort hx ha))

/-! ### SUBMIT JOB (R7, R8) -/

theorem submitJob_taken {s : State} {r : SubmitReq} {k : JobKind} (h : s.submitRefused r = none)
    (hk : jobKindOf r.kind = some k) :
    submitJob r s =
      s.tryAdmit (newJob r.tag (submitSpec r k)) ((s.setJob (newJob r.tag (submitSpec r k))).commit [.job r.tag]) := by
  unfold submitJob; rw [h, hk]

/-- What a failing admission test of SUBMIT JOB leaves: the record DEFERRED, and one commit point. -/
theorem exec_deferred {s : State} (hr : s.ready) (hs : s.sound) {i : Instr} {code seq : Nat} {f : State → Reply} {j : Job}
    {st : Status} {b : Body} (hi : requestParts i = some (code, seq, f))
    (hf : f s.opened = ⟨(s.opened.setJob j).commit [.job j.tag], st, b⟩) :
    ∃ t : State, exec i s = .next t ∧ (∀ n, n ≠ j.tag → t.job? n = s.job? n) ∧ s.commits t (.job j.tag) ∧
      s.store.hands t.store 1 ∧ t.job? j.tag = some j ∧ s.answered t code seq st b ∧
      t = { s with jobs := t.jobs, store := t.store, port := t.port, out := [] } := by
  obtain ⟨t, e, same, rest, a, done, hands⟩ := exec_committed hr hs hi hf (s.opened.setJob_minds j)
    (State.setJob_hands s.opened.store.hands_refl j) (s.opened.setJob_within j) [.jobs, .store, .port]
  refine ⟨t, e, fun n hn => ?_, done _ (by simp), hands, ?_, a, State.frame rest⟩
  · rw [same.job (by decide), State.job_setJob_ne hn, State.opened_job]
  · rw [same.job (by decide)]; exact State.job_setJob_self (s := s.opened) hs.tables.jobs

/-- Settles O14, by the three answers of the admission test. -/
theorem submitJobAdmitsOrDefers : Obligations.SubmitJobAdmitsOrDefers := by
  intro s seq r k x hr hs hn hk hx sp record next
  have tried := submitJob_taken (s := s.opened) hn hk
  cases ha : s.admission sp x with
  | pass ink len =>
    obtain ⟨need, media, covers⟩ := State.admission_pass ha
    obtain ⟨t, e, h1, h2, h3, h4, h5, h6, h7, h8, h9, h10, h11⟩ :=
      exec_takeIn (i := .submitJob seq r) (j := newJob r.tag (submitSpec r k)) hr hs s.nextSeq_eq rfl hx
        (tried.trans (State.tried_pass hx ha))
    exact ⟨t, e, h2, h4, h7, need, media, covers, h1, h6, h3, h5, h8, h9, h10, h11⟩
  | inkShort c n =>
    obtain ⟨t, e, h1, h2, h3, h4, h5, h6⟩ := exec_deferred (i := .submitJob seq r) (j := newJob r.tag (submitSpec r k)) hr
      hs rfl (tried.trans (State.tried_inkShort hx ha))
    exact ⟨t, e, h1, h2, h3, h4, h5, h6⟩
  | mediaShort n =>
    obtain ⟨t, e, h1, h2, h3, h4, h5, h6⟩ := exec_deferred (i := .submitJob seq r) (j := newJob r.tag (submitSpec r k)) hr
      hs rfl (tried.trans (State.tried_mediaShort hx ha))
    exact ⟨t, e, h1, h2, h3, h4, h5, h6⟩

end Sys2Proof.Machine
end

-- ==== Sys2Proof/Proofs/cancel ====
section
/-!
O18: CANCEL JOB and RETIRE JOB, as far as O18 speaks of a store that is not sound.
-/

namespace Sys2Proof.Machine

/-! ### Releasing a job's holdings (R10, R15) -/

theorem State.roll_release_self {s : State} {j : Job} {r : Roll} (h : ordered Roll.id s.rolls)
    (hr : s.roll? j.spec.roll = some r) :
    (s.release j).roll? j.spec.roll = some { r with reserved := r.reserved - j.rollRes } := by
  have := State.roll_modRoll_self (s := s.moveInk j.ink (Vec12.all 0)) (r := r)
    (fun r => { r with reserved := r.reserved + 0 - j.rollRes }) h hr rfl
  exact this

theorem State.roll_release_ne {s : State} {j : Job} {id : Nat} (h : id ≠ j.spec.roll) :
    (s.release j).roll? id = s.roll? id :=
  State.roll_modRoll_ne (s := s.moveInk j.ink (Vec12.all 0)) _ (fun _ => rfl) h

/-! ### CANCEL JOB, by the state of the record -/

section
variable {s : State} {tag reason : Nat} {j : Job}

theorem cancelJob_unknown (h : s.job? tag = none) : cancelJob tag reason s = ⟨s, .unknownTag, .empty⟩ := by
  unfold cancelJob; rw [h]; rfl

theorem cancelJob_printing (h : s.job? tag = some j) (hj : j.state = .printing) :
    cancelJob tag reason s = ⟨s.abort j (cancelCause reason), .ok, .empty⟩ := by
  unfold cancelJob; rw [h]; dsimp only; rw [hj]

theorem cancelJob_finishing (h : s.job? tag = some j) (hj : j.state = .finishing) :
    cancelJob tag reason s = ⟨s.voidLater j (cancelCause reason), .ok, .empty⟩ := by
  unfold cancelJob; rw [h]; dsimp only; rw [hj]
end

/-- A part in RUN whose store holds an open commit group numbered above the last commit point made: no run reaches it, and
`State.sound` excludes it. -/
def groupAhead : State := { State.reset with phase := .run, store := { State.reset.store with groups := [⟨[1], [1], []⟩] } }

/-- There a refusal too is kept PENDING, for a group that it did not hand (R194, R211). -/
theorem groupAhead_pending (seq tag reason : Nat) :
    exec (.cancelJob seq tag reason) groupAhead ≠ .next (groupAhead.answerOnly 0x13 seq .unknownTag .empty) := by
  intro h
  obtain ⟨p, e, a⟩ := exec_taken (s := groupAhead) ⟨rfl, rfl⟩ (i := .cancelJob seq tag reason) rfl
    (cancelJob_unknown (s := groupAhead.opened) (tag := tag) (reason := reason) rfl) rfl
  have pending : p = { groupAhead.port with buffer := .pending 0x13 seq .unknownTag .empty [1] } := a
  have port : p = groupAhead.formed groupAhead 0x13 seq .unknownTag .empty :=
    congrArg State.port (Host.Outcome.next.inj (e.symm.trans h))
  have buffers := congrArg Port.buffer (pending.symm.trans port)
  cases buffers

/-- Refutes O18: its first clause does not ask for a sound store, and where an open commit group is numbered above the last
commit point the refusal is not formed at once. -/
theorem not_cancelAndRetireRemoveTheRecord : ¬ Obligations.CancelAndRetireRemoveTheRecord := by
  unfold Obligations.CancelAndRetireRemoveTheRecord
  intro h
  exact groupAhead_pending 0 1 0 (h.1 groupAhead 0 1 0 ⟨rfl, rfl⟩ rfl).1

end Sys2Proof.Machine
end

-- ==== Sys2Proof/Proofs/withdraw ====
section
/-!
Withdrawal (R10): the jobs it takes, the youngest first, and what they leave of the tables, the notices and the store.
-/

namespace Sys2Proof.Machine

/-! ### The youngest job (R8, R10) -/

theorem Job.younger_iff {a b : Job} : a.younger b = true ↔ a.isYounger b := by
  unfold Job.younger Job.isYounger
  simp

theorem Job.isYounger.trans {a b c : Job} (h : a.isYounger b) (k : b.isYounger c) : a.isYounger c := by
  unfold Job.isYounger at *; omega

theorem Job.isYounger.irrefl (a : Job) : ¬ a.isYounger a := by unfold Job.isYounger; omega

theorem Job.isYounger_total {a b : Job} (h : a.tag ≠ b.tag) : a.isYounger b ∨ b.isYounger a := by
  unfold Job.isYounger; omega

/-- The ADMITTED jobs with a property (R10). -/
def State.holders (s : State) (p : Job → Bool) : List Job := s.jobs.filter fun j => j.state == .admitted && p j

theorem State.mem_holders {s : State} {p : Job → Bool} {j : Job} :
    j ∈ s.holders p ↔ j ∈ s.jobs ∧ j.state = .admitted ∧ p j = true := by
  unfold State.holders; rw [List.mem_filter, Bool.and_eq_true, beq_iff_eq]

/-- The younger of the best job so far and a further one. -/
def Job.pick (best : Option Job) (j : Job) : Option Job :=
  match best with
  | none => some j
  | some b => if j.younger b then some j else some b

theorem State.youngest_eq (s : State) (p : Job → Bool) : s.youngest p = (s.holders p).foldl Job.pick none := by
  unfold State.youngest State.holders
  rw [List.foldl_filter]
  rfl

theorem pick_foldl_some (l : List Job) (b : Job) :
    ∃ j, l.foldl Job.pick (some b) = some j ∧ (j = b ∨ j ∈ l) ∧ ¬ b.isYounger j ∧ ∀ k ∈ l, ¬ k.isYounger j := by
  induction l generalizing b with
  | nil => exact ⟨b, rfl, .inl rfl, Job.isYounger.irrefl b, by simp⟩
  | cons x l ih =>
    rw [List.foldl_cons]
    show ∃ j, l.foldl Job.pick (if x.younger b then some x else some b) = some j ∧ _
    by_cases h : x.younger b
    · rw [if_pos h]
      obtain ⟨j, e, hj, top, rest⟩ := ih x
      refine ⟨j, e, .inr ?_, fun hb => top ((Job.younger_iff.mp h).trans hb), fun k hk => ?_⟩
      · rcases hj with rfl | hj
        · exact List.mem_cons_self
        · exact List.mem_cons_of_mem _ hj
      · rcases List.mem_cons.mp hk with rfl | hk
        · exact top
        · exact rest k hk
    · rw [if_neg h]
      obtain ⟨j, e, hj, top, rest⟩ := ih b
      refine ⟨j, e, hj.imp_right (List.mem_cons_of_mem _), top, fun k hk => ?_⟩
      rcases List.mem_cons.mp hk with rfl | hk
      · intro hx
        by_cases hb : j.isYounger b
        · exact h (Job.younger_iff.mpr (hx.trans hb))
        · rcases hj with rfl | hj
          · exact h (Job.younger_iff.mpr hx)
          · refine h (Job.younger_iff.mpr ?_)
            unfold Job.isYounger at *; omega
      · exact rest k hk

theorem State.youngest_none {s : State} {p : Job → Bool} (h : s.youngest p = none) : s.holders p = [] := by
  rw [State.youngest_eq] at h
  cases hl : s.holders p with
  | nil => rfl
  | cons x l =>
    rw [hl] at h
    obtain ⟨j, e, -⟩ := pick_foldl_some l x
    exact absurd (h.symm.trans e) nofun

theorem State.youngest_some {s : State} {p : Job → Bool} {j : Job} (h : s.youngest p = some j) :
    j ∈ s.holders p ∧ ∀ k ∈ s.holders p, ¬ k.isYounger j := by
  rw [State.youngest_eq] at h
  cases hl : s.holders p with
  | nil => rw [hl] at h; cases h
  | cons x l =>
    rw [hl] at h
    obtain ⟨y, e, hy, top, rest⟩ := pick_foldl_some l x
    obtain rfl : y = j := Option.some.inj (e.symm.trans h)
    refine ⟨?_, fun k hk => ?_⟩
    · rcases hy with rfl | hy
      · exact List.mem_cons_self
      · exact List.mem_cons_of_mem _ hy
    · rcases List.mem_cons.mp hk with rfl | hk
      · exact top
      · exact rest k hk

/-! ### Reading the first record with a property -/

section
variable {α : Type} {key : α → Nat} {p : α → Bool} {x : α} {l : List α}

/-- A record that had not the property and gets it not leaves the first one that has it. -/
theorem find_insertBy_other (hx : p x = false) (h : ∀ y ∈ l, key y = key x → p y = false) :
    (insertBy key x l).find? p = l.find? p := by
  induction l with
  | nil => simp [insertBy, hx]
  | cons y l ih =>
    unfold insertBy
    split
    · simp [List.find?_cons, hx]
    · split
      · rename_i e
        simp [hx, h y List.mem_cons_self e.symm]
      · simp only [List.find?_cons, ih fun z hz => h z (List.mem_cons_of_mem _ hz)]

/-- The first record with a property, rewritten with the property, stays the first. -/
theorem find_insertBy_first {y : α} (ho : ordered key l) (hy : l.find? p = some y) (hk : key x = key y) (hx : p x = true) :
    (insertBy key x l).find? p = some x := by
  induction l with
  | nil => cases hy
  | cons z l ih =>
    have above := (List.pairwise_cons.mp ho).1
    unfold insertBy
    by_cases hz : p z = true
    · rw [List.find?_cons_of_pos hz] at hy
      obtain rfl : z = y := Option.some.inj hy
      rw [if_neg (by omega), if_pos hk]
      exact List.find?_cons_of_pos hx
    · rw [List.find?_cons_of_neg hz] at hy
      have lt : key z < key y := above y (List.mem_of_find?_eq_some hy)
      rw [if_neg (by omega), if_neg (by omega), List.find?_cons_of_neg hz]
      exact ih (List.pairwise_cons.mp ho).2 hy
end

theorem ordered.find_of_mem {α : Type} {key : α → Nat} {l : List α} (ho : ordered key l) {a : α} (h : a ∈ l) :
    l.find? (fun y => key y == key a) = some a := by
  cases e : l.find? (fun y => key y == key a) with
  | none => exact absurd (List.find?_eq_none.mp e a h) (by simp)
  | some b =>
    have hb : key b = key a := by simpa using List.find?_some e
    rw [ho.eq_of_key (List.mem_of_find?_eq_some e) h hb]

theorem State.job_of_mem {s : State} (ho : ordered Job.tag s.jobs) {j : Job} (h : j ∈ s.jobs) : s.job? j.tag = some j :=
  ho.find_of_mem h

theorem State.roll_of_mem {s : State} (ho : ordered Roll.id s.rolls) {r : Roll} (h : r ∈ s.rolls) : s.roll? r.id = some r :=
  ho.find_of_mem h

/-- A step that makes no commit point changes nothing of what the handling waits for. -/
theorem State.minds.awaited_same {s t : State} (h : s.minds t) (hs : s.store.sound) (hc : t.store.called = s.store.called)
    (k : Nat) : k ∈ s.awaited ↔ k ∈ t.awaited := by
  by_cases hk : k ≤ s.store.called
  · exact h.awaited hs hk
  · exact ⟨fun m => absurd (hs.called (State.awaited_mem m)) hk,
      fun m => absurd (hc ▸ (h.sound hs).called (State.awaited_mem m)) hk⟩

/-! ### One withdrawal (R10) -/

section
variable {s : State} {j : Job} (why : Resource)

/-- Where no two rolls have one id, moving a reserved total is no change of a committed record (R103, R193). -/
theorem State.moveRoll_store (ho : ordered Roll.id s.rolls) (id a b : Nat) : (s.moveRoll id a b).store = s.store := by
  unfold State.moveRoll State.modRoll
  cases h : s.roll? id with
  | none => rfl
  | some r =>
    obtain rfl : r.id = id := State.roll_key h
    have now := State.roll_setRoll_self (s := s) (x := { r with reserved := r.reserved + b - a }) ho
    refine (State.noting_store ..).trans (if_pos ?_)
    rw [← State.noting_image (s := s)]
    show (((s.setRoll _).roll? _).map Roll.image).getD .removed = (((s.roll? _).map Roll.image).getD .removed)
    rw [now, h]
    rfl

theorem State.release_store (ho : ordered Roll.id s.rolls) : (s.release j).store = s.store :=
  State.moveRoll_store (s := s.moveInk j.ink (Vec12.all 0)) ho ..

/-- A withdrawal up to its commit point. -/
def State.letGo (s : State) (j : Job) : State := (s.release j).setJob j.afterWithdrawal

theorem State.withdraw_eq : s.withdraw j why = ((s.letGo j).raise (.num j.tag) (.withdrawn why)).commit [.job j.tag] := rfl

theorem State.letGo_within : s.within [.jobs, .channels, .rolls, .store] (s.letGo j) :=
  (s.release_within j).next _ (State.setJob_within _ _)

theorem State.letGo_handling : (s.letGo j).handling = s.handling := State.letGo_within .handling (by decide)

theorem State.letGo_minds : s.minds (s.letGo j) := (s.release_minds j).trans (State.setJob_minds _ _)

theorem State.setJob_called (s : State) (j : Job) : (s.setJob j).store.called = s.store.called := by
  unfold State.setJob; rw [State.noting_store]; split <;> rfl

theorem State.letGo_called (ho : ordered Roll.id s.rolls) : (s.letGo j).store.called = s.store.called := by
  unfold State.letGo
  rw [State.setJob_called, State.release_store ho]

theorem State.withdraw_chan (c : Chan) :
    (s.withdraw j why).chan c = { s.chan c with reserved := (s.chan c).reserved - j.ink.get c } := by
  rw [State.withdraw_eq, (State.commit_within _ _).chan (by decide), (State.raise_within _ _ _).chan (by decide)]
  unfold State.letGo
  rw [(State.setJob_within _ _).chan (by decide), State.chan_release]

theorem State.letGo_roll (id : Nat) : (s.letGo j).roll? id = (s.release j).roll? id :=
  (State.setJob_within _ _).roll (by decide) id

theorem State.withdraw_roll (id : Nat) : (s.withdraw j why).roll? id = (s.release j).roll? id := by
  rw [State.withdraw_eq, (State.commit_within _ _).roll (by decide), (State.raise_within _ _ _).roll (by decide),
    State.letGo_roll]

theorem State.withdraw_roll_some (ho : ordered Roll.id s.rolls) {id : Nat} {x : Roll} (hx : s.roll? id = some x) :
    (s.withdraw j why).roll? id =
      some { x with reserved := x.reserved - if j.spec.roll = id then j.rollRes else 0 } := by
  rw [State.withdraw_roll]
  by_cases h : j.spec.roll = id
  · rw [if_pos h, ← h]; exact State.roll_release_self ho (h ▸ hx)
  · rw [if_neg h, State.roll_release_ne (Ne.symm h)]; exact hx

theorem State.withdraw_jobs : (s.withdraw j why).jobs = insertBy Job.tag j.afterWithdrawal s.jobs := by
  rw [State.withdraw_eq, (State.commit_within _ _) .jobs (by decide), (State.raise_within _ _ _) .jobs (by decide)]
  unfold State.letGo
  rw [State.setJob_jobs, (s.release_within j) .jobs (by decide)]

theorem State.withdraw_job_self (ho : ordered Job.tag s.jobs) :
    (s.withdraw j why).job? j.tag = some j.afterWithdrawal := by
  unfold State.job?
  rw [State.withdraw_jobs]
  exact find_insertBy_self (key := Job.tag) (x := j.afterWithdrawal) ho

theorem State.withdraw_job_ne {n : Nat} (h : n ≠ j.tag) : (s.withdraw j why).job? n = s.job? n := by
  unfold State.job?
  rw [State.withdraw_jobs]
  exact find_insertBy_ne (key := Job.tag) (x := j.afterWithdrawal) h

/-- No PRINTING job is withdrawn. -/
theorem State.withdraw_printing (ho : ordered Job.tag s.jobs) (hj : j ∈ s.jobs) (ha : j.state = .admitted) :
    (s.withdraw j why).printing? = s.printing? := by
  unfold State.printing?
  rw [State.withdraw_jobs]
  refine find_insertBy_other rfl fun y hy e => ?_
  rw [ho.eq_of_key hy hj e, ha]
  rfl

/-- A withdrawal called for later (R80). -/
theorem State.withdraw_later {l : Gathered} (hg : s.handling.gathered = some l) :
    (s.withdraw j why).handling =
      { s.handling with gathered := some { l with points := l.points ++ [[.job j.tag]] } } := by
  have same : (((s.letGo j).raise (.num j.tag) (.withdrawn why))).handling = s.handling := State.letGo_handling
  rw [State.withdraw_eq, State.commit_later (l := l) (by rw [same]; exact hg), same]

theorem State.withdraw_later_hands {a : Store} {n : Nat} (h : a.hands s.store n) {l : Gathered}
    (hg : s.handling.gathered = some l) : a.hands (s.withdraw j why).store n := by
  have same : (((s.letGo j).raise (.num j.tag) (.withdrawn why))).handling = s.handling := State.letGo_handling
  rw [State.withdraw_eq, State.commit_later (l := l) (by rw [same]; exact hg)]
  exact State.setJob_hands (State.release_hands h j) j.afterWithdrawal

/-- A withdrawn job is committed, and a record committed before stays so. -/
theorem State.withdraw_saved (hg : s.handling.gathered = none) : (s.withdraw j why).saved (.job j.tag) := by
  have same : (((s.letGo j).raise (.num j.tag) (.withdrawn why))).handling = s.handling := State.letGo_handling
  rw [State.withdraw_eq, State.commit_now (by rw [same]; exact hg)]
  exact State.hand_saved _ (by simp)

theorem State.saved_withdraw (ho : ordered Roll.id s.rolls) {k : RecKey} (h : s.saved k) (hk : k ≠ .job j.tag) :
    (s.withdraw j why).saved k := by
  refine State.saved_commit (s := (s.letGo j).raise _ _) ?_
  show (s.letGo j).saved k
  refine State.noting_saved (t := { s.release j with jobs := _ }) ?_ hk
  show k ∉ (s.release j).store.changed
  rw [State.release_store ho]
  exact h

theorem State.withdraw_takenUp (hs : s.store.sound) (hg : s.handling.gathered = none) :
    (s.withdraw j why).takenUp .jobs := by
  have same : (((s.letGo j).raise (.num j.tag) (.withdrawn why))).handling = s.handling := State.letGo_handling
  rw [State.withdraw_eq, State.commit_now (by rw [same]; exact hg)]
  exact State.hand_takenUp (k := .job j.tag) (State.letGo_minds.sound hs) (by simp)

theorem State.withdraw_done (hs : s.store.sound) (hh : s.handles) (hg : s.handling.gathered = none) :
    (s.withdraw j why).done (.job j.tag) := by
  have same : (((s.letGo j).raise (.num j.tag) (.withdrawn why))).handling = s.handling := State.letGo_handling
  exact State.commit_done (s := (s.letGo j).raise _ _) (by rw [same]; exact hg) (State.letGo_minds.sound hs)
    (State.letGo_minds.handles hh) (by simp)

/-- WITHDRAWN is raised before the job's commit point. -/
theorem State.heard.withdraw {b : State} {l : List (Nat × Subject × Detail)} (h : b.heard s l) (hs : s.store.sound)
    (ho : ordered Roll.id s.rolls) :
    b.heard (s.withdraw j why) (l ++ [(s.store.called, .num j.tag, .withdrawn why)]) := by
  have called := State.letGo_called (j := j) ho
  have quiet := h.minds (State.letGo_minds (j := j)) hs (State.letGo_within .notices (by decide))
  have raised := quiet.raise (State.letGo_minds.sound hs) (.num j.tag) (.withdrawn why)
  rw [called] at raised
  exact raised.minds (State.commit_minds _ _) (State.letGo_minds.sound hs) ((State.commit_within _ _) .notices (by decide))
end

/-! ### The jobs withdrawn one after the other -/

/-- The jobs `w` are withdrawn in turn. -/
def State.withdrawAll (s : State) (w : List Job) (why : Resource) : State := w.foldl (fun s j => s.withdraw j why) s

section
variable (s : State) (w : List Job) (why : Resource)

theorem State.withdrawAll_within : s.within lawFields (s.withdrawAll w why) :=
  within_foldl _ (fun s j => s.withdraw_within j why) w s

theorem State.withdrawAll_minds : s.minds (s.withdrawAll w why) := minds_foldl _ (fun s j => s.withdraw_minds j why) w s

theorem State.withdrawAll_keeps : s.keeps (s.withdrawAll w why) := keeps_foldl _ (fun s j => s.withdraw_keeps j why) w s

theorem State.withdrawAll_chan (c : Chan) : (s.withdrawAll w why).chan c =
    { s.chan c with reserved := (s.chan c).reserved - (w.map fun j => j.ink.get c).sum } := by
  induction w generalizing s with
  | nil => rfl
  | cons j w ih =>
    refine (ih (s.withdraw j why)).trans ?_
    rw [State.withdraw_chan]
    simp [Nat.sub_sub]
end

section
variable {s : State} {w : List Job} (why : Resource)

theorem State.withdrawAll_roll (hs : s.tables) {id : Nat} {x : Roll} (hx : s.roll? id = some x) :
    (s.withdrawAll w why).roll? id =
      some { x with reserved := x.reserved - (w.map fun j => if j.spec.roll = id then j.rollRes else 0).sum } := by
  induction w generalizing s x with
  | nil => exact hx
  | cons j w ih =>
    refine (ih ((s.withdraw_keeps j why).tables hs) (State.withdraw_roll_some why hs.rolls hx)).trans ?_
    simp [Nat.sub_sub]

/-- Rolls that none of them names stay as they are. -/
theorem State.withdrawAll_roll_ne {id : Nat} (h : ∀ j ∈ w, j.spec.roll ≠ id) :
    (s.withdrawAll w why).roll? id = s.roll? id := by
  induction w generalizing s with
  | nil => rfl
  | cons j w ih =>
    refine (ih fun k hk => h k (List.mem_cons_of_mem _ hk)).trans ?_
    rw [State.withdraw_roll, State.roll_release_ne (h j List.mem_cons_self).symm]

theorem State.withdrawAll_job_ne {n : Nat} (h : ∀ j ∈ w, j.tag ≠ n) : (s.withdrawAll w why).job? n = s.job? n := by
  induction w generalizing s with
  | nil => rfl
  | cons j w ih =>
    exact (ih fun k hk => h k (List.mem_cons_of_mem _ hk)).trans
      (State.withdraw_job_ne why (h j List.mem_cons_self).symm)

theorem State.withdrawAll_job (hs : s.tables) (hw : (w.map Job.tag).Nodup) {j : Job} (hj : j ∈ w) :
    (s.withdrawAll w why).job? j.tag = some j.afterWithdrawal := by
  induction w generalizing s with
  | nil => cases hj
  | cons k w ih =>
    obtain ⟨new, hw⟩ := List.nodup_cons.mp hw
    rcases List.mem_cons.mp hj with rfl | hj
    · exact (State.withdrawAll_job_ne (s := s.withdraw j why) why fun k hk e =>
        new (List.mem_map.mpr ⟨k, hk, e⟩)).trans (State.withdraw_job_self why hs.jobs)
    · exact ih ((s.withdraw_keeps k why).tables hs) hw hj

/-- No PRINTING job is among them. -/
theorem State.withdrawAll_printing (hs : s.tables) (hw : (w.map Job.tag).Nodup)
    (h : ∀ j ∈ w, j ∈ s.jobs ∧ j.state = .admitted) : (s.withdrawAll w why).printing? = s.printing? := by
  induction w generalizing s with
  | nil => rfl
  | cons k w ih =>
    obtain ⟨new, hw⟩ := List.nodup_cons.mp hw
    obtain ⟨hk, ha⟩ := h k List.mem_cons_self
    refine (ih ((s.withdraw_keeps k why).tables hs) hw fun j hj => ⟨?_, (h j (List.mem_cons_of_mem _ hj)).2⟩).trans
      (State.withdraw_printing why hs.jobs hk ha)
    have ne : j.tag ≠ k.tag := fun e => new (e ▸ List.mem_map_of_mem hj)
    refine State.job_mem (n := j.tag) ((State.withdraw_job_ne why ne).trans ?_)
    exact State.job_of_mem hs.jobs (h j (List.mem_cons_of_mem _ hj)).1

theorem State.withdrawAll_hands {a : Store} {n : Nat} (h : a.hands s.store n) (hg : s.handling.gathered = none) :
    a.hands (s.withdrawAll w why).store (n + w.length) ∧ (s.withdrawAll w why).handling = s.handling := by
  induction w generalizing s n with
  | nil => exact ⟨h, rfl⟩
  | cons k w ih =>
    have same := State.withdraw_handling hg k why
    obtain ⟨hands, e⟩ := ih (State.withdraw_hands h hg k why) (by rw [same]; exact hg)
    refine ⟨?_, e.trans same⟩
    rw [List.length_cons, Nat.add_comm w.length, ← Nat.add_assoc]
    exact hands

/-- Withdrawals called for later (R80). -/
theorem State.withdrawAll_later {a : Store} {n : Nat} (h : a.hands s.store n) {l : Gathered}
    (hg : s.handling.gathered = some l) :
    a.hands (s.withdrawAll w why).store n ∧ (s.withdrawAll w why).handling =
      { s.handling with gathered := some { l with points := l.points ++ w.map fun j => [.job j.tag] } } := by
  induction w generalizing s l with
  | nil => refine ⟨h, ?_⟩; simp [State.withdrawAll, ← hg]
  | cons k w ih =>
    have now := State.withdraw_later (j := k) why hg
    obtain ⟨hands, e⟩ := ih (s := s.withdraw k why) (State.withdraw_later_hands why h hg) (congrArg Handling.gathered now)
    refine ⟨hands, e.trans ?_⟩
    rw [now]
    simp

theorem State.withdrawAll_saved (hs : s.tables) (hg : s.handling.gathered = none) {j : Job} (hj : j ∈ w) :
    (s.withdrawAll w why).saved (.job j.tag) := by
  suffices ∀ (s : State), s.tables → s.handling.gathered = none → s.saved (.job j.tag) ∨ j ∈ w →
      (s.withdrawAll w why).saved (.job j.tag) from this s hs hg (.inr hj)
  clear hj hg hs
  induction w with
  | nil => intro s _ _ h; exact h.resolve_right (by simp)
  | cons k w ih =>
    intro s hs hg h
    refine ih (s.withdraw k why) ((s.withdraw_keeps k why).tables hs) (by rw [State.withdraw_handling hg]; exact hg) ?_
    by_cases e : j.tag = k.tag
    · exact .inl (e ▸ State.withdraw_saved why hg)
    · rcases h with h | h
      · exact .inl (State.saved_withdraw why hs.rolls h fun x => e (RecKey.job.inj x))
      · exact .inr ((List.mem_cons.mp h).resolve_left fun x => e (x ▸ rfl))

theorem State.withdrawAll_takenUp (hs : s.store.sound) (hg : s.handling.gathered = none) (hw : w ≠ []) :
    (s.withdrawAll w why).takenUp .jobs := by
  induction w generalizing s with
  | nil => exact absurd rfl hw
  | cons k w ih =>
    by_cases h : w = []
    · subst h; exact State.withdraw_takenUp why hs hg
    · exact ih ((s.withdraw_minds k why).sound hs) (by rw [State.withdraw_handling hg]; exact hg) h

theorem State.withdrawAll_done (hs : s.tables) (hh : s.handles) (hg : s.handling.gathered = none) {j : Job}
    (hj : j ∈ w) : (s.withdrawAll w why).done (.job j.tag) := by
  refine ⟨State.withdrawAll_saved why hs hg hj, ?_⟩
  cases w with
  | nil => cases hj
  | cons k w =>
    have first := State.withdraw_done (j := k) why hs.store hh hg
    exact (State.withdrawAll_minds _ w why).retried _ ((s.withdraw_minds k why).sound hs.store) first.2

/-- The notices of withdrawals, each with the number of the commit point before it. -/
def withdrawalsFrom (n : Nat) (w : List Job) (why : Resource) : List (Nat × Subject × Detail) :=
  (withdrawnNotices w why).map fun x => (n + x.1, x.2)

theorem withdrawalsFrom_cons (n : Nat) (j : Job) (w : List Job) :
    withdrawalsFrom n (j :: w) why = (n, .num j.tag, .withdrawn why) :: withdrawalsFrom (n + 1) w why := by
  unfold withdrawalsFrom withdrawnNotices
  rw [List.zipIdx_cons, List.map_cons, List.map_cons, List.zipIdx_succ]
  simp [Function.comp_def, Nat.add_comm, Nat.add_left_comm]

theorem State.heard.withdrawAll {b : State} {l : List (Nat × Subject × Detail)} (h : b.heard s l) (hs : s.tables)
    (hg : s.handling.gathered = none) :
    b.heard (s.withdrawAll w why) (l ++ withdrawalsFrom s.store.called w why) := by
  induction w generalizing s l with
  | nil => rw [show withdrawalsFrom s.store.called [] why = [] from rfl, List.append_nil]; exact h
  | cons j w ih =>
    have called := (State.withdraw_hands s.store.hands_refl hg j why).called
    have := ih (h.withdraw (j := j) why hs.store hs.rolls) ((s.withdraw_keeps j why).tables hs)
      (by rw [State.withdraw_handling hg]; exact hg)
    rw [called] at this
    rw [withdrawalsFrom_cons, List.append_cons]
    exact this

/-- Notices of withdrawals whose commit points are called for later all wait for what is open already (R80, R194). -/
theorem State.takes_withdrawAll_later {q : NoticeQueue} {m : List (Nat × Subject × Detail)} (hs : s.tables) {l : Gathered}
    (hg : s.handling.gathered = some l) (h : q.takes s.awaited m s.notices) {n : Nat} (hn : s.store.called ≤ n) :
    q.takes (s.withdrawAll w why).awaited (m ++ withdrawalsFrom n w why) (s.withdrawAll w why).notices := by
  induction w generalizing s l m n with
  | nil => rw [show withdrawalsFrom n [] why = [] from rfl, List.append_nil]; exact h
  | cons j w ih =>
    have kept := (s.withdraw_keeps j why).tables hs
    have called : (s.withdraw j why).store.called = s.store.called :=
      (State.withdraw_later_hands (j := j) why s.store.hands_refl hg).called
    have same := (s.withdraw_minds j why).awaited_same hs.store called
    have before := State.letGo_minds.awaited_same hs.store (State.letGo_called (j := j) hs.rolls)
    have raised : (s.withdraw j why).notices = s.notices.take (s.letGo j).awaited (.num j.tag) (.withdrawn why) := by
      rw [State.withdraw_eq, (State.commit_within _ _) .notices (by decide)]
      show (s.letGo j).notices.take _ _ _ = _
      rw [(State.letGo_within .notices (by decide) : (s.letGo j).notices = s.notices)]
    rw [withdrawalsFrom_cons, List.append_cons]
    refine ih (s := s.withdraw j why) kept (congrArg Handling.gathered (State.withdraw_later why hg)) ?_ (by omega)
    refine NoticeQueue.takes_append.mpr ⟨s.notices, NoticeQueue.takes_congr (fun _ _ k _ => same k) h,
      (s.letGo j).awaited, fun k => ?_, raised⟩
    rw [← same, ← before]
    exact (and_iff_left_of_imp fun hk => (hs.store.called (State.awaited_mem hk)).trans hn).symm
end

/-! ### Which jobs are withdrawn (R10) -/

theorem State.mem_jobs_iff {s : State} (ho : ordered Job.tag s.jobs) {j : Job} : j ∈ s.jobs ↔ s.job? j.tag = some j :=
  ⟨State.job_of_mem ho, State.job_mem⟩

/-- A withdrawn job is no longer among those that may be withdrawn; the others are. -/
theorem State.mem_holders_withdraw {s : State} {q : Job → Bool} {j k : Job} (why : Resource) (hs : s.tables)
    (hj : j ∈ s.holders q) : k ∈ (s.withdraw j why).holders q ↔ k ∈ s.holders q ∧ k ≠ j := by
  obtain ⟨hj, -, -⟩ := State.mem_holders.mp hj
  have after := (s.withdraw_keeps j why).tables hs
  rw [State.mem_holders, State.mem_holders, State.mem_jobs_iff after.jobs, State.mem_jobs_iff hs.jobs]
  by_cases e : k.tag = j.tag
  · rw [e, State.withdraw_job_self why hs.jobs, State.job_of_mem hs.jobs hj]
    constructor
    · rintro ⟨h, ha, -⟩
      rw [← Option.some.inj h] at ha
      cases ha
    · rintro ⟨⟨h, -⟩, ne⟩
      exact absurd (Option.some.inj h).symm ne
  · rw [State.withdraw_job_ne why e]
    exact ⟨fun h => ⟨h, fun x => e (x ▸ rfl)⟩, And.left⟩

/-- The jobs `w` are ADMITTED ones with a property, the youngest first, none left out between them (R8, R10). -/
def State.turns (s : State) (q : Job → Bool) (w : List Job) : Prop :=
  (∀ j ∈ w, j ∈ s.holders q) ∧ w.Pairwise Job.isYounger ∧ ∀ j ∈ s.holders q, j ∈ w ∨ ∀ k ∈ w, k.isYounger j

theorem State.turns.mem {s : State} {q : Job → Bool} {w : List Job} (h : s.turns q w) :
    ∀ j ∈ w, j ∈ s.jobs ∧ j.state = .admitted := fun j hj =>
  let ⟨a, b, _⟩ := State.mem_holders.mp (h.1 j hj)
  ⟨a, b⟩

theorem State.turns.nodup {s : State} {q : Job → Bool} {w : List Job} (h : s.turns q w) (ho : ordered Job.tag s.jobs) :
    (w.map Job.tag).Nodup := by
  refine List.pairwise_map.mpr (h.2.1.imp_of_mem fun {a b} ha hb y e => ?_)
  rw [ho.eq_of_key (h.mem a ha).1 (h.mem b hb).1 e] at y
  exact Job.isYounger.irrefl b y

/-- A withdrawal while a condition holds takes jobs in their turns, each while the condition holds, until it does not or
none is left (R10). -/
theorem withdrawWhile_turns {p : State → Bool} {q : Job → Bool} (why : Resource) {n : Nat} {s : State} (hs : s.tables)
    (hn : (s.holders q).length ≤ n) :
    ∃ w, withdrawWhile p q why n s = s.withdrawAll w why ∧ s.turns q w ∧
      (∀ v k, w = v ++ [k] → p (s.withdrawAll v why) = true) ∧
      (p (s.withdrawAll w why) = false ∨ ∀ j ∈ s.holders q, j ∈ w) := by
  have none : ∀ s : State, s.turns q [] := fun s => ⟨by simp, .nil, by simp⟩
  induction n generalizing s with
  | zero =>
    have empty : s.holders q = [] := List.length_eq_zero_iff.mp (Nat.le_zero.mp hn)
    exact ⟨[], rfl, none s, by simp, .inr (by simp [empty])⟩
  | succ n ih =>
    unfold withdrawWhile
    by_cases hp : p s = true
    · rw [if_pos hp]
      cases hy : s.youngest q with
      | none => exact ⟨[], rfl, none s, by simp, .inr (by simp [State.youngest_none hy])⟩
      | some j =>
        obtain ⟨hj, top⟩ := State.youngest_some hy
        have left := fun k => State.mem_holders_withdraw (k := k) why hs hj
        have fewer : ((s.withdraw j why).holders q).length ≤ n := by
          have apart : ((s.withdraw j why).holders q).Nodup :=
            (List.Pairwise.imp (fun h e => absurd (congrArg Job.tag e) h.ne)
              ((s.withdraw_keeps j why).tables hs).jobs).filter _
          have sub := (apart.subperm (l₂ := (s.holders q).erase j) fun k hk => by
            obtain ⟨hk, ne⟩ := (left k).mp hk
            exact (List.mem_erase_of_ne ne).mpr hk).length_le
          have := List.length_erase_of_mem hj
          omega
        obtain ⟨w, e, ⟨mem, young, rest⟩, each, stop⟩ := ih ((s.withdraw_keeps j why).tables hs) fewer
        have first : ∀ k ∈ s.holders q, k ≠ j → j.isYounger k := fun k hk ne =>
          (Job.isYounger_total fun e => ne ((hs.jobs.eq_of_key (State.mem_holders.mp hk).1 (State.mem_holders.mp hj).1)
            e.symm)).resolve_right (top k hk)
        refine ⟨j :: w, e, ⟨?_, ?_, ?_⟩, ?_, ?_⟩
        · intro k hk
          rcases List.mem_cons.mp hk with rfl | hk
          · exact hj
          · exact ((left k).mp (mem k hk)).1
        · refine List.pairwise_cons.mpr ⟨fun k hk => ?_, young⟩
          obtain ⟨hk, ne⟩ := (left k).mp (mem k hk)
          exact first k hk ne
        · intro k hk
          by_cases ne : k = j
          · exact .inl (ne ▸ List.mem_cons_self)
          · refine (rest k ((left k).mpr ⟨hk, ne⟩)).imp (List.mem_cons_of_mem _) fun h i hi => ?_
            rcases List.mem_cons.mp hi with rfl | hi
            · exact first k hk ne
            · exact h i hi
        · intro v k hv
          cases v with
          | nil => exact hp
          | cons a v =>
            obtain ⟨rfl, hw⟩ := List.cons.inj hv
            exact each v k hw
        · refine stop.imp id fun h k hk => ?_
          by_cases ne : k = j
          · exact ne ▸ List.mem_cons_self
          · exact List.mem_cons_of_mem _ (h k ((left k).mpr ⟨hk, ne⟩))
    · rw [if_neg hp]
      exact ⟨[], rfl, none s, by simp, .inl (Bool.not_eq_true _ ▸ hp)⟩

theorem State.holders_length (s : State) (q : Job → Bool) : (s.holders q).length ≤ s.jobs.length := List.length_filter_le _ _

end Sys2Proof.Machine
end

-- ==== Sys2Proof/Proofs/trim ====
section
/-!
O20: the ink law and the roll law restored by withdrawal (R10) and trimming (R11).
-/

namespace Sys2Proof.Machine

/-! ### What a law asks (R30, R103) -/

/-- The remaining total of a channel comes from its slots and the lots in them (R29). -/
theorem State.remainingTotal_congr {s t : State} {c : Chan} (hc : (t.chan c).slots = (s.chan c).slots)
    (hl : t.lots = s.lots) : t.remainingTotal c = s.remainingTotal c := by
  unfold State.remainingTotal State.slotVolume State.lotIn State.lot?
  rw [hc, hl]

theorem State.withdrawAll_remaining (s : State) (w : List Job) (why : Resource) (c : Chan) :
    (s.withdrawAll w why).remainingTotal c = s.remainingTotal c :=
  State.remainingTotal_congr (by rw [State.withdrawAll_chan]) (s.withdrawAll_within w why .lots (by decide))

theorem State.withdrawAll_inkLaw (s : State) (w : List Job) (why : Resource) (c : Chan) :
    (s.withdrawAll w why).inkLawFails c =
      decide (s.remainingTotal c < (s.chan c).reserved - (w.map fun j => j.ink.get c).sum) := by
  unfold State.inkLawFails
  rw [State.withdrawAll_remaining, State.withdrawAll_chan]

theorem State.withdrawAll_rollLaw {s : State} (hs : s.tables) (w : List Job) (why : Resource) {id : Nat} {r : Roll}
    (hr : s.roll? id = some r) :
    (s.withdrawAll w why).rollLawFails id =
      decide (r.length - r.fed < r.reserved - (w.map fun j => if j.spec.roll = id then j.rollRes else 0).sum) := by
  unfold State.rollLawFails
  rw [State.withdrawAll_roll why hs hr]
  rfl

/-- The jobs that a law takes, in the words of the claims. -/
theorem State.turns.withdrawable {s : State} {q : Job → Bool} {w : List Job} {holds : Job → Nat} {reserved limit : Nat}
    (h : s.turns q w) (hq : ∀ j, q j = true ↔ holds j ≠ 0)
    (each : ∀ v k, w = v ++ [k] → limit < reserved - (v.map holds).sum)
    (stop : reserved - (w.map holds).sum ≤ limit ∨ ∀ j ∈ s.holders q, j ∈ w) :
    s.withdrawable w holds reserved limit := by
  have mem : ∀ j, j ∈ s.holders q ↔ j ∈ s.jobs ∧ j.state = .admitted ∧ holds j ≠ 0 := fun j => by
    rw [State.mem_holders, hq]
  refine ⟨fun j hj => (mem j).mp (h.1 j hj), h.2.1, fun j hj ha hh => ?_, each, stop.imp_right fun all j hj ha hh => ?_⟩
  · exact h.2.2 j ((mem j).mpr ⟨hj, ha, hh⟩)
  · exact all j ((mem j).mpr ⟨hj, ha, hh⟩)

/-! ### Commit points made or called for (R80, R193) -/

/-- Between `s` and `t` each job of `tags` had a commit point of its own, made or called for (R10, R80). -/
structure State.tells (s t : State) (tags : List Nat) : Prop where
  now : s.handling.gathered = none →
    s.store.hands t.store tags.length ∧ (∀ n ∈ tags, s.commits t (.job n)) ∧ t.handling = s.handling
  later : ∀ l, s.handling.gathered = some l →
    t.handling = { s.handling with gathered := some { l with points := l.points ++ tags.map fun n => [RecKey.job n] } } ∧
      s.store.hands t.store 0

theorem State.withdrawAll_tells {s : State} (hs : s.tables) (w : List Job) (why : Resource) :
    s.tells (s.withdrawAll w why) (w.map Job.tag) where
  now hg := by
    obtain ⟨hands, same⟩ := State.withdrawAll_hands (w := w) why s.store.hands_refl hg
    refine ⟨by simpa using hands, fun n hn => ?_, same⟩
    obtain ⟨j, hj, rfl⟩ := List.mem_map.mp hn
    exact ((s.withdrawAll_minds w why).ledger s (State.ledger_refl hs.store)).commits_of_takenUp
      (State.withdrawAll_saved why hs hg hj) (State.withdrawAll_takenUp why hs.store hg (List.ne_nil_of_mem hj))
  later l hg := by
    obtain ⟨hands, same⟩ := State.withdrawAll_later (w := w) why s.store.hands_refl hg
    exact ⟨by rw [same, List.map_map]; rfl, hands⟩

/-- A further job is amended and committed. -/
theorem State.tells.amend {s t u : State} {tags : List Nat} {n : Nat} (h : s.tells t tags) (hs : s.store.sound)
    (before : s.minds t) (mind : t.minds u) (hands : t.store.hands u.store 0) (same : u.handling = t.handling)
    (keep : ∀ k, t.saved k → k ≠ .job n → u.saved k) : s.tells (u.commit [.job n]) (tags ++ [n]) where
  now hg := by
    obtain ⟨made, done, hand⟩ := h.now hg
    have hg : u.handling.gathered = none := by rw [same, hand]; exact hg
    have sound := (before.trans mind).sound hs
    rw [State.commit_now hg]
    refine ⟨?_, fun k hk => ?_, (State.hand_handling u _).trans (same.trans hand)⟩
    · rw [List.length_append]
      exact State.hand_hands (Store.hands.trans made hands) _
    · have ledger := (before.trans mind).ledger s (State.ledger_refl hs)
      refine (ledger.hand [.job n]).commits_of_takenUp ?_ (State.hand_takenUp (k := .job n) sound (by simp))
      by_cases e : k = n
      · exact State.hand_saved u (by simp [e])
      · have hk : k ∈ tags := (List.mem_append.mp hk).resolve_right (by simpa using e)
        exact State.saved_hand (keep _ (done k hk).1 fun x => e (RecKey.job.inj x))
  later l hg := by
    obtain ⟨hand, made⟩ := h.later l hg
    have hg := congrArg Handling.gathered (same.trans hand)
    rw [State.commit_later hg]
    refine ⟨?_, Store.hands.trans made hands⟩
    show ({ u.handling with gathered := _ } : Handling) = _
    rw [same, hand]
    simp

/-! ### Trimming (R11) -/

/-- The printing job's reservation on a channel loses `cut`. -/
def State.cutInk (s : State) (c : Chan) (j : Job) (cut : Nat) : State :=
  (s.moveChanInk c (j.ink.get c) (j.ink.get c - cut)).setJob
    { j with ink := j.ink.set c (j.ink.get c - cut), flags := { j.flags with inkAtRisk := true } }

/-- The printing job's roll reservation loses `cut`. -/
def State.cutRoll (s : State) (j : Job) (cut : Nat) : State :=
  (s.moveRoll j.spec.roll j.rollRes (j.rollRes - cut)).setJob
    { j with rollRes := j.rollRes - cut, flags := { j.flags with overrunMedia := true } }

section
variable {s : State} {c : Chan} {j : Job} {id : Nat} {r : Roll}

theorem State.trimInk_none (h : s.printing? = none) : s.trimInk c = s := by unfold State.trimInk; rw [h]

theorem State.trimInk_zero (h : s.printing? = some j) (hc : min (j.ink.get c) ((s.chan c).reserved - s.remainingTotal c) = 0) :
    s.trimInk c = s := by unfold State.trimInk; rw [h]; exact if_pos hc

theorem State.trimInk_some (h : s.printing? = some j)
    (hc : min (j.ink.get c) ((s.chan c).reserved - s.remainingTotal c) ≠ 0) :
    s.trimInk c = (s.cutInk c j (min (j.ink.get c) ((s.chan c).reserved - s.remainingTotal c))).commit [.job j.tag] := by
  unfold State.trimInk; rw [h]; exact if_neg hc

theorem State.trimRoll_none (h : s.printing? = none) : s.trimRoll id = s := by unfold State.trimRoll; rw [h]

theorem State.trimRoll_zero (h : s.printing? = some j) (hr : s.roll? id = some r)
    (hc : j.spec.roll ≠ id ∨ min j.rollRes (r.reserved - r.remaining) = 0) : s.trimRoll id = s := by
  unfold State.trimRoll; rw [h, hr]; exact if_pos hc

theorem State.trimRoll_some (h : s.printing? = some j) (hr : s.roll? id = some r) (he : j.spec.roll = id)
    (hc : min j.rollRes (r.reserved - r.remaining) ≠ 0) :
    s.trimRoll id = (s.cutRoll j (min j.rollRes (r.reserved - r.remaining))).commit [.job j.tag] := by
  unfold State.trimRoll; rw [h, hr]; subst he; exact if_neg (by simpa using hc)
/-- A channel record changed outside its CONFIG part and its slot fields is no change of a committed record (R28, R193). -/
theorem State.modChan_store {f : Channel → Channel} (hc : (f (s.chan c)).image = (s.chan c).image)
    (hl : (f (s.chan c)).slots = (s.chan c).slots) : (s.modChan c f).store = s.store := by
  have here : ({ s with channels := s.channels.set c (f (s.chan c)) } : State).chan c = f (s.chan c) := by
    simp [State.chan, get_getElem]
  have config : (s.noting (.channel c) { s with channels := s.channels.set c (f (s.chan c)) }).store = s.store := by
    rw [State.noting_store, if_pos]
    exact (congrArg Channel.image here).trans hc
  refine (State.noting_store ..).trans ?_
  rw [if_pos, config]
  rw [State.noting_image]
  exact congrArg Image.slots ((congrArg Channel.slots here).trans hl)

theorem State.moveChanInk_store (a b : Nat) : (s.moveChanInk c a b).store = s.store := State.modChan_store rfl rfl

/-! What a trimmed reservation leaves. -/

variable {cut : Nat}

theorem State.cutInk_within : s.within [.jobs, .channels, .store] (s.cutInk c j cut) :=
  (s.modChan_within c _).next _ (State.setJob_within _ _)

theorem State.cutRoll_within : s.within [.jobs, .rolls, .store] (s.cutRoll j cut) :=
  (s.moveRoll_within _ _ _).next _ (State.setJob_within _ _)

theorem State.cutInk_minds : s.minds (s.cutInk c j cut) := (s.moveChanInk_minds _ _ _).trans (State.setJob_minds _ _)

theorem State.cutRoll_minds : s.minds (s.cutRoll j cut) := (s.moveRoll_minds _ _ _).trans (State.setJob_minds _ _)

theorem State.setJob_store_hands {u : State} (h : u.store = s.store) (x : Job) : s.store.hands (u.setJob x).store 0 :=
  State.setJob_hands (h ▸ s.store.hands_refl) x

theorem State.setJob_keeps_saved {u : State} (h : u.store = s.store) (x : Job) (k : RecKey) (hk : s.saved k)
    (ne : k ≠ .job x.tag) : (u.setJob x).saved k :=
  State.noting_saved (t := { u with jobs := _ }) (show k ∉ u.store.changed by rw [h]; exact hk) ne

theorem State.cutInk_chan (h : cut ≤ j.ink.get c) :
    (s.cutInk c j cut).chan c = { s.chan c with reserved := (s.chan c).reserved - cut } := by
  unfold State.cutInk State.moveChanInk
  rw [(State.setJob_within _ _).chan (by decide), State.chan_modChan_self]
  congr 1; omega

theorem State.cutInk_chan_ne {d : Chan} (h : d ≠ c) : (s.cutInk c j cut).chan d = s.chan d := by
  unfold State.cutInk State.moveChanInk
  rw [(State.setJob_within _ _).chan (by decide), State.chan_modChan_ne _ h]

theorem State.cutRoll_roll (ho : ordered Roll.id s.rolls) (hr : s.roll? j.spec.roll = some r) (h : cut ≤ j.rollRes) :
    (s.cutRoll j cut).roll? j.spec.roll = some { r with reserved := r.reserved - cut } := by
  unfold State.cutRoll State.moveRoll
  rw [(State.setJob_within _ _).roll (by decide)]
  refine (State.roll_modRoll_self s (fun r => { r with reserved := r.reserved + (j.rollRes - cut) - j.rollRes }) ho hr rfl).trans ?_
  congr 2; omega

theorem State.cutRoll_roll_ne (h : id ≠ j.spec.roll) : (s.cutRoll j cut).roll? id = s.roll? id := by
  unfold State.cutRoll State.moveRoll
  rw [(State.setJob_within _ _).roll (by decide)]
  exact State.roll_modRoll_ne s _ (fun _ => rfl) h

theorem State.cutInk_job (ho : ordered Job.tag s.jobs) : (s.cutInk c j cut).job? j.tag =
    some { j with ink := j.ink.set c (j.ink.get c - cut), flags := { j.flags with inkAtRisk := true } } :=
  State.job_setJob_self (s := s.moveChanInk c (j.ink.get c) (j.ink.get c - cut))
    (x := { j with ink := j.ink.set c (j.ink.get c - cut), flags := { j.flags with inkAtRisk := true } })
    ((s.modChan_within c _ .jobs (by decide) : (s.moveChanInk c _ _).jobs = s.jobs) ▸ ho)

theorem State.cutRoll_job (ho : ordered Job.tag s.jobs) : (s.cutRoll j cut).job? j.tag =
    some { j with rollRes := j.rollRes - cut, flags := { j.flags with overrunMedia := true } } :=
  State.job_setJob_self (s := s.moveRoll j.spec.roll j.rollRes (j.rollRes - cut))
    (x := { j with rollRes := j.rollRes - cut, flags := { j.flags with overrunMedia := true } })
    ((s.moveRoll_within _ _ _ .jobs (by decide) : (s.moveRoll j.spec.roll _ _).jobs = s.jobs) ▸ ho)

theorem State.cutInk_job_ne {n : Nat} (h : n ≠ j.tag) : (s.cutInk c j cut).job? n = s.job? n :=
  (State.job_setJob_ne (s := s.moveChanInk c (j.ink.get c) (j.ink.get c - cut))
    (x := { j with ink := j.ink.set c (j.ink.get c - cut), flags := { j.flags with inkAtRisk := true } }) h).trans
    ((s.modChan_within c _).job (by decide) n)

theorem State.cutRoll_job_ne {n : Nat} (h : n ≠ j.tag) : (s.cutRoll j cut).job? n = s.job? n :=
  (State.job_setJob_ne (s := s.moveRoll j.spec.roll j.rollRes (j.rollRes - cut))
    (x := { j with rollRes := j.rollRes - cut, flags := { j.flags with overrunMedia := true } }) h).trans
    ((s.moveRoll_within _ _ _).job (by decide) n)
end

/-! ### What a withdrawal leaves, in the words of the claims -/

/-- Between `s` and `t` the jobs `w` were withdrawn, and no other but the printing one changed (R10). -/
structure State.took (s t : State) (w : List Job) (why : Resource) : Prop where
  jobs : ∀ j ∈ w, t.job? j.tag = some j.afterWithdrawal
  others : ∀ j ∈ s.jobs, j ∉ w → s.printing? ≠ some j → t.job? j.tag = some j
  notices : s.notices.takes t.awaited (withdrawalsFrom s.store.called w why) t.notices
  frame : s.within lawFields t

section
variable {s t u : State} {w : List Job} {why : Resource} {q : Job → Bool}

theorem State.turns.apart (h : s.turns q w) (hs : s.tables) {j : Job} (hj : j ∈ s.jobs) (hw : j ∉ w) :
    ∀ k ∈ w, k.tag ≠ j.tag := fun k hk e => hw (hs.jobs.eq_of_key (h.mem k hk).1 hj e ▸ hk)

theorem State.withdrawAll_took (hs : s.tables) (why : Resource) (h : s.turns q w) :
    s.took (s.withdrawAll w why) w why where
  jobs _ hj := State.withdrawAll_job why hs (h.nodup hs.jobs) hj
  others j hj hw _ := by
    rw [State.withdrawAll_job_ne why (h.apart hs hj hw)]
    exact State.job_of_mem hs.jobs hj
  notices := by
    cases hg : s.handling.gathered with
    | none => exact (s.heard_refl.withdrawAll why hs hg).1
    | some l => exact State.takes_withdrawAll_later why (m := []) hs hg rfl (le_refl _)
  frame := s.withdrawAll_within w why

/-- The numbers of the notices of withdrawals made at once. -/
theorem withdrawalsFrom_le {n : Nat} : ∀ x ∈ withdrawalsFrom n w why, x.1 ≤ n + w.length := by
  intro x hx
  obtain ⟨y, hy, rfl⟩ := List.mem_map.mp hx
  obtain ⟨z, hz, rfl⟩ := List.mem_map.mp hy
  have := List.snd_lt_of_mem_zipIdx hz
  show n + z.2 ≤ n + w.length
  omega

theorem State.printing_apart (h : s.turns q w) {j : Job} (hj : s.printing? = some j) : j ∉ w := fun hw => by
  have := (h.mem j hw).2
  rw [(State.printing_mem hj).2] at this
  cases this

/-- The printing job is amended behind the withdrawals, and its commit made or called for. -/
theorem State.took.amend (k : s.took t w why) (h : s.turns q w) (hs : s.tables) {j : Job} (hj : s.printing? = some j)
    (tells : s.tells t (w.map Job.tag)) (before : s.minds t) (mind : t.minds u) (hands : t.store.hands u.store 0)
    (frame : t.within [.jobs, .channels, .rolls, .store] u) (rest : ∀ n, n ≠ j.tag → u.job? n = t.job? n) :
    s.took (u.commit [.job j.tag]) w why where
  jobs i hi := by
    rw [(State.commit_within _ _).job (by decide),
      rest _ (h.apart hs (State.printing_mem hj).1 (State.printing_apart h hj) i hi)]
    exact k.jobs i hi
  others i hi hw hp := by
    rw [(State.commit_within _ _).job (by decide), rest]
    · exact k.others i hi hw hp
    · intro e
      exact hp (hs.jobs.eq_of_key hi (State.printing_mem hj).1 e ▸ hj)
  notices := by
    have notices : (u.commit [.job j.tag]).notices = t.notices :=
      ((State.commit_within _ _) .notices (by decide)).trans (frame .notices (by decide))
    have all := mind.trans (u.commit_minds [.job j.tag])
    rw [notices]
    refine NoticeQueue.takes_congr (fun n hn k hk => ?_) k.notices
    cases hg : s.handling.gathered with
    | none =>
      refine all.awaited (before.sound hs.store) (hk.trans ?_)
      rw [(tells.now hg).1.called, List.length_map]
      exact withdrawalsFrom_le n hn
    | some l =>
      refine all.awaited_same (before.sound hs.store) ?_ k
      have now := congrArg Handling.gathered ((frame .handling (by decide)).trans (tells.later l hg).1)
      rw [State.commit_later now]
      exact hands.called
  frame := (k.frame.next lawFields frame).next lawFields (State.commit_within _ _)
end

/-! ### The ink law (R30) -/

section
variable {s : State} {w : List Job} {c : Chan} {j : Job} {q : Job → Bool} {why : Resource}

/-- What the printing job's trim on a channel comes to, behind the withdrawals (R11). -/
def State.inkExcess (s : State) (w : List Job) (c : Chan) (j : Job) : Nat :=
  min (j.ink.get c) ((s.chan c).reserved - (w.map fun j => j.ink.get c).sum - s.remainingTotal c)

theorem State.trimInk_withdrawn (hs : s.tables) (h : s.turns q w) (hj : s.printing? = some j) :
    (s.withdrawAll w why).trimInk c =
      if s.inkExcess w c j = 0 then s.withdrawAll w why
      else ((s.withdrawAll w why).cutInk c j (s.inkExcess w c j)).commit [.job j.tag] := by
  have printing := (State.withdrawAll_printing why hs (h.nodup hs.jobs) h.mem).trans hj
  have excess : min (j.ink.get c) (((s.withdrawAll w why).chan c).reserved - (s.withdrawAll w why).remainingTotal c) =
      s.inkExcess w c j := by
    rw [State.withdrawAll_remaining, State.withdrawAll_chan]; rfl
  split
  · rename_i zero
    exact State.trimInk_zero printing (excess.trans zero)
  · rename_i some
    rw [State.trimInk_some printing (by rw [excess]; exact some), excess]

/-- The ink law restored (R10, R11, R30). -/
theorem State.enforceInk_eq (s : State) (c : Chan) (hs : s.tables) :
    ∃ w, s.turns (fun j => j.ink.get c != 0) w ∧
      s.withdrawable w (fun j => j.ink.get c) (s.chan c).reserved (s.remainingTotal c) ∧
      s.enforceInk c = (s.withdrawAll w (.channel c)).trimInk c := by
  obtain ⟨w, e, h, each, stop⟩ := withdrawWhile_turns (p := fun s => s.inkLawFails c) (q := fun j => j.ink.get c != 0)
    (.channel c) hs (s.holders_length _)
  simp only [State.withdrawAll_inkLaw, decide_eq_true_eq, decide_eq_false_iff_not, not_lt] at each stop
  refine ⟨w, h, h.withdrawable (fun j => by simp) each stop, ?_⟩
  unfold State.enforceInk
  rw [e]
end

/-! ### The roll law (R103) -/

section
variable {s : State} {w : List Job} {r : Roll} {j : Job} {q : Job → Bool} {why : Resource}

/-- What a job holds on a roll (R103). -/
def Job.heldOn (id : Nat) (j : Job) : Nat := if j.spec.roll = id then j.rollRes else 0

theorem Job.heldOn_iff {id : Nat} {j : Job} : j.holdsRoll id = true ↔ j.heldOn id ≠ 0 := by
  unfold Job.holdsRoll Job.heldOn; simp

/-- What the printing job's trim on a roll comes to, behind the withdrawals (R11). -/
def Roll.excess (r : Roll) (w : List Job) (j : Job) : Nat :=
  min (j.heldOn r.id) (r.reserved - (w.map (Job.heldOn r.id)).sum - (r.length - r.fed))

theorem State.trimRoll_withdrawn (hs : s.tables) (h : s.turns q w) (hj : s.printing? = some j) (hr : s.roll? r.id = some r) :
    (s.withdrawAll w why).trimRoll r.id =
      if r.excess w j = 0 then s.withdrawAll w why
      else ((s.withdrawAll w why).cutRoll j (r.excess w j)).commit [.job j.tag] := by
  have printing := (State.withdrawAll_printing why hs (h.nodup hs.jobs) h.mem).trans hj
  have here := State.withdrawAll_roll (w := w) why hs hr
  by_cases e : j.spec.roll = r.id
  · have excess : r.excess w j = min j.rollRes (r.reserved - (w.map (Job.heldOn r.id)).sum - (r.length - r.fed)) := by
      unfold Roll.excess Job.heldOn; rw [if_pos e]
    split
    · rename_i zero
      exact State.trimRoll_zero printing here (.inr (excess ▸ zero))
    · rename_i some
      rw [State.trimRoll_some printing here e (by rw [excess] at some; exact some), excess]
      rfl
  · have excess : r.excess w j = 0 := by unfold Roll.excess Job.heldOn; rw [if_neg e]; exact Nat.zero_min _
    rw [if_pos excess]
    exact State.trimRoll_zero printing here (.inl e)

/-- The roll law restored (R10, R11, R103). -/
theorem State.enforceRoll_eq (hs : s.tables) (hr : s.roll? r.id = some r) :
    ∃ w, s.turns (fun j => j.holdsRoll r.id) w ∧ s.withdrawable w (Job.heldOn r.id) r.reserved (r.length - r.fed) ∧
      s.enforceRoll r.id = (s.withdrawAll w (.roll r.id)).trimRoll r.id := by
  obtain ⟨w, e, h, each, stop⟩ := withdrawWhile_turns (p := fun s => s.rollLawFails r.id)
    (q := fun j => j.holdsRoll r.id) (.roll r.id) hs (s.holders_length _)
  simp only [State.withdrawAll_rollLaw hs _ _ hr, decide_eq_true_eq, decide_eq_false_iff_not, not_lt] at each stop
  refine ⟨w, h, h.withdrawable (fun j => Job.heldOn_iff) each stop, ?_⟩
  unfold State.enforceRoll
  rw [e]
end

/-! ### What each law leaves -/

section
variable {s : State} {w : List Job} {j : Job} {q : Job → Bool} {why : Resource}

/-- What is left where the printing job is trimmed on a channel. -/
theorem State.trimmedInk (hs : s.tables) (h : s.turns q w) (hj : s.printing? = some j) (why : Resource) {c : Chan}
    {cut : Nat} (hc : cut ≤ j.ink.get c) :
    let t := ((s.withdrawAll w why).cutInk c j cut).commit [.job j.tag]
    s.took t w why ∧ s.tells t (w.map Job.tag ++ [j.tag]) ∧
      t.job? j.tag = some { j with ink := j.ink.set c (j.ink.get c - cut), flags := { j.flags with inkAtRisk := true } } ∧
      (∀ d, d ≠ c → t.chan d = (s.withdrawAll w why).chan d) ∧ (∀ id, t.roll? id = (s.withdrawAll w why).roll? id) ∧
      t.chan c = { (s.withdrawAll w why).chan c with
        reserved := ((s.withdrawAll w why).chan c).reserved - cut } := by
  have tells := State.withdrawAll_tells hs w why
  have before := s.withdrawAll_minds w why
  have after := (s.withdrawAll_keeps w why).tables hs
  have hands := State.setJob_store_hands (s := s.withdrawAll w why)
    (u := (s.withdrawAll w why).moveChanInk c (j.ink.get c) (j.ink.get c - cut)) (State.moveChanInk_store _ _)
    { j with ink := j.ink.set c (j.ink.get c - cut), flags := { j.flags with inkAtRisk := true } }
  refine ⟨(State.withdrawAll_took hs why h).amend h hs hj tells before State.cutInk_minds hands
      (State.cutInk_within.mono (by decide)) fun n hn => State.cutInk_job_ne hn,
    tells.amend hs.store before State.cutInk_minds hands (State.cutInk_within .handling (by decide)) fun k hk ne =>
      State.setJob_keeps_saved (State.moveChanInk_store _ _) _ k hk ne, ?_, fun d hd => ?_, fun id => ?_, ?_⟩
  · rw [(State.commit_within _ _).job (by decide), State.cutInk_job after.jobs]
  · rw [(State.commit_within _ _).chan (by decide), State.cutInk_chan_ne hd]
  · rw [(State.commit_within _ _).roll (by decide), State.cutInk_within.roll (by decide)]
  · rw [(State.commit_within _ _).chan (by decide), State.cutInk_chan hc]

/-- What is left where the printing job is trimmed on its roll. -/
theorem State.trimmedRoll (hs : s.tables) (h : s.turns q w) (hj : s.printing? = some j) (why : Resource) {r : Roll}
    {cut : Nat} (hc : cut ≤ j.rollRes) (hr : (s.withdrawAll w why).roll? j.spec.roll = some r) :
    let t := ((s.withdrawAll w why).cutRoll j cut).commit [.job j.tag]
    s.took t w why ∧ s.tells t (w.map Job.tag ++ [j.tag]) ∧
      t.job? j.tag = some { j with rollRes := j.rollRes - cut, flags := { j.flags with overrunMedia := true } } ∧
      (∀ d, t.chan d = (s.withdrawAll w why).chan d) ∧
      (∀ id, id ≠ j.spec.roll → t.roll? id = (s.withdrawAll w why).roll? id) ∧
      t.roll? j.spec.roll = some { r with reserved := r.reserved - cut } := by
  have tells := State.withdrawAll_tells hs w why
  have before := s.withdrawAll_minds w why
  have after := (s.withdrawAll_keeps w why).tables hs
  have store := State.moveRoll_store after.rolls j.spec.roll j.rollRes (j.rollRes - cut)
  have hands := State.setJob_store_hands store
    { j with rollRes := j.rollRes - cut, flags := { j.flags with overrunMedia := true } }
  refine ⟨(State.withdrawAll_took hs why h).amend h hs hj tells before State.cutRoll_minds hands
      (State.cutRoll_within.mono (by decide)) fun n hn => State.cutRoll_job_ne hn,
    tells.amend hs.store before State.cutRoll_minds hands (State.cutRoll_within .handling (by decide)) fun k hk ne =>
      State.setJob_keeps_saved store _ k hk ne, ?_, fun d => ?_, fun id hi => ?_, ?_⟩
  · rw [(State.commit_within _ _).job (by decide), State.cutRoll_job after.jobs]
  · rw [(State.commit_within _ _).chan (by decide), State.cutRoll_within.chan (by decide)]
  · rw [(State.commit_within _ _).roll (by decide), State.cutRoll_roll_ne hi]
  · rw [(State.commit_within _ _).roll (by decide), State.cutRoll_roll after.rolls hr hc]

/-- The printing job is not withdrawn. -/
theorem State.withdrawAll_spares (hs : s.tables) (h : s.turns q w) (hj : s.printing? = some j) (why : Resource) :
    (s.withdrawAll w why).job? j.tag = some j := by
  rw [State.withdrawAll_job_ne why (h.apart hs (State.printing_mem hj).1 (State.printing_apart h hj))]
  exact State.job_of_mem hs.jobs (State.printing_mem hj).1
end

/-- Settles O20: the jobs a law takes are those of `withdrawWhile_turns`, and `State.withdrawAll` and the trim say what
they leave. -/
theorem withdrawalAndTrimmingRestoreTheLaws : Obligations.WithdrawalAndTrimmingRestoreTheLaws := by
  unfold Obligations.WithdrawalAndTrimmingRestoreTheLaws
  intro withdrawn committed
  have told : ∀ {s t : State} {tags : List Nat}, s.tells t tags → committed s t tags := by
    intro s t tags h
    dsimp only [committed]
    split
    · exact h.now ‹_›
    · exact h.later _ ‹_›
  have taken : ∀ {s t : State} {w : List Job} {why : Resource}, s.took t w why → withdrawn s t w why :=
    fun h => ⟨h.jobs, h.others, h.notices, State.frame h.frame⟩
  refine ⟨fun s c hs => ?_, fun s r hs hr => ?_⟩
  · obtain ⟨w, h, can, e⟩ := s.enforceInk_eq c hs.tables
    dsimp only
    rw [e]
    cases hp : s.printing? with
    | none =>
      have none := (State.withdrawAll_printing (.channel c) hs.tables (h.nodup hs.tables.jobs) h.mem).trans hp
      rw [State.trimInk_none none]
      refine ⟨w, can, taken (State.withdrawAll_took hs.tables _ h), fun d _ => State.withdrawAll_chan _ _ _ d,
        fun id x hx => State.withdrawAll_roll _ hs.tables hx, fun _ => ⟨State.withdrawAll_chan _ _ _ c,
          told (State.withdrawAll_tells hs.tables w _)⟩, fun j hj => nomatch hj⟩
    | some j =>
      rw [State.trimInk_withdrawn hs.tables h hp]
      by_cases zero : s.inkExcess w c j = 0
      · rw [if_pos zero]
        refine ⟨w, can, taken (State.withdrawAll_took hs.tables _ h), fun d _ => State.withdrawAll_chan _ _ _ d,
          fun id x hx => State.withdrawAll_roll _ hs.tables hx, nofun, fun k hk => ?_⟩
        obtain rfl := Option.some.inj hk
        refine ⟨(State.withdrawAll_chan _ _ _ c).trans ?_, fun _ => ⟨State.withdrawAll_spares hs.tables h hp _,
          told (State.withdrawAll_tells hs.tables w _)⟩, fun ne => absurd zero ne⟩
        rw [show min (j.ink.get c) _ = 0 from zero, Nat.sub_zero]
      · rw [if_neg zero]
        obtain ⟨took, tells, job, chans, rolls, chan⟩ :=
          State.trimmedInk hs.tables h hp (.channel c) (c := c) (cut := s.inkExcess w c j) (Nat.min_le_left _ _)
        refine ⟨w, can, taken took, fun d hd => (chans d hd).trans (State.withdrawAll_chan _ _ _ d),
          fun id x hx => (rolls id).trans (State.withdrawAll_roll _ hs.tables hx), nofun, fun k hk => ?_⟩
        obtain rfl := Option.some.inj hk
        refine ⟨chan.trans ?_, fun e => absurd e zero, fun _ => ⟨told tells, job⟩⟩
        rw [State.withdrawAll_chan]
        rfl
  · obtain ⟨w, h, can, e⟩ := State.enforceRoll_eq hs.tables hr
    dsimp only
    rw [e]
    have here := State.withdrawAll_roll (w := w) (.roll r.id) hs.tables hr
    have apart : ∀ n, n ≠ r.id → (s.withdrawAll w (.roll r.id)).roll? n = s.roll? n := fun n hn =>
      State.withdrawAll_roll_ne _ fun j hj e' => by
        have held := (State.mem_holders.mp (h.1 j hj)).2.2
        rw [Job.heldOn_iff, Job.heldOn, if_neg (e' ▸ hn)] at held
        exact held rfl
    cases hp : s.printing? with
    | none =>
      have none := (State.withdrawAll_printing (.roll r.id) hs.tables (h.nodup hs.tables.jobs) h.mem).trans hp
      rw [State.trimRoll_none none]
      exact ⟨w, can, taken (State.withdrawAll_took hs.tables _ h), fun d => State.withdrawAll_chan _ _ _ d, apart,
        fun _ => ⟨here, told (State.withdrawAll_tells hs.tables w _)⟩, fun j hj => nomatch hj⟩
    | some j =>
      rw [State.trimRoll_withdrawn hs.tables h hp hr]
      by_cases zero : r.excess w j = 0
      · rw [if_pos zero]
        refine ⟨w, can, taken (State.withdrawAll_took hs.tables _ h), fun d => State.withdrawAll_chan _ _ _ d, apart,
          nofun, fun k hk => ?_⟩
        obtain rfl := Option.some.inj hk
        refine ⟨here.trans ?_, fun _ => ⟨State.withdrawAll_spares hs.tables h hp _,
          told (State.withdrawAll_tells hs.tables w _)⟩, fun ne => absurd zero ne⟩
        show _ = some { r with reserved := r.reserved - (w.map (Job.heldOn r.id)).sum - r.excess w j }
        rw [zero, Nat.sub_zero]
        rfl
      · rw [if_neg zero]
        have on : j.spec.roll = r.id := by
          by_contra ne
          exact zero (by unfold Roll.excess Job.heldOn; rw [if_neg ne]; exact Nat.zero_min _)
        have le : r.excess w j ≤ j.rollRes := (Nat.min_le_left _ _).trans (by unfold Job.heldOn; rw [if_pos on])
        obtain ⟨took, tells, job, chans, rolls, roll⟩ :=
          State.trimmedRoll hs.tables h hp (.roll r.id) le ((congrArg _ on).trans here)
        rw [on] at rolls roll
        refine ⟨w, can, taken took, fun d => (chans d).trans (State.withdrawAll_chan _ _ _ d),
          fun n hn => (rolls n hn).trans (apart n hn), nofun, fun k hk => ?_⟩
        obtain rfl := Option.some.inj hk
        exact ⟨roll, fun e => absurd e zero, fun _ => ⟨told tells, job⟩⟩

end Sys2Proof.Machine
end

-- ==== Sys2Proof/Proofs/rolls ====
section
/-!
O37: a roll taken out of its slot, with its ADMITTED jobs withdrawn (R107).
-/

namespace Sys2Proof.Machine

/-- A handling that begins finds the tables as they stand. -/
theorem State.opened_tables {s : State} (h : s.tables) : s.opened.tables :=
  ⟨h.jobs, h.lots, h.rolls, h.editions, h.active, h.store⟩

/-! ### Every job that holds a roll (R107) -/

theorem State.withdrawRoll_eq {s : State} (hs : s.tables) (id : Nat) :
    ∃ w, s.turns (fun j => j.holdsRoll id) w ∧ (∀ j ∈ s.holders fun j => j.holdsRoll id, j ∈ w) ∧
      s.withdrawRoll id = s.withdrawAll w (.roll id) := by
  obtain ⟨w, e, h, -, stop⟩ := withdrawWhile_turns (p := fun _ => true) (q := fun j => j.holdsRoll id) (.roll id) hs
    (s.holders_length _)
  exact ⟨w, h, stop.resolve_left (by simp), e⟩

section
variable {s : State} {id : Nat} {w : List Job}

theorem State.mem_rollHolders {j : Job} :
    j ∈ s.holders (fun j => j.holdsRoll id) ↔ j ∈ s.jobs ∧ j.state = .admitted ∧ j.spec.roll = id ∧ j.rollRes ≠ 0 := by
  rw [State.mem_holders]; unfold Job.holdsRoll; simp

theorem State.turns.holdersOf (h : s.turns (fun j => j.holdsRoll id) w)
    (all : ∀ j ∈ s.holders fun j => j.holdsRoll id, j ∈ w) : s.holdersOf id w :=
  ⟨h.2.1, fun _ => ⟨fun hj => State.mem_rollHolders.mp (h.1 _ hj), fun hj => all _ (State.mem_rollHolders.mpr hj)⟩⟩

theorem State.turns.length_eq (hs : s.tables) (h : s.turns (fun j => j.holdsRoll id) w)
    (all : ∀ j ∈ s.holders fun j => j.holdsRoll id, j ∈ w) : s.rollHolders id = w.length := by
  have apart : (s.holders fun j => j.holdsRoll id).Nodup :=
    (List.Pairwise.imp (fun h e => absurd (congrArg Job.tag e) h.ne) hs.jobs).filter _
  have nodup : w.Nodup := List.Nodup.of_map _ (h.nodup hs.jobs)
  exact ((List.perm_ext_iff_of_nodup apart nodup).mpr fun j => ⟨all j, h.1 j⟩).length_eq

/-- What they hold on the roll is their roll reservation. -/
theorem State.turns.heldOn (h : s.turns (fun j => j.holdsRoll id) w) :
    (w.map fun j => if j.spec.roll = id then j.rollRes else 0) = w.map Job.rollRes :=
  List.map_congr_left fun j hj => if_pos (State.mem_rollHolders.mp (h.1 j hj)).2.2.1

theorem State.turns.congr {t : State} {q : Job → Bool} (h : s.turns q w) (hj : t.jobs = s.jobs) : t.turns q w := by
  unfold State.turns State.holders at *
  rw [hj]; exact h

theorem State.turns.elsewhere (h : s.turns (fun j => j.holdsRoll id) w) {n : Nat} (hn : n ≠ id) :
    ∀ j ∈ w, j.spec.roll ≠ n := fun j hj e => hn (e.symm.trans (State.mem_rollHolders.mp (h.1 j hj)).2.2.1)
end

/-! ### Taking a roll out (R107, R113) -/

/-- A roll out of its slot (R107). -/
def Roll.out (r : Roll) : Roll := { r with slot := none, state := if r.state = .ended then .ended else .shelved }

/-- The roll is out of its slot, its jobs not yet withdrawn. -/
def State.rollOut (s : State) (r : Roll) : State :=
  if r.state = .active then (s.setRoll r.out).send (.stopAt none) else s.setRoll r.out

theorem State.takeOutRoll_eq (s : State) (r : Roll) :
    s.takeOutRoll r = ((s.rollOut r).withdrawRoll r.id).commit [.roll r.id] := rfl

/-- What is left where a roll was taken out of its slot and the jobs `w` withdrawn, in the handling in hand (R107). -/
structure State.tookOut (s t : State) (r : Roll) (w : List Job) : Prop where
  holders : s.holdersOf r.id w
  count : s.rollHolders r.id = w.length
  jobs : ∀ j ∈ w, t.job? j.tag = some j.afterWithdrawal
  rest : ∀ n, (∀ j ∈ w, j.tag ≠ n) → t.job? n = s.job? n
  chan : ∀ c, t.chan c = { s.chan c with reserved := (s.chan c).reserved - (w.map fun j => j.ink.get c).sum }
  roll : t.roll? r.id = some { r.out with reserved := r.reserved - (w.map Job.rollRes).sum }
  rolls : ∀ n, n ≠ r.id → t.roll? n = s.roll? n
  mind : s.minds t
  done : ∀ j ∈ w, t.done (.job j.tag)
  rollDone : t.done (.roll r.id)
  heard : ∀ (b : State) l, b.heard s l → b.heard t (l ++ withdrawalsFrom s.store.called w (.roll r.id))
  hands : s.store.hands t.store (w.length + 1)
  frame : s.within (.out :: lawFields) t
  out : t.out = s.out ++ if r.state = .active then [.stopAt none] else []

section
variable {s : State} {r : Roll}

theorem State.rollOut_within : s.within [.rolls, .store, .out] (s.rollOut r) := by
  unfold State.rollOut
  have h := (s.setRoll_within r.out).mono (m := [.rolls, .store, .out]) (by decide)
  exact within_ite (h.next _ (State.send_within _ _)) h

theorem State.rollOut_keeps : s.keeps (s.rollOut r) := by
  have h : s.keeps (s.setRoll r.out) := State.setRoll_keeps (by unfold Roll.out; dsimp only; split <;> simp)
  exact keeps_ite (h.trans (State.send_keeps _ _)) h

theorem State.rollOut_minds : s.minds (s.rollOut r) :=
  minds_ite ((s.setRoll_minds _).trans (State.send_minds _ _)) (s.setRoll_minds _)

theorem State.rollOut_hands : s.store.hands (s.rollOut r).store 0 := by
  have h : s.store.hands (s.setRoll r.out).store 0 := State.setRoll_hands s.store.hands_refl _
  unfold State.rollOut; split <;> exact h

theorem State.rollOut_roll (ho : ordered Roll.id s.rolls) : (s.rollOut r).roll? r.id = some r.out := by
  have h := State.roll_setRoll_self (x := r.out) ho
  unfold State.rollOut; split <;> exact h

theorem State.rollOut_roll_ne {n : Nat} (h : n ≠ r.id) : (s.rollOut r).roll? n = s.roll? n := by
  have h := State.roll_setRoll_ne (s := s) (x := r.out) h
  unfold State.rollOut; split <;> exact h

theorem State.rollOut_out : (s.rollOut r).out = s.out ++ if r.state = .active then [.stopAt none] else [] := by
  unfold State.rollOut; split
  · simp [State.send]
  · simp

theorem State.takeOutRoll_tookOut (hs : s.tables) (hh : s.handles) (hg : s.handling.gathered = none) :
    ∃ w, s.tookOut (s.takeOutRoll r) r w := by
  have kept := State.rollOut_keeps (r := r).tables hs
  have mind := State.rollOut_minds (s := s) (r := r)
  have still := State.rollOut_within (s := s) (r := r)
  have hand : (s.rollOut r).handling = s.handling := still .handling (by decide)
  obtain ⟨w, h, all, e⟩ := State.withdrawRoll_eq kept r.id
  have jobs : (s.rollOut r).jobs = s.jobs := still .jobs (by decide)
  have back := h.congr jobs.symm
  have all' : ∀ j ∈ s.holders fun j => j.holdsRoll r.id, j ∈ w := fun j hj => all j (by
    unfold State.holders at *; rw [jobs]; exact hj)
  have gathered : (s.rollOut r).handling.gathered = none := by rw [hand]; exact hg
  obtain ⟨made, hand'⟩ := State.withdrawAll_hands (w := w) (.roll r.id) State.rollOut_hands gathered
  have minds := mind.trans ((s.rollOut r).withdrawAll_minds w (.roll r.id))
  have settled := minds.sound hs.store
  rw [State.takeOutRoll_eq, e]
  have called : (s.rollOut r).store.called = s.store.called := State.rollOut_hands.called
  refine ⟨w, back.holdersOf all', back.length_eq hs all', fun j hj => ?_, fun n hn => ?_, fun c => ?_, ?_, fun n hn => ?_,
    minds.trans (State.commit_minds _ _), fun j hj => ?_, ?_, fun b l hb => ?_, ?_, ?_, ?_⟩
  · rw [(State.commit_within _ _).job (by decide), State.withdrawAll_job _ kept (h.nodup kept.jobs) hj]
  · rw [(State.commit_within _ _).job (by decide), State.withdrawAll_job_ne _ hn, still.job (by decide)]
  · rw [(State.commit_within _ _).chan (by decide), State.withdrawAll_chan, still.chan (by decide)]
  · rw [(State.commit_within _ _).roll (by decide), State.withdrawAll_roll _ kept (State.rollOut_roll hs.rolls), h.heldOn]
    rfl
  · rw [(State.commit_within _ _).roll (by decide), State.withdrawAll_roll_ne _ (h.elsewhere hn), State.rollOut_roll_ne hn]
  · exact (State.withdrawAll_done _ kept (mind.handles hh) gathered hj).commit settled _
  · exact State.commit_done (by rw [hand']; exact gathered) settled (minds.handles hh) (by simp)
  · have quiet := hb.minds mind hs.store (still .notices (by decide))
    have raised := quiet.withdrawAll (w := w) (.roll r.id) kept gathered
    rw [called] at raised
    exact raised.minds (State.commit_minds _ _) settled ((State.commit_within _ _) .notices (by decide))
  · have := State.commit_hands made (by rw [hand']; exact gathered) [.roll r.id]
    rwa [Nat.zero_add] at this
  · have all : s.within (.out :: lawFields) (s.rollOut r) := still.mono (by decide)
    exact (all.next (.out :: lawFields) (State.withdrawAll_within _ w _)).next _ (State.commit_within _ _)
  · rw [(State.commit_within _ _) .out (by decide), (State.withdrawAll_within _ w _) .out (by decide)]
    exact State.rollOut_out
end

/-! ### UNLOAD ROLL (R107) -/

section
variable {s : State} {id : Nat}

/-- A roll is busy: ACTIVE, with one of its jobs under way or a cut queued (R107). -/
def State.rollBusy (s : State) (id : Nat) (r : Roll) : Prop :=
  r.state = .active ∧
    ((∃ j ∈ s.jobs, (j.state = .printing ∨ j.state = .finishing) ∧ j.spec.roll = id) ∨ s.media.queue ≠ [])

theorem unloadRoll_unknown (h : s.roll? id = none) : unloadRoll id s = ⟨s, .unknownRoll, .empty⟩ := by
  unfold unloadRoll; rw [h]; rfl

theorem unloadRoll_out {r : Roll} (h : s.roll? id = some r) (hr : r.slot = none) :
    unloadRoll id s = ⟨s, .wrongState, .empty⟩ := by unfold unloadRoll; rw [h]; exact if_pos hr

theorem unloadRoll_cases {r : Roll} (h : s.roll? id = some r) (hr : r.slot ≠ none) :
    (s.rollBusy id r → unloadRoll id s = ⟨s, .busy, .empty⟩) ∧
      (¬ s.rollBusy id r → unloadRoll id s = ⟨s.takeOutRoll r, .ok, .unloaded (s.rollHolders id)⟩) := by
  have under : (s.jobs.any fun j => (j.state == .printing || j.state == .finishing) && j.spec.roll == id) = true ↔
      ∃ j ∈ s.jobs, (j.state = .printing ∨ j.state = .finishing) ∧ j.spec.roll = id := by simp
  unfold unloadRoll State.rollBusy
  rw [h]
  simp only [if_neg hr, under]
  exact ⟨fun b => if_pos b, fun b => if_neg b⟩
end

/-- Settles O37: the table by the cases of `unloadRoll`, and `State.tookOut` for what it leaves. -/
theorem unloadRollWithdrawsItsJobs : Obligations.UnloadRollWithdrawsItsJobs := by
  unfold Obligations.UnloadRollWithdrawsItsJobs
  intro s seq id hr hs
  dsimp only
  have same : ∀ {st b}, unloadRoll id s.opened = ⟨s.opened, st, b⟩ →
      exec (.unloadRoll seq id) s = .next (s.answerOnly 0x32 seq st b) := fun h => exec_same hr hs rfl h
  constructor
  · rintro st (⟨h, rfl⟩ | ⟨-, h⟩)
    · exact same (unloadRoll_unknown (s := s.opened) h)
    rcases h with ⟨⟨r, h, out⟩, rfl⟩ | ⟨slot, h⟩
    · exact same (unloadRoll_out (s := s.opened) h out)
    rcases h with ⟨⟨⟨r, h, active⟩, busy⟩, rfl⟩ | ⟨-, h⟩
    · have inSlot : r.slot ≠ none := fun e => slot ⟨r, h, e⟩
      exact same ((unloadRoll_cases (s := s.opened) h inSlot).1 ⟨active, busy⟩)
    · cases h
  · intro r free h
    have slot : r.slot ≠ none := fun e => free (_, .wrongState) (.tail _ (.head _)) ⟨r, h, e⟩
    have idle : ¬ s.rollBusy id r := fun b => free (_, .busy) (.tail _ (.tail _ (.head _))) ⟨⟨r, h, b.1⟩, b.2⟩
    have taken := (unloadRoll_cases (s := s.opened) (id := id) h slot).2 idle
    obtain rfl : r.id = id := State.roll_key h
    obtain ⟨w, o⟩ := State.takeOutRoll_tookOut (s := s.opened) (r := r) (State.opened_tables hs.tables) s.opened_handles rfl
    obtain ⟨p, e, a⟩ := exec_taken hr (i := .unloadRoll seq r.id) rfl taken (o.frame .port (by decide))
    rw [o.count] at a
    refine ⟨_, w, e, o.holders, ⟨fun j hj => ⟨(State.closed_job ..).trans (o.jobs j hj), o.mind.commits hs (o.done j hj) p⟩,
      fun c => (State.closed_chan ..).trans (o.chan c)⟩, (State.closed_roll ..).trans o.roll,
      fun n hn => (State.closed_roll ..).trans (o.rolls n hn), fun n hn => (State.closed_job ..).trans (o.rest n hn),
      ?_, o.out, fun active => ?_, o.mind.commits hs o.rollDone p, o.hands, a,
      State.frame (State.closed_within o.frame p [.rolls, .jobs, .channels, .notices, .store, .port, .out])⟩
    · exact (o.heard s.opened [] s.opened.heard_refl).requested _ o.mind p rfl
    · obtain ⟨x, hx, hi⟩ := Option.map_eq_some_iff.mp active
      obtain ⟨mem, state⟩ := State.activeRoll_mem hx
      have tables : (s.opened.takeOutRoll r).tables := (State.takeOutRoll_keeps _ _).tables (State.opened_tables hs.tables)
      have here := State.roll_of_mem tables.rolls mem
      rw [hi, o.roll] at here
      rw [← Option.some.inj here] at state
      unfold Roll.out at state
      dsimp only at state
      split at state <;> cases state

end Sys2Proof.Machine
end

-- ==== Sys2Proof/Proofs/links ====
section
/-!
A message of the Media Link or the Sensor Link handled at once, held, or discarded (R194, R200), in the terms of the claims.
-/

namespace Sys2Proof.Machine

theorem State.thenFlush_eq (t : State) : t.thenFlush = t.advanceFlush := by
  unfold State.thenFlush
  split
  · rfl
  · rename_i h; unfold State.advanceFlush; rw [if_pos (.inl h)]

theorem State.discards_iff {s : State} : s.takesMessages = false ↔ s.discardsMessages := by
  unfold State.takesMessages State.discardsMessages
  cases s.phase <;> simp

/-- What a Media Link message leaves: the state its handling leaves, with the handling ended and the link waiting. -/
def State.linked (u s : State) : State :=
  { u with handling := s.handling, media := { u.media with waiting := u.store.openAbove s.store.called } }

/-- What a Sensor Link message leaves. -/
def State.sensed (u s : State) : State :=
  { u with handling := s.handling, check := { u.check with waiting := u.store.openAbove s.store.called } }

section
variable {s u : State}

theorem MediaMsg.exec_command (m : MediaMsg) (s : State) : exec m.command s = .next (s.mediaArrives m) := by
  cases m <;> rfl

theorem exec_mediaHeld {m : MediaMsg} (h : s.mediaWaits) : exec m.command s = .next (s.holdsMedia m) := by
  rw [m.exec_command]
  unfold State.mediaArrives
  have busy : (s.quiet.media.waiting.isEmpty && s.quiet.media.held.isEmpty) = false := by
    rw [← Bool.not_eq_true, Bool.and_eq_true, List.isEmpty_iff, List.isEmpty_iff]; exact h.2
  have takes : s.quiet.takesMessages = true := s.quiet.takesMessages_iff.mpr h.1
  dsimp only
  rw [takes, busy]
  rfl

theorem exec_mediaDiscarded {m : MediaMsg} (h : s.discardsMessages) : exec m.command s = .next { s with out := [] } := by
  rw [m.exec_command]
  unfold State.mediaArrives
  have takes : s.quiet.takesMessages = false := State.discards_iff.mpr h
  dsimp only
  rw [takes]
  rfl

/-- A Media Link message handled at once. -/
theorem exec_mediaTaken {m : MediaMsg} (h : s.mediaFree) (hu : State.handleMedia m s.opened = u) :
    exec m.command s = .next (u.linked s).thenFlush := by
  subst hu
  rw [m.exec_command, State.thenFlush_eq]
  unfold State.mediaArrives
  have takes : s.quiet.takesMessages = true := s.quiet.takesMessages_iff.mpr h.1
  have free : (s.quiet.media.waiting.isEmpty && s.quiet.media.held.isEmpty) = true := by
    rw [Bool.and_eq_true, List.isEmpty_iff, List.isEmpty_iff]; exact h.2
  dsimp only
  rw [takes, free]
  rfl

/-- One that changes nothing but fields of the Media Unit. -/
theorem exec_mediaSet {m : MediaMsg} (h : s.mediaFree) (hs : s.sound) (f : Media → Media) (hf : ∀ x, (f x).waiting = x.waiting)
    (hu : State.handleMedia m s.opened = s.opened.setMedia f) :
    exec m.command s = .next (State.thenFlush { s with media := f s.media, out := [] }) := by
  rw [exec_mediaTaken h hu]
  have none : (s.opened.setMedia f).store.openAbove s.store.called = [] := hs.noneAbove
  have same : (s.opened.setMedia f).linked s = { s with media := f s.media, out := [] } := by
    unfold State.linked
    rw [none]
    show ({ s with media := { f s.media with waiting := [] }, out := [] } : State) = _
    congr 1
    rw [← h.2.1, ← hf]
  rw [same]

/-- One that changes nothing. -/
theorem exec_mediaSame {m : MediaMsg} (h : s.mediaFree) (hs : s.sound) (hu : State.handleMedia m s.opened = s.opened) :
    exec m.command s = .next (State.thenFlush { s with out := [] }) :=
  exec_mediaSet h hs id (fun _ => rfl) hu

theorem exec_readingHeld {m : ReadingMsg} (h : s.sensorWaits) : exec (.reading m) s = .next (s.holdsReading m) := by
  show Host.Outcome.next (s.readingArrives m) = _
  unfold State.readingArrives
  have busy : (s.quiet.check.waiting.isEmpty && s.quiet.check.held.isEmpty) = false := by
    rw [← Bool.not_eq_true, Bool.and_eq_true, List.isEmpty_iff, List.isEmpty_iff]; exact h.2
  have takes : s.quiet.takesMessages = true := s.quiet.takesMessages_iff.mpr h.1
  dsimp only
  rw [takes, busy]
  rfl

theorem exec_readingDiscarded {m : ReadingMsg} (h : s.discardsMessages) :
    exec (.reading m) s = .next { s with out := [] } := by
  show Host.Outcome.next (s.readingArrives m) = _
  unfold State.readingArrives
  have takes : s.quiet.takesMessages = false := State.discards_iff.mpr h
  dsimp only
  rw [takes]
  rfl

/-- A READING handled at once. -/
theorem exec_readingTaken {m : ReadingMsg} (h : s.sensorFree) (hu : s.opened.takeReading m = u) :
    exec (.reading m) s = .next (u.sensed s).thenFlush := by
  subst hu
  rw [State.thenFlush_eq]
  show Host.Outcome.next (s.readingArrives m) = _
  unfold State.readingArrives
  have takes : s.quiet.takesMessages = true := s.quiet.takesMessages_iff.mpr h.1
  have free : (s.quiet.check.waiting.isEmpty && s.quiet.check.held.isEmpty) = true := by
    rw [Bool.and_eq_true, List.isEmpty_iff, List.isEmpty_iff]; exact h.2
  dsimp only
  rw [takes, free]
  rfl

/-- One that changes nothing. -/
theorem exec_readingSame {m : ReadingMsg} (h : s.sensorFree) (hs : s.sound) (hu : s.opened.takeReading m = s.opened) :
    exec (.reading m) s = .next (State.thenFlush { s with out := [] }) := by
  rw [exec_readingTaken h hu]
  have none : s.opened.store.openAbove s.store.called = [] := hs.noneAbove
  have same : s.opened.sensed s = { s with out := [] } := by
    unfold State.sensed
    rw [none]
    show ({ s with check := { s.check with waiting := [] }, out := [] } : State) = _
    congr 1
    rw [← h.2.1]
  rw [same]

/-! ### What a handled message leaves -/

theorem State.linked_image (k : RecKey) : (u.linked s).image k = u.image k :=
  State.image_congr rfl rfl rfl rfl rfl rfl rfl rfl rfl rfl rfl rfl k

theorem State.sensed_image (k : RecKey) : (u.sensed s).image k = u.image k :=
  State.image_congr rfl rfl rfl rfl rfl rfl rfl rfl rfl rfl rfl rfl k

theorem State.linked_job (n : Nat) : (u.linked s).job? n = u.job? n := rfl
theorem State.linked_roll (n : Nat) : (u.linked s).roll? n = u.roll? n := rfl
theorem State.linked_chan (c : Chan) : (u.linked s).chan c = u.chan c := rfl

/-- The records a handling has taken are committed. -/
theorem State.minds.linked {k : RecKey} (h : s.opened.minds u) (hs : s.sound) (hd : u.done k) : s.commits (u.linked s) k :=
  State.commits_congr ((h.ledger _ (State.ledger_refl hs.tables.store)).commits hd) rfl s.opened_image rfl
    fun k => State.linked_image k

theorem State.minds.sensed {k : RecKey} (h : s.opened.minds u) (hs : s.sound) (hd : u.done k) : s.commits (u.sensed s) k :=
  State.commits_congr ((h.ledger _ (State.ledger_refl hs.tables.store)).commits hd) rfl s.opened_image rfl
    fun k => State.sensed_image k

/-- The notices a handling has raised. -/
theorem State.heard.linked {m : List (Nat × Subject × Detail)} (l : List (Nat × Subject × Detail))
    (h : s.opened.heard u m) (hm : s.opened.minds u) (hl : m = l.map fun n => (s.store.called + n.1, n.2)) :
    s.noticed (u.linked s) l := h.noticed rfl hm.since rfl rfl hl

theorem State.heard.sensed {m : List (Nat × Subject × Detail)} (l : List (Nat × Subject × Detail))
    (h : s.opened.heard u m) (hm : s.opened.minds u) (hl : m = l.map fun n => (s.store.called + n.1, n.2)) :
    s.noticed (u.sensed s) l := h.noticed rfl hm.since rfl rfl hl

/-- Beside its handling's fields a message of a link changes the link, the store and the messages sent. -/
theorem State.linked_within {l : List Field} (h : s.opened.within l u) (m : List Field)
    (hm : Field.media :: l.filter (· ≠ .handling) ⊆ m := by decide) : s.quiet.within m (u.linked s) := by
  intro f hf
  by_cases h1 : f = .media
  · exact absurd (hm (h1 ▸ List.mem_cons_self)) hf
  by_cases h2 : f = .handling
  · subst h2; rfl
  have same := h f fun hl => hf (hm (List.mem_cons_of_mem _ (List.mem_filter.mpr ⟨hl, by simpa using h2⟩)))
  cases f <;> first | exact absurd rfl h1 | exact absurd rfl h2 | (simp only [Field.same] at same ⊢; exact same)

theorem State.sensed_within {l : List Field} (h : s.opened.within l u) (m : List Field)
    (hm : Field.check :: l.filter (· ≠ .handling) ⊆ m := by decide) : s.quiet.within m (u.sensed s) := by
  intro f hf
  by_cases h1 : f = .check
  · exact absurd (hm (h1 ▸ List.mem_cons_self)) hf
  by_cases h2 : f = .handling
  · subst h2; rfl
  have same := h f fun hl => hf (hm (List.mem_cons_of_mem _ (List.mem_filter.mpr ⟨hl, by simpa using h2⟩)))
  cases f <;> first | exact absurd rfl h1 | exact absurd rfl h2 | (simp only [Field.same] at same ⊢; exact same)
end

end Sys2Proof.Machine
end

-- ==== Sys2Proof/Proofs/present ====
section
/-!
O42: ROLL_PRESENT, and ROLL_END of a LOADED roll (R113, R126).
-/

namespace Sys2Proof.Machine

/-! ### The roll law restored in a handling (R10, R11, R103) -/

/-- What is left where the roll law was restored by withdrawing the jobs `w` and trimming `cut` off the printing job, in
the handling in hand. -/
structure State.restored (s t : State) (r : Roll) (w : List Job) (cut : Nat) : Prop where
  turns : s.turns (fun j => j.holdsRoll r.id) w
  can : s.withdrawable w (Job.heldOn r.id) r.reserved (r.length - r.fed)
  excess : cut = (s.printing?.map (r.excess w)).getD 0
  jobs : ∀ j ∈ w, t.job? j.tag = some j.afterWithdrawal
  rest : ∀ n, (∀ j ∈ w, j.tag ≠ n) → (∀ j, s.printing? = some j → cut ≠ 0 → j.tag ≠ n) → t.job? n = s.job? n
  trimmed : ∀ j, s.printing? = some j → cut ≠ 0 → t.done (.job j.tag) ∧ t.job? j.tag =
    some { j with rollRes := j.rollRes - cut, flags := { j.flags with overrunMedia := true } }
  chan : ∀ c, t.chan c = { s.chan c with reserved := (s.chan c).reserved - (w.map fun j => j.ink.get c).sum }
  roll : t.roll? r.id = some { r with reserved := r.reserved - (w.map Job.rollRes).sum - cut }
  rolls : ∀ n, n ≠ r.id → t.roll? n = s.roll? n
  mind : s.minds t
  done : ∀ j ∈ w, t.done (.job j.tag)
  heard : ∀ (b : State) l, b.heard s l → b.heard t (l ++ withdrawalsFrom s.store.called w (.roll r.id))
  hands : s.store.hands t.store (w.length + if cut = 0 then 0 else 1)
  frame : s.within lawFields t
  handling : t.handling = s.handling

section
variable {s : State} {r : Roll}

/-- No trim: the withdrawals are all that was done. -/
theorem State.withdrawAll_restored (hs : s.tables) (hh : s.handles) (hg : s.handling.gathered = none)
    (hr : s.roll? r.id = some r) {w : List Job} (h : s.turns (fun j => j.holdsRoll r.id) w)
    (can : s.withdrawable w (Job.heldOn r.id) r.reserved (r.length - r.fed))
    (cut : 0 = (s.printing?.map (r.excess w)).getD 0) : s.restored (s.withdrawAll w (.roll r.id)) r w 0 := by
  obtain ⟨made, hand⟩ := State.withdrawAll_hands (w := w) (.roll r.id) s.store.hands_refl hg
  refine ⟨h, can, cut, fun j hj => State.withdrawAll_job _ hs (h.nodup hs.jobs) hj,
    fun n hn _ => State.withdrawAll_job_ne _ hn, fun j _ ne => absurd rfl ne, fun c => State.withdrawAll_chan _ _ _ c, ?_,
    fun n hn => State.withdrawAll_roll_ne _ (h.elsewhere hn), s.withdrawAll_minds w _,
    fun j hj => State.withdrawAll_done _ hs hh hg hj, fun b l hb => hb.withdrawAll _ hs hg, ?_, s.withdrawAll_within w _,
    hand⟩
  · rw [State.withdrawAll_roll _ hs hr, h.heldOn, Nat.sub_zero]
  · rw [Nat.zero_add] at made; exact made

/-- The printing job's trim, behind the withdrawals. -/
theorem State.cutRoll_restored (hs : s.tables) (hh : s.handles) (hg : s.handling.gathered = none)
    (hr : s.roll? r.id = some r) {w : List Job} (h : s.turns (fun j => j.holdsRoll r.id) w)
    (can : s.withdrawable w (Job.heldOn r.id) r.reserved (r.length - r.fed)) {j : Job} (hj : s.printing? = some j)
    (some : r.excess w j ≠ 0) :
    s.restored (((s.withdrawAll w (.roll r.id)).cutRoll j (r.excess w j)).commit [.job j.tag]) r w (r.excess w j) := by
  have base := State.withdrawAll_restored hs hh hg hr h can
  have on : j.spec.roll = r.id := by
    by_contra ne
    exact some (by unfold Roll.excess Job.heldOn; rw [if_neg ne]; exact Nat.zero_min _)
  have le : r.excess w j ≤ j.rollRes := (Nat.min_le_left _ _).trans (by unfold Job.heldOn; rw [if_pos on])
  have here := State.withdrawAll_roll (w := w) (.roll r.id) hs hr
  rw [h.heldOn] at here
  obtain ⟨took, tells, job, chans, rolls, roll⟩ :=
    State.trimmedRoll hs h hj (.roll r.id) le ((congrArg _ on).trans here)
  obtain ⟨made, -, hand⟩ := tells.now hg
  have before := s.withdrawAll_minds w (.roll r.id)
  have mind := before.trans (State.cutRoll_minds (j := j) (cut := r.excess w j))
  have kept := (s.withdrawAll_keeps w (.roll r.id)).tables hs
  have still := State.cutRoll_within (s := s.withdrawAll w (.roll r.id)) (j := j) (cut := r.excess w j)
  have gathered : ((s.withdrawAll w (.roll r.id)).cutRoll j (r.excess w j)).handling.gathered = none := by
    rw [still .handling (by decide), (State.withdrawAll_hands (w := w) (.roll r.id) s.store.hands_refl hg).2]; exact hg
  have store := State.moveRoll_store kept.rolls j.spec.roll j.rollRes (j.rollRes - r.excess w j)
  rw [on] at rolls roll
  refine ⟨h, can, by rw [hj]; rfl, took.jobs, fun n hn hp => ?_, fun k hk _ => ?_, fun c => ?_, roll, fun n hn => ?_,
    mind.trans (State.commit_minds _ _), fun k hk => ?_, fun b l hb => ?_, ?_, took.frame, hand⟩
  · rw [(State.commit_within _ _).job (by decide), State.cutRoll_job_ne (hp j hj some).symm, State.withdrawAll_job_ne _ hn]
  · obtain rfl := Option.some.inj (hj.symm.trans hk)
    exact ⟨State.commit_done gathered (mind.sound hs.store) (mind.handles hh) (by simp), job⟩
  · exact (chans c).trans (State.withdrawAll_chan _ _ _ c)
  · exact (rolls n hn).trans (State.withdrawAll_roll_ne _ (h.elsewhere hn))
  · have apart : k.tag ≠ j.tag := h.apart hs (State.printing_mem hj).1 (State.printing_apart h hj) k hk
    have now := State.withdrawAll_done (w := w) (.roll r.id) hs hh hg hk
    exact (State.cutRoll_minds.done (before.sound hs.store) now (State.setJob_keeps_saved store
      { j with rollRes := j.rollRes - r.excess w j, flags := { j.flags with overrunMedia := true } } _ now.1
      fun e => apart (RecKey.job.inj e))).commit (mind.sound hs.store) _
  · exact (hb.withdrawAll (w := w) (.roll r.id) hs hg).minds (State.cutRoll_minds.trans (State.commit_minds _ _))
      (before.sound hs.store) (((State.commit_within _ _) .notices (by decide)).trans (still .notices (by decide)))
  · rw [if_neg some]
    simpa using made

theorem State.enforceRoll_restored (hs : s.tables) (hh : s.handles) (hg : s.handling.gathered = none)
    (hr : s.roll? r.id = some r) : ∃ w cut, s.restored (s.enforceRoll r.id) r w cut := by
  obtain ⟨w, h, can, e⟩ := State.enforceRoll_eq hs hr
  rw [e]
  cases hp : s.printing? with
  | none =>
    rw [State.trimRoll_none ((State.withdrawAll_printing _ hs (h.nodup hs.jobs) h.mem).trans hp)]
    exact ⟨w, 0, State.withdrawAll_restored hs hh hg hr h can (by rw [hp]; rfl)⟩
  | some j =>
    rw [State.trimRoll_withdrawn hs h hp hr]
    by_cases zero : r.excess w j = 0
    · rw [if_pos zero]
      exact ⟨w, 0, State.withdrawAll_restored hs hh hg hr h can (by rw [hp]; exact zero.symm)⟩
    · rw [if_neg zero]
      exact ⟨w, _, State.cutRoll_restored hs hh hg hr h can hp zero⟩
end

/-! ### ROLL_PRESENT (R113) -/

section
variable {s : State} {slot presence : Nat} {p : RollSlot} {v : Presence} {r : Roll}

theorem rollSlotOf_none (h : 1 < slot) : rollSlotOf slot = none := by
  match slot, h with
  | n + 2, _ => rfl

theorem presenceOf_none (h : 1 < presence) : presenceOf presence = none := by
  match presence, h with
  | n + 2, _ => rfl

theorem State.takeRollPresent_outside (h : 1 < slot ∨ 1 < presence) : s.takeRollPresent slot presence = s := by
  unfold State.takeRollPresent
  rcases h with h | h
  · rw [rollSlotOf_none h]
  · rw [presenceOf_none h]; cases rollSlotOf slot <;> rfl

theorem State.takeRollPresent_recorded (hp : rollSlotOf slot = some p) (hv : presenceOf presence = some v)
    (h : v = .present ∨ s.rollIn p = none) :
    s.takeRollPresent slot presence = s.setMedia fun m => m.setPresence p v := by
  unfold State.takeRollPresent
  rw [hp, hv]
  dsimp only
  rcases h with rfl | h
  · rfl
  · rw [h]; cases v <;> rfl

theorem State.takeRollPresent_absent (hp : rollSlotOf slot = some p) (hv : presenceOf presence = some .absent)
    (h : s.rollIn p = some r) :
    s.takeRollPresent slot presence = (s.setMedia fun m => m.setPresence p .absent).absent r := by
  unfold State.takeRollPresent
  rw [hp, hv]
  dsimp only
  rw [h]

/-- An ENDED roll leaves its slot, and no job is withdrawn. -/
theorem State.absent_ended (h : r.state = .ended) : s.absent r = (s.setRoll r.out).commit [.roll r.id] := by
  have e : r.out = { r with slot := none } := by unfold Roll.out; rw [if_pos h, ← h]
  rw [e]
  cases r
  cases h
  rfl

theorem State.absent_loaded (h : r.state = .loaded) : s.absent r = s.takeOutRoll r := by unfold State.absent; rw [h]

end

/-- What is left where an absent roll was taken out (R113): the record of the presence, and the roll out of its slot. -/
structure State.leftSlot (s t : State) (r : Roll) (w : List Job) : Prop where
  jobs : ∀ j ∈ w, t.job? j.tag = some j.afterWithdrawal ∧ t.done (.job j.tag)
  rest : ∀ n, (∀ j ∈ w, j.tag ≠ n) → t.job? n = s.job? n
  chan : ∀ c, t.chan c = { s.chan c with reserved := (s.chan c).reserved - (w.map fun j => j.ink.get c).sum }
  roll : t.roll? r.id = some { r.out with reserved := r.reserved - (w.map Job.rollRes).sum }
  rolls : ∀ n, n ≠ r.id → t.roll? n = s.roll? n
  mind : s.minds t
  rollDone : t.done (.roll r.id)
  heard : s.heard t (withdrawalsFrom s.store.called w (.roll r.id))
  hands : s.store.hands t.store (w.length + 1)
  frame : s.within lawFields t

theorem State.tookOut.leftSlot {s t : State} {r : Roll} {w : List Job} (h : s.tookOut t r w) (hr : r.state ≠ .active) :
    s.leftSlot t r w where
  jobs j hj := ⟨h.jobs j hj, h.done j hj⟩
  rest := h.rest
  chan := h.chan
  roll := h.roll
  rolls := h.rolls
  mind := h.mind
  rollDone := h.rollDone
  heard := h.heard s [] s.heard_refl
  hands := h.hands
  frame f hf := by
    by_cases e : f = .out
    · subst e
      show t.out = s.out
      rw [h.out, if_neg hr, List.append_nil]
    · exact h.frame f fun m => (List.mem_cons.mp m).elim e hf

theorem State.setRoll_leftSlot {s : State} {r : Roll} (hs : s.tables) (hh : s.handles) (hg : s.handling.gathered = none) :
    s.leftSlot ((s.setRoll r.out).commit [.roll r.id]) r [] where
  jobs _ hj := absurd hj (by simp)
  rest n _ := by rw [(State.commit_within _ _).job (by decide), (State.setRoll_within _ _).job (by decide)]
  chan c := by rw [(State.commit_within _ _).chan (by decide), (State.setRoll_within _ _).chan (by decide)]; rfl
  roll := by
    rw [(State.commit_within _ _).roll (by decide)]
    exact State.roll_setRoll_self (x := r.out) hs.rolls
  rolls n hn := by
    rw [(State.commit_within _ _).roll (by decide)]
    exact State.roll_setRoll_ne (x := r.out) hn
  mind := (s.setRoll_minds _).trans (State.commit_minds _ _)
  rollDone := State.commit_done (by rw [(State.setRoll_within _ _) .handling (by decide)]; exact hg)
    ((s.setRoll_minds _).sound hs.store) ((s.setRoll_minds _).handles hh) (by simp)
  heard := s.heard_refl.minds ((s.setRoll_minds _).trans (State.commit_minds _ _)) hs.store
    (((State.commit_within _ _) .notices (by decide)).trans ((State.setRoll_within _ _) .notices (by decide)))
  hands := State.commit_hands (State.setRoll_hands s.store.hands_refl _)
    (by rw [(State.setRoll_within _ _) .handling (by decide)]; exact hg) _
  frame := ((s.setRoll_within _).mono (by decide)).trans ((State.commit_within _ _).mono (by decide))

/-! ### ROLL_END of a LOADED roll (R126) -/

section
variable {s : State} {slot : Nat} {r : Roll}

theorem State.takeRollEnd_none (h : (rollSlotOf slot).bind s.rollIn = none) : s.takeRollEnd slot = s := by
  unfold State.takeRollEnd; rw [h]

theorem State.takeRollEnd_ended (h : (rollSlotOf slot).bind s.rollIn = some r) (hr : r.state = .ended) :
    s.takeRollEnd slot = s := by
  unfold State.takeRollEnd; rw [h]; dsimp only; rw [hr]

theorem State.takeRollEnd_loaded (h : (rollSlotOf slot).bind s.rollIn = some r) (hr : r.state = .loaded) :
    s.takeRollEnd slot = s.endLoadedRoll r := by
  unfold State.takeRollEnd; rw [h]; dsimp only; rw [hr]

/-- A roll at its end: its length is its fed length (R125, R126). -/
def Roll.atEnd (r : Roll) : Roll := { r with length := r.fed, state := .ended }

theorem State.withdrawable_congr {t : State} {w : List Job} {holds : Job → Nat} {a b : Nat} (hj : t.jobs = s.jobs)
    (h : t.withdrawable w holds a b) : s.withdrawable w holds a b := by
  unfold State.withdrawable at *; rw [← hj]; exact h

/-- What is left where a LOADED roll ended: the law restored on it, ROLL_END raised and the roll committed. -/
structure State.endedLoaded (s t : State) (r : Roll) (w : List Job) (cut : Nat) : Prop where
  can : s.withdrawable w (Job.heldOn r.id) r.reserved 0
  cut_eq : cut = ((s.printing?.filter fun j => j.spec.roll == r.id).map fun j =>
    min j.rollRes (r.reserved - (w.map Job.rollRes).sum)).getD 0
  jobs : ∀ j ∈ w, t.job? j.tag = some j.afterWithdrawal ∧ t.done (.job j.tag)
  rest : ∀ n, (∀ j ∈ w, j.tag ≠ n) → (∀ j, s.printing? = some j → cut ≠ 0 → j.tag ≠ n) → t.job? n = s.job? n
  trimmed : ∀ j, s.printing? = some j → cut ≠ 0 → t.done (.job j.tag) ∧ t.job? j.tag =
    some { j with rollRes := j.rollRes - cut, flags := { j.flags with overrunMedia := true } }
  chan : ∀ c, t.chan c = { s.chan c with reserved := (s.chan c).reserved - (w.map fun j => j.ink.get c).sum }
  roll : t.roll? r.id = some { r.atEnd with reserved := r.reserved - (w.map Job.rollRes).sum - cut }
  rolls : ∀ n, n ≠ r.id → t.roll? n = s.roll? n
  mind : s.minds t
  rollDone : t.done (.roll r.id)
  heard : s.heard t (withdrawalsFrom s.store.called w (.roll r.id) ++
    [(s.store.called + (w.length + if cut = 0 then 0 else 1), .num r.id, .rollEnd r.fed 0 false)])
  hands : s.store.hands t.store (w.length + (if cut = 0 then 0 else 1) + 1)
  frame : s.within lawFields t

theorem State.endLoadedRoll_leaves (hs : s.tables) (hh : s.handles) (hg : s.handling.gathered = none) :
    ∃ w cut, s.endedLoaded (s.endLoadedRoll r) r w cut := by
  have still := s.setRoll_within r.atEnd
  have mind0 := s.setRoll_minds r.atEnd
  have kept : s.keeps (s.setRoll r.atEnd) := State.setRoll_keeps (by intro h; cases h)
  have hand : (s.setRoll r.atEnd).handling = s.handling := still .handling (by decide)
  have jobs : (s.setRoll r.atEnd).jobs = s.jobs := still .jobs (by decide)
  have printing : (s.setRoll r.atEnd).printing? = s.printing? := by unfold State.printing?; rw [jobs]
  have hands0 : s.store.hands (s.setRoll r.atEnd).store 0 := State.setRoll_hands s.store.hands_refl _
  obtain ⟨w, cut, d⟩ := State.enforceRoll_restored (s := s.setRoll r.atEnd) (r := r.atEnd) (kept.tables hs)
    (mind0.handles hh) (by rw [hand]; exact hg) (State.roll_setRoll_self (x := r.atEnd) hs.rolls)
  have mind := mind0.trans d.mind
  have sound := mind.sound hs.store
  have made := Store.hands.trans hands0 d.hands
  rw [Nat.zero_add] at made
  have gathered : ((s.setRoll r.atEnd).enforceRoll r.id).handling.gathered = none := by
    show ((s.setRoll r.atEnd).enforceRoll r.atEnd.id).handling.gathered = none
    rw [d.handling, hand]; exact hg
  have same := State.raise_within ((s.setRoll r.atEnd).enforceRoll r.id) (.num r.id) (.rollEnd r.fed 0 false)
  have raised := (State.raise_minds ((s.setRoll r.atEnd).enforceRoll r.id) (.num r.id) (.rollEnd r.fed 0 false))
  show ∃ w cut, s.endedLoaded ((((s.setRoll r.atEnd).enforceRoll r.id).raise _ _).commit _) r w cut
  have turns := d.turns.congr jobs.symm
  refine ⟨w, cut, ?_, ?_, fun j hj => ⟨?_, ?_⟩, fun n hn hp => ?_, fun j hj ne => ⟨?_, ?_⟩, fun c => ?_, ?_, fun n hn => ?_,
    (mind.trans raised).trans (State.commit_minds _ _), ?_, ?_, ?_, ?_⟩
  · have can := State.withdrawable_congr jobs d.can
    rwa [show r.atEnd.length - r.atEnd.fed = 0 from Nat.sub_self r.fed] at can
  · rw [d.excess, printing]
    cases s.printing? with
    | none => rfl
    | some j =>
      show r.atEnd.excess w j = _
      unfold Roll.excess Job.heldOn
      rw [show (w.map fun j => if j.spec.roll = r.atEnd.id then j.rollRes else 0) = w.map Job.rollRes from turns.heldOn]
      rw [show r.atEnd.length - r.atEnd.fed = 0 from Nat.sub_self r.fed, Nat.sub_zero, Option.filter_some]
      by_cases on : j.spec.roll = r.id
      · rw [if_pos (show j.spec.roll = r.atEnd.id from on), if_pos (by simpa using on)]; rfl
      · rw [if_neg (show j.spec.roll ≠ r.atEnd.id from on), if_neg (by simpa using on)]; exact Nat.zero_min _
  · rw [(State.commit_within _ _).job (by decide), same.job (by decide)]; exact d.jobs j hj
  · exact (raised.done sound (d.done j hj) (d.done j hj).1).commit (raised.sound sound) _
  · rw [(State.commit_within _ _).job (by decide), same.job (by decide)]
    exact (d.rest n hn fun j hj => hp j (printing.symm.trans hj)).trans (still.job (by decide) n)
  · have := (d.trimmed j (printing.trans hj) ne).1
    exact (raised.done sound this this.1).commit (raised.sound sound) _
  · rw [(State.commit_within _ _).job (by decide), same.job (by decide)]
    exact (d.trimmed j (printing.trans hj) ne).2
  · rw [(State.commit_within _ _).chan (by decide), same.chan (by decide)]
    exact (d.chan c).trans (by rw [still.chan (by decide)])
  · rw [(State.commit_within _ _).roll (by decide), same.roll (by decide)]; exact d.roll
  · rw [(State.commit_within _ _).roll (by decide), same.roll (by decide)]
    exact (d.rolls n hn).trans (State.roll_setRoll_ne (x := r.atEnd) hn)
  · exact State.commit_done (s := State.raise _ _ _) gathered (raised.sound sound) (raised.handles (mind.handles hh))
      (List.mem_singleton_self _)
  · have quiet := s.heard_refl.minds mind0 hs.store (still .notices (by decide))
    have all := (d.heard s [] quiet).raise sound (.num r.id) (.rollEnd r.fed 0 false)
    rw [hands0.called, show ((s.setRoll r.atEnd).enforceRoll r.atEnd.id).store.called = _ from made.called] at all
    exact all.minds (State.commit_minds _ _) (raised.sound sound) ((State.commit_within _ _) .notices (by decide))
  · exact State.commit_hands (s := State.raise _ _ _) made gathered _
  · exact (((still.mono (by decide)).trans d.frame).next lawFields same).next lawFields (State.commit_within _ _)
end

/-- Settles O42: `State.leftSlot` and `State.endedLoaded` say what the two messages leave. -/
theorem rollPresentAndLoadedRollEnd : Obligations.RollPresentAndLoadedRollEnd := by
  unfold Obligations.RollPresentAndLoadedRollEnd
  refine ⟨fun s slot presence h => ⟨exec_mediaHeld (m := .rollPresent slot presence) h, exec_mediaHeld (m := .rollEnd slot) h⟩,
    fun s slot presence h => ⟨exec_mediaDiscarded (m := .rollPresent slot presence) h,
      exec_mediaDiscarded (m := .rollEnd slot) h⟩, fun s slot presence free hs => ⟨fun h => ?_, fun p v hp hv => ?_⟩,
    fun s slot free hs => ⟨fun h => ?_, fun r h => ⟨fun hr => ?_, fun hr => ?_⟩⟩⟩
  · exact exec_mediaSame (m := .rollPresent slot presence) free hs (State.takeRollPresent_outside h)
  · intro recorded
    have recorded_eq : recorded = s.media.setPresence p v := by
      show (match p with | .upper => _ | .lower => _) = _
      cases p <;> rfl
    rw [recorded_eq]
    refine ⟨fun h => ?_, fun r hv' h hr => ?_⟩
    · exact exec_mediaSet (m := .rollPresent slot presence) free hs (fun m => m.setPresence p v)
        (fun x => by cases p <;> rfl) (State.takeRollPresent_recorded (s := s.opened) hp hv h)
    · subst hv'
      let b := s.opened.setMedia fun m => m.setPresence p .absent
      have mind : s.opened.minds b := State.setMedia_minds _ _ (by cases p <;> rfl)
      have tables : b.tables := (State.setMedia_keeps _ _).tables (State.opened_tables hs.tables)
      obtain ⟨w, hold, none, o⟩ : ∃ w, (r.state = .loaded → s.holdersOf r.id w) ∧ (r.state = .ended → w = []) ∧
          b.leftSlot (b.absent r) r w := by
        rcases hr with hr | hr
        · obtain ⟨w, o⟩ := State.takeOutRoll_tookOut (s := b) (r := r) tables (mind.handles s.opened_handles) rfl
          refine ⟨w, fun _ => o.holders, fun e => absurd (hr.symm.trans e) (by decide), ?_⟩
          rw [State.absent_loaded hr]
          exact o.leftSlot (by rw [hr]; decide)
        · refine ⟨[], fun e => absurd (hr.symm.trans e) (by decide), fun _ => rfl, ?_⟩
          rw [State.absent_ended hr]
          exact State.setRoll_leftSlot tables (mind.handles s.opened_handles) rfl
      have taken : State.handleMedia (.rollPresent slot presence) s.opened = b.absent r :=
        State.takeRollPresent_absent (s := s.opened) hp hv h
      have all := mind.trans o.mind
      refine ⟨_, w, exec_mediaTaken (m := .rollPresent slot presence) free taken, ?_, hold, none,
        ⟨fun j hj => ⟨State.linked_job _ |>.trans (o.jobs j hj).1, all.linked hs (o.jobs j hj).2⟩,
          fun c => (State.linked_chan c).trans (o.chan c)⟩, (State.linked_roll _).trans o.roll,
        fun n hn => (State.linked_roll n).trans (o.rolls n hn), fun n hn => (State.linked_job n).trans (o.rest n hn), ?_,
        all.linked hs o.rollDone, o.hands, ?_⟩
      · show ({ (b.absent r).media with waiting := _ } : Media) = _
        rw [(o.frame .media (by decide) : (b.absent r).media = b.media)]
        rfl
      · exact State.heard.linked (s := s) _ (show s.opened.heard (b.absent r) _ from o.heard) all rfl
      · exact State.frame (State.linked_within (((State.setMedia_within s.opened _).mono (by decide)).trans
          (o.frame.mono (by decide)) : s.opened.within (.media :: lawFields) (b.absent r))
          [.media, .rolls, .jobs, .channels, .notices, .store])
  · exact exec_mediaSame (m := .rollEnd slot) free hs (State.takeRollEnd_none (s := s.opened) h)
  · exact exec_mediaSame (m := .rollEnd slot) free hs (State.takeRollEnd_ended (s := s.opened) h hr)
  · obtain ⟨w, cut, o⟩ := State.endLoadedRoll_leaves (s := s.opened) (r := r) (State.opened_tables hs.tables) s.opened_handles
      rfl
    have taken : State.handleMedia (.rollEnd slot) s.opened = s.opened.endLoadedRoll r :=
      State.takeRollEnd_loaded (s := s.opened) h hr
    have cut_eq : cut = ((s.printing?.filter fun j => j.spec.roll == r.id).map fun j =>
      min j.rollRes (r.reserved - (w.map Job.rollRes).sum)).getD 0 := o.cut_eq
    refine ⟨_, w, exec_mediaTaken (m := .rollEnd slot) free taken, o.can,
      ⟨fun j hj => ⟨State.linked_job _ |>.trans (o.jobs j hj).1, o.mind.linked hs (o.jobs j hj).2⟩,
        fun c => (State.linked_chan c).trans (o.chan c)⟩, ?_⟩
    dsimp only
    rw [← cut_eq]
    refine ⟨(State.linked_roll _).trans o.roll, fun n hn => (State.linked_roll n).trans (o.rolls n hn),
      fun n hn hp => (State.linked_job n).trans (o.rest n hn fun j hj ne => hp j ?_ ne), fun j hj ne => ?_,
      ?_, o.mind.linked hs o.rollDone, o.hands, ?_, State.frame (State.linked_within o.frame
        [.media, .rolls, .jobs, .channels, .notices, .store])⟩
    · refine Option.filter_eq_some_iff.mpr ⟨hj, ?_⟩
      by_contra no
      exact ne (cut_eq.trans (by rw [show s.printing? = some j from hj, Option.filter_some, if_neg no]; rfl))
    · obtain ⟨hj, -⟩ := Option.filter_eq_some_iff.mp hj
      obtain ⟨done, job⟩ := o.trimmed j hj ne
      exact ⟨o.mind.linked hs done, (State.linked_job _).trans job⟩
    · exact o.heard.linked _ o.mind (by rw [List.map_append]; rfl)
    · show ({ (s.opened.endLoadedRoll r).media with waiting := _ } : Media) = _
      rw [(o.frame .media (by decide) : (s.opened.endLoadedRoll r).media = s.media)]
      rfl

end Sys2Proof.Machine
end

-- ==== Sys2Proof/Proofs/settle ====
section
/-!
O53: what settlement leaves (R21 to R23, R166, R167, R182 to R186).
-/

namespace Sys2Proof.Machine

/-! ### Costing (R182 to R187) -/

/-- A job at its settlement, before it is costed (R22). -/
def State.judged (s : State) (j : Job) : Job :=
  { j with state := if j.dooms then .voided else .settled
           flags := { j.flags with uncertain := j.flags.uncertain || s.uncertainIn j } }

/-- The print number of a job at its costing: its edition's next one where that numbers it (R166). -/
def State.numberOf (s : State) (j : Job) : Option Nat :=
  ((j.spec.edition.bind s.edition?).map fun e => if e.numbers j then some (e.issued + 1) else none).getD j.number

/-- A costed job record (R182 to R185). -/
def State.costed (s : State) (j : Job) : Job :=
  { j with cost := some (s.costOf j), number := s.numberOf j
           flags := { j.flags with unpriced := j.flags.unpriced || s.unpricedIn j } }

/-- The accounts behind a costing (R183, R184, R186, R187). -/
def State.chargedOverhead (s : State) (j : Job) : Overhead :=
  { s.overhead with
    strips := satAdd Config.max64 s.overhead.strips (s.stripOverhead j)
    houseChecks :=
      if j.spec.edition = none ∧ j.spec.kind = .check then
        satAdd Config.max64 s.overhead.houseChecks ((s.costOf j).total * 1000000)
      else s.overhead.houseChecks }

section
variable {s : State} {j : Job} {id : Nat} {e : Edition}

/-- The overhead account with what the job's strip adds (R187). -/
def State.stripCharged (s : State) (j : Job) : State :=
  s.setOverhead { s.overhead with strips := satAdd Config.max64 s.overhead.strips (s.stripOverhead j) }

theorem State.stripCharged_within : s.within [.overhead, .store] (s.stripCharged j) := by
  intro f hf; cases f <;> first | (simp at hf; done) | simp [Field.same, State.stripCharged]

theorem State.costAndCarry_found (hi : j.spec.edition = some id) (he : s.edition? id = some e) :
    s.costAndCarry j = ((s.stripCharged j).setEdition (e.settle j (s.costOf j).total)).setJob (s.costed j) := by
  have here : (s.stripCharged j).edition? id = some e := (State.stripCharged_within.edition (by decide) id).trans he
  have number : s.numberOf j = if e.numbers j then some (e.issued + 1) else none := by
    unfold State.numberOf; rw [hi, Option.bind_some, he]; rfl
  unfold State.costAndCarry State.costed
  dsimp only
  rw [hi]
  dsimp only
  rw [show (s.setOverhead _).edition? id = some e from here, number]
  rfl

theorem State.costAndCarry_lost (hi : j.spec.edition = some id) (he : s.edition? id = none) :
    s.costAndCarry j = (s.stripCharged j).setJob (s.costed j) := by
  have here : (s.stripCharged j).edition? id = none := (State.stripCharged_within.edition (by decide) id).trans he
  have number : s.numberOf j = j.number := by unfold State.numberOf; rw [hi, Option.bind_some, he]; rfl
  unfold State.costAndCarry State.costed
  dsimp only
  rw [hi]
  dsimp only
  rw [show (s.setOverhead _).edition? id = none from here, number]
  rfl

theorem State.costAndCarry_house (hi : j.spec.edition = none) :
    s.costAndCarry j =
      (if j.spec.kind = .check then (s.stripCharged j).setOverhead (s.chargedOverhead j) else s.stripCharged j).setJob
        (s.costed j) := by
  have number : s.numberOf j = j.number := by unfold State.numberOf; rw [hi]; rfl
  unfold State.costAndCarry State.costed State.chargedOverhead
  dsimp only
  rw [hi, number]
  dsimp only
  by_cases hk : j.spec.kind = .check
  · simp only [hk, true_and, ↓reduceIte, State.setOverhead_overhead]
    rfl
  · rw [if_neg hk, if_neg hk]
    rfl

/-- Noting a change takes no other one back. -/
theorem State.noting_grows {t : State} {k n : RecKey} (h : n ∈ t.store.changed) : n ∈ (s.noting k t).store.changed :=
  (s.noting_notes t k).2.1 n h

/-- The three places where a job's total may go (R167, R186, R205). -/
theorem State.carry_cases (s : State) (j : Job) :
    (∃ id e, j.spec.edition = some id ∧ s.edition? id = some e) ∨ (∃ id, j.spec.edition = some id ∧ s.edition? id = none) ∨
      j.spec.edition = none := by
  cases hi : j.spec.edition with
  | none => exact .inr (.inr rfl)
  | some id =>
    cases he : s.edition? id with
    | none => exact .inr (.inl ⟨id, rfl, he⟩)
    | some e => exact .inl ⟨id, e, rfl, he⟩

theorem State.costAndCarry_shape (s : State) (j : Job) : ∃ u : State, s.costAndCarry j = u.setJob (s.costed j) ∧
    s.within [.editions, .overhead, .store] u ∧ s.store.hands u.store 0 ∧ u.overhead = s.chargedOverhead j ∧
      ∀ k ∈ s.store.changed, k ∈ u.store.changed := by
  have first : s.within [.editions, .overhead, .store] (s.stripCharged j) := State.stripCharged_within.mono (by decide)
  have hands : s.store.hands (s.stripCharged j).store 0 := State.setCounters_hands s.store.hands_refl _ _ _
  have charged : (s.stripCharged j).overhead = { s.overhead with
      strips := satAdd Config.max64 s.overhead.strips (s.stripOverhead j) } := State.setOverhead_overhead ..
  have grows : ∀ k ∈ s.store.changed, k ∈ (s.stripCharged j).store.changed := fun k hk => State.noting_grows hk
  rcases s.carry_cases j with ⟨id, e, hi, he⟩ | ⟨id, hi, he⟩ | hi
  · refine ⟨_, State.costAndCarry_found hi he, first.next _ (State.setEdition_within _ _), State.setEdition_hands hands _, ?_,
      fun k hk => State.noting_grows (grows k hk)⟩
    rw [State.setEdition_overhead, charged]
    unfold State.chargedOverhead
    rw [if_neg (by rw [hi]; exact fun h => nomatch h.1)]
  · refine ⟨_, State.costAndCarry_lost hi he, first, hands, ?_, grows⟩
    rw [charged]
    unfold State.chargedOverhead
    rw [if_neg (by rw [hi]; exact fun h => nomatch h.1)]
  · refine ⟨_, State.costAndCarry_house hi, ?_, ?_, ?_, ?_⟩
    · split
      · exact first.next _ (State.setOverhead_within _ _)
      · exact first
    · split
      · exact State.setCounters_hands hands _ _ _
      · exact hands
    · split
      · exact State.setOverhead_overhead ..
      · rename_i hk
        rw [charged]
        unfold State.chargedOverhead
        rw [if_neg fun h => hk h.2]
    · split
      · exact fun k hk => State.noting_grows (grows k hk)
      · exact grows

theorem State.costAndCarry_job (ho : ordered Job.tag s.jobs) : (s.costAndCarry j).job? j.tag = some (s.costed j) := by
  obtain ⟨u, e, still, -⟩ := s.costAndCarry_shape j
  rw [e]
  exact State.job_setJob_self (x := s.costed j) ((still .jobs (by decide) : u.jobs = s.jobs) ▸ ho)

theorem State.costAndCarry_job_ne {n : Nat} (h : n ≠ j.tag) : (s.costAndCarry j).job? n = s.job? n := by
  obtain ⟨u, e, still, -⟩ := s.costAndCarry_shape j
  rw [e]
  exact (State.job_setJob_ne (x := s.costed j) h).trans (still.job (by decide) n)

theorem State.costAndCarry_overhead : (s.costAndCarry j).overhead = s.chargedOverhead j := by
  obtain ⟨u, e, -, -, o, -⟩ := s.costAndCarry_shape j
  rw [e, State.setJob_overhead, o]

theorem State.costAndCarry_hands : s.store.hands (s.costAndCarry j).store 0 := by
  obtain ⟨u, e, -, hands, -⟩ := s.costAndCarry_shape j
  rw [e]
  exact State.setJob_hands hands _

/-- Costing commits nothing. -/
theorem State.costAndCarry_grows {k : RecKey} (hk : k ∈ s.store.changed) : k ∈ (s.costAndCarry j).store.changed := by
  obtain ⟨u, e, -, -, -, grows⟩ := s.costAndCarry_shape j
  rw [e]
  exact State.noting_grows (grows k hk)

theorem State.costAndCarry_still : s.within [.jobs, .editions, .overhead, .store] (s.costAndCarry j) := by
  obtain ⟨u, e, still, -⟩ := s.costAndCarry_shape j
  rw [e]
  exact still.next [.jobs, .editions, .overhead, .store] (State.setJob_within _ _)

theorem Edition.settle_id (e : Edition) (j : Job) (n : Nat) : (e.settle j n).id = e.id := by
  unfold Edition.settle Edition.issue Edition.charge
  dsimp only
  split <;> split <;> (try split) <;> (try split) <;> rfl

theorem State.costAndCarry_edition (ho : ordered Edition.id s.editions) (hi : j.spec.edition = some id)
    (he : s.edition? id = some e) : (s.costAndCarry j).edition? id = some (e.settle j (s.costOf j).total) := by
  rw [State.costAndCarry_found hi he, (State.setJob_within _ _).edition (by decide)]
  have key : (e.settle j (s.costOf j).total).id = id := (Edition.settle_id ..).trans (State.edition_key he)
  have := State.edition_setEdition_self (s := s.stripCharged j) (x := e.settle j (s.costOf j).total)
    ((State.stripCharged_within .editions (by decide) : (s.stripCharged j).editions = s.editions) ▸ ho)
  rwa [key] at this

theorem State.costAndCarry_edition_ne {n : Nat} (h : j.spec.edition ≠ some n) :
    (s.costAndCarry j).edition? n = s.edition? n := by
  rcases s.carry_cases j with ⟨id, e, hi, he⟩ | ⟨id, hi, he⟩ | hi
  · rw [State.costAndCarry_found hi he, (State.setJob_within _ _).edition (by decide), State.edition_setEdition_ne,
      State.stripCharged_within.edition (by decide)]
    rw [Edition.settle_id, State.edition_key he]
    exact fun x => h (x ▸ hi)
  · rw [State.costAndCarry_lost hi he, (State.setJob_within _ _).edition (by decide),
      State.stripCharged_within.edition (by decide)]
  · rw [State.costAndCarry_house hi, (State.setJob_within _ _).edition (by decide)]
    split
    · rw [(State.setOverhead_within _ _).edition (by decide), State.stripCharged_within.edition (by decide)]
    · rw [State.stripCharged_within.edition (by decide)]

/-- A job of no edition leaves the editions alone. -/
theorem State.costAndCarry_editions (hi : j.spec.edition = none) : (s.costAndCarry j).editions = s.editions := by
  rw [State.costAndCarry_house hi, State.setJob_editions]
  split
  · rw [State.setOverhead_editions, State.stripCharged_within .editions (by decide)]
  · rw [State.stripCharged_within .editions (by decide)]
end

/-! ### Settlement (R21 to R23) -/

/-- The record of a job settled (R22, R182 to R185). -/
def State.settledJob (s : State) (j : Job) : Job := s.costed (s.judged j)

/-- The records a settlement has committed (R23). -/
def State.settledKeys (s : State) (j : Job) : List RecKey :=
  (s.costAndCarry (s.judged j)).settlementKeys j (decide ((s.costAndCarry (s.judged j)).overhead ≠ s.overhead))

/-- The job's settlement up to its notice: costed, carried and committed. -/
def State.settling (s : State) (j : Job) : State :=
  ((s.costAndCarry (s.judged j)).commit (s.settledKeys j)).forgetMerged j.tag

section
variable {s : State} {j : Job}

theorem State.settle_eq (s : State) (j : Job) : s.settle j = (s.settling j).raiseJobState j.tag := rfl

theorem State.settling_within : s.within [.jobs, .editions, .overhead, .merged, .store, .handling] (s.settling j) :=
  (State.costAndCarry_still.next [.jobs, .editions, .overhead, .merged, .store, .handling] (State.commit_within _ _)).next _
    (State.forgetMerged_within _ _)

theorem State.settling_minds : s.minds (s.settling j) :=
  ((s.costAndCarry_minds _).trans (State.commit_minds _ _)).trans (State.forgetMerged_minds _ _)

theorem State.settling_job (ho : ordered Job.tag s.jobs) : (s.settling j).job? j.tag = some (s.settledJob j) := by
  unfold State.settling
  rw [(State.forgetMerged_within _ _).job (by decide), (State.commit_within _ _).job (by decide)]
  exact State.costAndCarry_job (j := s.judged j) ho

theorem State.settling_job_ne {n : Nat} (h : n ≠ j.tag) : (s.settling j).job? n = s.job? n := by
  unfold State.settling
  rw [(State.forgetMerged_within _ _).job (by decide), (State.commit_within _ _).job (by decide)]
  exact State.costAndCarry_job_ne (j := s.judged j) h

theorem State.settling_edition (n : Nat) : (s.settling j).edition? n = (s.costAndCarry (s.judged j)).edition? n := by
  unfold State.settling
  rw [(State.forgetMerged_within _ _).edition (by decide), (State.commit_within _ _).edition (by decide)]

theorem State.settling_editions : (s.settling j).editions = (s.costAndCarry (s.judged j)).editions := by
  unfold State.settling
  rw [(State.forgetMerged_within _ _) .editions (by decide), (State.commit_within _ _) .editions (by decide)]

theorem State.settling_overhead : (s.settling j).overhead = s.chargedOverhead (s.judged j) := by
  unfold State.settling
  rw [(State.forgetMerged_within _ _) .overhead (by decide), (State.commit_within _ _) .overhead (by decide),
    State.costAndCarry_overhead]

theorem State.settling_merged : (s.settling j).merged = s.merged.filter fun p => p.1 != j.tag := by
  unfold State.settling State.forgetMerged
  show ((s.costAndCarry (s.judged j)).commit (s.settledKeys j)).merged.filter _ = _
  rw [(State.commit_within _ _) .merged (by decide), State.costAndCarry_still .merged (by decide)]

theorem State.settling_hands {a : Store} {n : Nat} (h : a.hands s.store n) (hg : s.handling.gathered = none) :
    a.hands (s.settling j).store (n + 1) :=
  State.commit_hands (Store.hands.trans h (State.costAndCarry_hands (j := s.judged j)))
    (by rw [State.costAndCarry_handling]; exact hg) _

theorem State.settling_handling (hg : s.handling.gathered = none) : (s.settling j).handling = s.handling := by
  unfold State.settling
  rw [(State.forgetMerged_within _ _) .handling (by decide), State.commit_handling (by rw [State.costAndCarry_handling]; exact hg),
    State.costAndCarry_handling]

/-- The notice of a settlement says how the job ended (R23). -/
theorem State.settle_now (ho : ordered Job.tag s.jobs) (hg : s.handling.gathered = none) :
    s.settle j = (s.settling j).raise (.num j.tag)
      (.jobState (s.settledJob j).state (s.settledJob j).cause (s.settledJob j).flags) := by
  rw [State.settle_eq]
  unfold State.raiseJobState
  rw [State.settling_job ho]
  dsimp only
  unfold State.raiseBehind
  rw [State.settling_handling hg, hg]

/-- Where a settlement's records are named, its commit point takes them. -/
theorem State.settling_done (hs : s.store.sound) (hh : s.handles) (hg : s.handling.gathered = none) {k : RecKey}
    (hk : k ∈ s.settledKeys j) : (s.settling j).done k := by
  have mind := s.costAndCarry_minds (s.judged j)
  have now := State.commit_done (s := s.costAndCarry (s.judged j)) (by rw [State.costAndCarry_handling]; exact hg)
    (mind.sound hs) (mind.handles hh) hk
  exact (State.forgetMerged_minds _ j.tag).done ((mind.trans (State.commit_minds _ _)).sound hs) now now.1

theorem State.settling_saved (hg : s.handling.gathered = none) {k : RecKey} (hk : k ∈ s.settledKeys j) :
    (s.settling j).saved k :=
  State.commit_saved (s := s.costAndCarry (s.judged j)) (by rw [State.costAndCarry_handling]; exact hg) hk

theorem State.settling_takenUp (hs : s.store.sound) (hg : s.handling.gathered = none) {k : RecKey}
    (hk : k ∈ s.settledKeys j) : (s.settling j).takenUp (regionOf k) := by
  have taken : ((s.costAndCarry (s.judged j)).commit (s.settledKeys j)).takenUp (regionOf k) := by
    rw [State.commit_now (by rw [State.costAndCarry_handling]; exact hg)]
    exact State.hand_takenUp ((s.costAndCarry_minds _).sound hs) hk
  intro none v hv hr
  obtain ⟨i, held, hi⟩ := taken none v hv hr
  refine ⟨i, held, fun hc => (hi hc).trans ?_⟩
  exact State.image_congr rfl rfl rfl rfl rfl rfl rfl rfl rfl rfl rfl rfl v

theorem State.mem_settledKeys {k : RecKey} : k ∈ s.settledKeys j ↔
    k = .job j.tag ∨ (∃ d ∈ j.draws, k = .lot d.lot) ∨ (∃ c ∈ s.mergedLots j.tag, k = .lot c) ∨ k = .roll j.spec.roll ∨
      (∃ id, j.spec.edition = some id ∧ k = .edition id) ∨
      (k = .counters ∧ (s.costAndCarry (s.judged j)).overhead ≠ s.overhead) ∨
      ∃ d ∈ j.draws, k = .slots d.channel ∧ k ∈ (s.costAndCarry (s.judged j)).store.changed := by
  have merged : (s.costAndCarry (s.judged j)).mergedLots j.tag = s.mergedLots j.tag := by
    unfold State.mergedLots; rw [State.costAndCarry_still .merged (by decide)]
  unfold State.settledKeys State.settlementKeys State.changedOf
  rw [merged]
  simp only [List.mem_append, List.mem_singleton, List.mem_map, List.mem_filter, Option.mem_toList, Option.map_eq_some_iff,
    List.contains_eq_mem, decide_eq_true_eq, or_assoc, eq_comm (b := k)]
  refine or_congr_right (or_congr_right (or_congr_right (or_congr_right (or_congr_right (or_congr ?_ ?_)))))
  · split <;> simp_all
  · constructor
    · rintro ⟨⟨d, hd, e⟩, hc⟩; exact ⟨d, hd, e, hc⟩
    · rintro ⟨d, hd, e, hc⟩; exact ⟨⟨d, hd, e⟩, hc⟩

theorem State.settleTest_settles {tag : Nat} (hj : s.job? tag = some j) (h : j.settles = true) :
    s.settleTest tag = s.settle j := by unfold State.settleTest; rw [hj]; exact if_pos h

theorem State.settleTest_stays {tag : Nat} (hj : s.job? tag = some j) (h : j.settles = false) : s.settleTest tag = s := by
  unfold State.settleTest; rw [hj]; exact if_neg (by rw [h]; decide)

theorem Job.settles_iff : j.settles = true ↔
    j.state = .finishing ∧ (j.cut = .done ∨ j.cut = .uncut) ∧ (j.strip = .resolved ∨ j.strip = .none) := by
  unfold Job.settles; simp [and_assoc]

theorem Job.dooms_iff : j.dooms = true ↔
    j.flags.voidOnSettle = true ∨ j.flags.abortPending = true ∨ j.cause = some .mediaEnd := by
  unfold Job.dooms; simp [or_assoc]

/-- A settled job's cost, in the words of the claims (R183 to R185). -/
theorem State.costOf_figures (s : State) (j : Job) : s.figuresOf j (s.costOf j) := by
  have aside : s.setsAside j = true ↔ s.asideOf j := by unfold State.setsAside State.asideOf; simp
  unfold State.figuresOf State.costOf State.jobInkSum State.jobLength State.inkSum
  refine ⟨fun h => ?_, fun h => ?_, rfl, rfl⟩
  · rw [aside.mpr h]; exact ⟨rfl, rfl⟩
  · rw [Bool.eq_false_iff.mpr fun e => h (aside.mp e)]; exact ⟨rfl, rfl⟩
end

/-! ### A handling of a settlement alone -/

/-- A record that has not changed needs no commit (R193). -/
theorem State.commits_untouched {s t : State} {k : RecKey} (hk : k ∉ s.store.changed) (hi : t.image k = s.image k)
    (ht : t.saved k) : s.commits t k :=
  ⟨ht, fun h => absurd (h.resolve_left hk) (not_not_intro hi), fun h => absurd hi h⟩

section
variable {s : State} {j : Job} {tag : Nat}

theorem State.begun_handles (s : State) : s.beginHandling.handles := ⟨_, rfl, le_refl _⟩

theorem State.begun_tables (h : s.tables) : s.beginHandling.tables :=
  ⟨h.jobs, h.lots, h.rolls, h.editions, h.active, h.store⟩

/-- What a handling of its own commits (R193). -/
theorem State.minds.ended {u : State} {k : RecKey} (h : s.beginHandling.minds u) (hs : s.tables) (hd : u.done k) :
    s.commits (u.endHandling s.handling) k :=
  State.commits_congr ((h.ledger _ (State.ledger_refl (s := s.beginHandling) hs.store)).commits hd) rfl
    (fun k => State.image_congr rfl rfl rfl rfl rfl rfl rfl rfl rfl rfl rfl rfl k) rfl
    fun k => State.image_congr rfl rfl rfl rfl rfl rfl rfl rfl rfl rfl rfl rfl k

/-- A handling of its own leaves the handling in hand as it stands. -/
theorem State.ended_within {u : State} {l : List Field} (h : s.beginHandling.within l u) (m : List Field)
    (hm : l.filter (· ≠ .handling) ⊆ m := by decide) : s.within m (u.endHandling s.handling) := by
  intro f hf
  by_cases h2 : f = .handling
  · subst h2; rfl
  have same := h f fun hl => hf (hm (List.mem_filter.mpr ⟨hl, by simpa using h2⟩))
  cases f <;> first | exact absurd rfl h2 | (simp only [Field.same] at same ⊢; exact same)

/-- The slot fields of a channel the job drew from are committed where they have changed (R28). -/
theorem State.settling_slots (hs : s.tables) {d : DrawEntry} (hd : d ∈ j.draws) :
    s.commits ((s.beginHandling.settling j).endHandling s.handling) (.slots d.channel) := by
  by_cases hc : RecKey.slots d.channel ∈ (s.beginHandling.costAndCarry (s.beginHandling.judged j)).store.changed
  · exact State.settling_minds.ended hs (State.settling_done (s := s.beginHandling) hs.store s.begun_handles rfl
      (State.mem_settledKeys.mpr (.inr (.inr (.inr (.inr (.inr (.inr ⟨d, hd, rfl, hc⟩))))))))
  · refine State.commits_untouched (fun h => hc (State.costAndCarry_grows (s := s.beginHandling) h)) ?_ ?_
    · show Image.slots ((s.beginHandling.settling j).chan d.channel).slots = Image.slots (s.chan d.channel).slots
      rw [State.settling_within.chan (by decide)]
      rfl
    · exact State.saved_commit (s := s.beginHandling.costAndCarry (s.beginHandling.judged j)) hc
end

/-! ### The edition of a settled job (R160, R166, R167) -/

section
variable {e : Edition} {j : Job} {n : Nat}

theorem Edition.charge_frame : e.charge j n =
    { e with wasteTotal := (e.charge j n).wasteTotal, printTotal := (e.charge j n).printTotal
             voided := (e.charge j n).voided } := by
  unfold Edition.charge; split
  · split
    · rfl
    · split <;> rfl
  · rfl
  · rfl

/-- What settlement writes in the edition: the charge, the number, and the stale mark cleared. -/
theorem Edition.settle_frame : e.settle j n =
    { e with wasteTotal := (e.charge j n).wasteTotal, printTotal := (e.charge j n).printTotal
             voided := (e.charge j n).voided, stale := false
             issued := if e.numbers j then e.issued + 1 else e.issued
             state := if e.numbers j = true ∧ e.issued + 1 = e.limit then .closed else e.state } := by
  unfold Edition.settle Edition.issue
  dsimp only
  rw [Edition.charge_frame]
  by_cases h : e.numbers j = true
  · simp only [h, if_true, true_and]
  · simp only [h]
    rfl

theorem Edition.charge_check (h : j.spec.kind = .check) :
    e.charge j n = { e with wasteTotal := satAdd Config.max48 e.wasteTotal n } := by unfold Edition.charge; rw [h]

theorem Edition.charge_proof (h : j.spec.kind = .proof) : e.charge j n = e := by unfold Edition.charge; rw [h]

theorem Edition.charge_voided (h : j.spec.kind = .edition) (hs : j.state = .voided) : e.charge j n =
    { e with wasteTotal := satAdd Config.max48 e.wasteTotal n, voided := satAdd 65535 e.voided 1 } := by
  unfold Edition.charge; rw [h]; exact if_pos hs

theorem Edition.charge_closed (h : j.spec.kind = .edition) (hs : j.state ≠ .voided) (hc : e.state = .closed) :
    e.charge j n = e := by unfold Edition.charge; rw [h]; dsimp only; rw [if_neg hs, if_pos hc]

theorem Edition.charge_print (h : j.spec.kind = .edition) (hs : j.state ≠ .voided) (hc : e.state ≠ .closed) :
    e.charge j n = { e with printTotal := satAdd Config.max48 e.printTotal n } := by
  unfold Edition.charge; rw [h]; dsimp only; rw [if_neg hs, if_neg hc]

theorem Edition.numbers_iff : e.numbers j = true ↔
    j.spec.kind = .edition ∧ j.state = .settled ∧ (e.state = .opened ∨ e.state = .locked) := by
  unfold Edition.numbers; simp [and_assoc]
end

section
variable {s : State} {j : Job}

theorem State.judged_voided : (s.judged j).state = .voided ↔ j.dooms = true := by
  show (if j.dooms = true then JobState.voided else .settled) = .voided ↔ _
  split <;> simp_all

theorem State.setsAside_iff : s.setsAside j = true ↔ s.asideOf j := by unfold State.setsAside State.asideOf; simp

theorem State.uncertainIn_iff : s.uncertainIn j = true ↔
    (∃ d ∈ j.draws, ∃ l, s.lot? d.lot = some l ∧ l.uncertain = true) ∨
      ∃ r, s.roll? j.spec.roll = some r ∧ r.uncertain = true := by
  have given : ∀ {α : Type} (o : Option α) (f : α → Bool), (o.map f).getD false = true ↔ ∃ x, o = some x ∧ f x = true := by
    intro α o f; cases o <;> simp
  unfold State.uncertainIn
  rw [Bool.or_eq_true, given, List.any_eq_true]
  simp only [given]

theorem State.unpricedIn_iff : s.unpricedIn j = true ↔
    (∃ d ∈ j.draws, ∀ l, s.lot? d.lot = some l → l.unpriced = true) ∨
      ∀ r, s.roll? j.spec.roll = some r → r.unpriced = true := by
  have given : ∀ {α : Type} (o : Option α) (f : α → Bool), (o.map f).getD true = true ↔ ∀ x, o = some x → f x = true := by
    intro α o f; cases o <;> simp
  unfold State.unpricedIn
  rw [Bool.or_eq_true, given, List.any_eq_true]
  simp only [given]
end

/-- The figures of a cost record, in the words of O53. -/
theorem State.costOf_eq (s : State) (j : Job) {aside : Prop} [Decidable aside] (ha : aside ↔ s.asideOf j) :
    let ink := min 4294967295 (((j.draws.map fun d =>
      (d.image + if aside then 0 else d.strip) * s.priceOf d.lot).sum + 500000) / 1000000)
    let media := min 4294967295 (((j.printPiece + if aside then 0 else j.stripPiece) * s.rateOf j.spec.roll + 50000000) /
      100000000)
    s.costOf j = ⟨ink, media, j.handling.getD 0, min 4294967295 (ink + media + j.handling.getD 0)⟩ := by
  intro ink media
  obtain ⟨set, kept, handling, total⟩ := s.costOf_figures j
  have figures : (s.costOf j).ink = ink ∧ (s.costOf j).media = media := by
    by_cases h : aside
    · simp only [ink, media, h, if_true, Nat.add_zero]; exact set (ha.mp h)
    · simp only [ink, media, h, if_false]; exact kept (mt ha.mpr h)
  rw [figures.1, figures.2, handling] at total
  calc s.costOf j = ⟨(s.costOf j).ink, (s.costOf j).media, (s.costOf j).handling, (s.costOf j).total⟩ := rfl
    _ = _ := by rw [figures.1, figures.2, handling, total]

theorem State.stripOverhead_eq (s : State) (j : Job) {aside : Prop} [Decidable aside] (ha : aside ↔ s.asideOf j) :
    s.stripOverhead j = if aside then
      (j.draws.map fun d => d.strip * s.priceOf d.lot).sum * 100 + j.stripPiece * s.rateOf j.spec.roll else 0 := by
  unfold State.stripOverhead
  exact if_congr (State.setsAside_iff.trans ha.symm) rfl rfl

/-- What a settlement leaves of an edition, in the words of O53 (R160, R166, R167). -/
theorem Edition.settle_leaves (e : Edition) {j : Job} {n : Nat} {voids : Prop} [Decidable voids]
    (hv : voids ↔ j.state = .voided) (hs : ¬ voids ↔ j.state = .settled) :
    let numbers : Prop := j.spec.kind = .edition ∧ ¬ voids ∧ (e.state = .opened ∨ e.state = .locked)
    (e.settle j n).issued = (if numbers then e.issued + 1 else e.issued) ∧
      (e.settle j n).state = (if numbers ∧ e.issued + 1 = e.limit then .closed else e.state) ∧
      (j.spec.kind = .check ∨ (j.spec.kind = .edition ∧ voids) →
        (e.settle j n).wasteTotal = min 281474976710655 (e.wasteTotal + n) ∧ (e.settle j n).printTotal = e.printTotal) ∧
      (j.spec.kind = .edition → ¬ voids → e.state ≠ .closed →
        (e.settle j n).printTotal = min 281474976710655 (e.printTotal + n) ∧ (e.settle j n).wasteTotal = e.wasteTotal) ∧
      (e.settle j n).voided = (if j.spec.kind = .edition ∧ voids then min 65535 (e.voided + 1) else e.voided) ∧
      (j.spec.kind = .proof ∨ (j.spec.kind = .edition ∧ ¬ voids ∧ e.state = .closed) →
        (e.settle j n).wasteTotal = e.wasteTotal ∧ (e.settle j n).printTotal = e.printTotal) ∧
      e.settle j n = { e with issued := (e.settle j n).issued, voided := (e.settle j n).voided
                              state := (e.settle j n).state, stale := false, printTotal := (e.settle j n).printTotal
                              wasteTotal := (e.settle j n).wasteTotal } := by
  intro numbers
  have number : e.numbers j = true ↔ numbers := Edition.numbers_iff.trans (by rw [← hs])
  have sum : ∀ m a b, satAdd m a b = min m (a + b) := fun m a b => Nat.min_comm _ _
  rw [Edition.settle_frame]
  refine ⟨if_congr number rfl rfl, if_congr (and_congr_left' number) rfl rfl, ?_, fun hk nv nc => ?_, ?_, ?_, rfl⟩
  · rintro (hk | ⟨hk, v⟩)
    · rw [Edition.charge_check hk]; exact ⟨sum .., rfl⟩
    · rw [Edition.charge_voided hk (hv.mp v)]; exact ⟨sum .., rfl⟩
  · rw [Edition.charge_print hk (mt hv.mpr nv) nc]; exact ⟨sum .., rfl⟩
  · show (e.charge j n).voided = _
    cases hk : j.spec.kind with
    | check => rw [Edition.charge_check hk, if_neg (by simp)]
    | proof => rw [Edition.charge_proof hk, if_neg (by simp)]
    | edition =>
      by_cases v : voids
      · rw [Edition.charge_voided hk (hv.mp v), if_pos ⟨rfl, v⟩]; exact sum ..
      · rw [if_neg fun h => v h.2]
        by_cases c : e.state = .closed
        · rw [Edition.charge_closed hk (mt hv.mpr v) c]
        · rw [Edition.charge_print hk (mt hv.mpr v) c]
  · rintro (hk | ⟨hk, nv, c⟩)
    · rw [Edition.charge_proof hk]; exact ⟨rfl, rfl⟩
    · rw [Edition.charge_closed hk (mt hv.mpr nv) c]; exact ⟨rfl, rfl⟩

/-- Settles O53: `State.settling` has what a settlement writes, and its one commit point the records it takes. -/
theorem settlementCostsAndNumbersTheJob : Obligations.SettlementCostsAndNumbersTheJob := by
  unfold Obligations.SettlementCostsAndNumbersTheJob
  intro s tag j hs hj fin cut strip t price rate aside inkSum length ink media total voids strips
  obtain rfl : j.tag = tag := State.job_key hj
  have tables := State.begun_tables hs.tables
  let b := s.beginHandling
  let x := b.settledJob j
  have e : t = ((b.settling j).raise (.num j.tag) (.jobState x.state x.cause x.flags)).endHandling s.handling :=
    congrArg (fun u => State.endHandling u s.handling)
      ((State.settleTest_settles (s := b) hj (Job.settles_iff.mpr ⟨fin, cut, strip⟩)).trans
        (State.settle_now (s := b) tables.jobs rfl))
  have mind := State.settling_minds (s := b) (j := j)
  have still := State.settling_within (s := b) (j := j)
  have made : s.store.hands (b.settling j).store 1 := State.settling_hands s.store.hands_refl rfl
  have done : ∀ k ∈ b.settledKeys j, s.commits t k := fun k hk => by
    rw [e]; exact mind.ended hs.tables (State.settling_done (s := b) tables.store s.begun_handles rfl hk)
  have mem := fun k => State.mem_settledKeys (s := b) (j := j) (k := k)
  have aside_iff : aside ↔ s.asideOf (b.judged j) := Iff.rfl
  have doomed : voids ↔ (b.judged j).state = .voided := Job.dooms_iff.symm.trans State.judged_voided.symm
  have sound : ¬ voids ↔ (b.judged j).state = .settled := by
    rw [doomed, State.judged_voided]
    show _ ↔ (if j.dooms = true then JobState.voided else .settled) = .settled
    split <;> simp_all
  have cost : b.costOf (b.judged j) = ⟨ink, media, j.handling.getD 0, total⟩ := b.costOf_eq (b.judged j) aside_iff
  have overhead : t.overhead = b.chargedOverhead (b.judged j) := by rw [e]; exact State.settling_overhead (s := b)
  have sum : ∀ m a b, satAdd m a b = min m (a + b) := fun m a b => Nat.min_comm _ _
  refine ⟨x, ?_, ?_, congrArg some cost, rfl, rfl, rfl, ?_, ?_, ?_, fun n hn => ?_, done _ ((mem _).mpr (.inl rfl)), ?_, ?_,
    fun d hd => ⟨done _ ((mem _).mpr (.inr (.inl ⟨d, hd, rfl⟩))), ?_⟩, fun code hc => ?_, ?_, fun id hi => ?_, fun ne => ?_,
    ?_, ?_, ?_, fun id ed hi he => ?_, fun id hi => ?_, fun hi => ⟨?_, ?_⟩, ?_, ?_, ?_⟩
  · rw [e]; exact State.settling_job (s := b) tables.jobs
  · show (if j.dooms = true then JobState.voided else .settled) = _
    exact if_congr Job.dooms_iff rfl rfl
  · show (j.flags.uncertain || b.uncertainIn j) = true ↔ _
    rw [Bool.or_eq_true, State.uncertainIn_iff]
    exact Iff.rfl
  · show (j.flags.unpriced || b.unpricedIn (b.judged j)) = true ↔ _
    rw [Bool.or_eq_true, State.unpricedIn_iff]
    exact Iff.rfl
  · have heard := (b.heard_refl.minds mind tables.store (still .notices (by decide))).raise (mind.sound tables.store)
      (.num j.tag) (.jobState x.state x.cause x.flags)
    rw [show (b.settling j).store.called = s.store.called + 1 from made.called] at heard
    rw [e]
    exact heard.noticed rfl mind.since rfl rfl rfl
  · rw [e]; exact State.settling_job_ne (s := b) hn
  · rw [e]; exact still .lots (by decide)
  · rw [e]; exact still .rolls (by decide)
  · rw [e]; exact State.settling_slots hs.tables hd
  · exact done _ ((mem _).mpr (.inr (.inr (.inl ⟨code, List.mem_map.mpr ⟨(j.tag, code), List.mem_filter.mpr
      ⟨hc, by simp⟩, rfl⟩, rfl⟩))))
  · exact done _ ((mem _).mpr (.inr (.inr (.inr (.inl rfl)))))
  · exact done _ ((mem _).mpr (.inr (.inr (.inr (.inr (.inl ⟨id, hi, rfl⟩))))))
  · refine done _ ((mem _).mpr (.inr (.inr (.inr (.inr (.inr (.inl ⟨rfl, ?_⟩)))))))
    rw [State.costAndCarry_overhead, ← overhead]
    exact ne
  · rw [e]; exact made
  · rw [e]; exact State.settling_merged (s := b)
  · rw [overhead]
    show satAdd Config.max64 s.overhead.strips (b.stripOverhead (b.judged j)) = _
    rw [sum, b.stripOverhead_eq (b.judged j) aside_iff]
    rfl
  · obtain ⟨issued, state, waste, prints, voided, stays, frame⟩ := ed.settle_leaves (n := (b.costOf (b.judged j)).total)
      doomed sound
    have other : ∀ n, n ≠ id → t.edition? n = s.edition? n := fun n hn => by
      rw [e]
      exact (State.settling_edition n).trans (State.costAndCarry_edition_ne (j := b.judged j) (s := b)
        fun x => hn (Option.some.inj (x.symm.trans hi)))
    have total_eq : (b.costOf (b.judged j)).total = total := congrArg CostRecord.total cost
    rw [total_eq] at issued state waste prints voided stays frame
    refine ⟨_, ?_, other, ?_, issued, state, waste, prints, voided, stays, frame⟩
    · rw [e, ← total_eq]
      exact (State.settling_edition id).trans (State.costAndCarry_edition (s := b) (j := b.judged j) tables.editions hi he)
    · show b.numberOf (b.judged j) = _
      unfold State.numberOf
      rw [show (b.judged j).spec.edition = some id from hi, Option.bind_some, show b.edition? id = some ed from he]
      exact if_congr (Edition.numbers_iff.trans (by rw [← sound]; exact Iff.rfl)) rfl rfl
  · rw [overhead]
    exact if_neg fun h => nomatch (show (none : Option Nat) = some id from h.1.symm.trans hi)
  · rw [e]
    exact (State.settling_editions (s := b)).trans (State.costAndCarry_editions (j := b.judged j) (s := b) hi)
  · rw [overhead]
    show (if _ ∧ _ then satAdd _ _ _ else _) = _
    rw [cost, sum]
    exact if_congr (and_iff_right hi) rfl rfl
  · rw [overhead]; rfl
  · rw [overhead]; rfl
  · have frame := still.next (.notices :: [.jobs, .editions, .overhead, .merged, .store, .handling])
      (State.raise_within (b.settling j) (.num j.tag) (.jobState x.state x.cause x.flags))
    rw [e]
    exact State.frame (State.ended_within frame [.jobs, .editions, .overhead, .merged, .notices, .store])

end Sys2Proof.Machine
end

-- ==== Sys2Proof/Proofs/missed ====
section
/-!
O46, O49: a check resolved as missed (R138, R140, R141), and the settlement that may follow it in the same handling.
-/

namespace Sys2Proof.Machine

/-! ### A settlement within a handling (R21 to R23) -/

section
variable {s : State} {j : Job}

theorem State.setOverhead_saved {o : Overhead} {k : RecKey} (h : s.saved k) (hk : k = .counters → o = s.overhead) :
    (s.setOverhead o).saved k := by
  by_cases e : k = .counters
  · subst e
    have same : (s.setOverhead o).store = s.store := by
      unfold State.setOverhead State.setCounters
      rw [State.noting_store, if_pos]
      show Image.counters s.seqCounter s.day o = Image.counters s.seqCounter s.day s.overhead
      rw [hk rfl]
    unfold State.saved
    rw [same]; exact h
  · exact State.noting_saved (t := { s with seqCounter := s.seqCounter, day := s.day, overhead := o }) h e

/-- Costing changes the job, its edition and the accounts. -/
theorem State.costAndCarry_saved {k : RecKey} (h : s.saved k) (hj : k ≠ .job j.tag)
    (he : ∀ id, j.spec.edition = some id → k ≠ .edition id) (hc : k = .counters → (s.costAndCarry j).overhead = s.overhead) :
    (s.costAndCarry j).saved k := by
  rw [State.costAndCarry_overhead] at hc
  have charged : (s.stripCharged j).saved k := State.setOverhead_saved h fun e => by
    have := congrArg Overhead.strips (hc e)
    dsimp only
    rw [show satAdd Config.max64 s.overhead.strips (s.stripOverhead j) = s.overhead.strips from this]
  have write : ∀ u : State, u.saved k → (u.setJob (s.costed j)).saved k := fun u hu =>
    State.noting_saved (t := { u with jobs := _ }) hu hj
  rcases s.carry_cases j with ⟨id, e, hi, hid⟩ | ⟨id, hi, hid⟩ | hi
  · rw [State.costAndCarry_found hi hid]
    refine write _ (State.noting_saved (t := { s.stripCharged j with editions := _ }) charged ?_)
    rw [Edition.settle_id, State.edition_key hid]
    exact he id hi
  · rw [State.costAndCarry_lost hi hid]; exact write _ charged
  · rw [State.costAndCarry_house hi]
    refine write _ ?_
    split
    · refine State.setOverhead_saved charged fun e => ?_
      rw [hc e]
      have := congrArg Overhead.strips (hc e)
      show s.overhead = (s.setOverhead _).overhead
      rw [State.setOverhead_overhead,
        show satAdd Config.max64 s.overhead.strips (s.stripOverhead j) = s.overhead.strips from this]
    · exact charged

/-- What is left where a job was settled, in the handling in hand. -/
structure State.settledAs (s t : State) (j x : Job) : Prop where
  job : t.job? j.tag = some x
  record : x = { j with state := x.state, cost := x.cost, number := x.number
                        flags := { j.flags with uncertain := x.flags.uncertain, unpriced := x.flags.unpriced } }
  state : x.state = if j.dooms then .voided else .settled
  cost : ∃ c, x.cost = some c ∧ s.figuresOf j c
  others : ∀ n, n ≠ j.tag → t.job? n = s.job? n
  editions : ∀ n, j.spec.edition ≠ some n → t.edition? n = s.edition? n
  edition : ∀ id e, j.spec.edition = some id → s.edition? id = some e →
    ∃ n, t.edition? id = some (e.settle (s.judged j) n)
  lost : ∀ id, s.edition? id = none → t.edition? id = none
  mind : s.minds t
  keep : s.handles → ∀ k, s.done k → t.done k
  done : s.handles → t.done (.job j.tag) ∧ t.done (.roll j.spec.roll)
  saved : t.saved (.job j.tag)
  takenUp : t.takenUp .jobs
  heard : ∀ (b : State) l, b.heard s l →
    b.heard t (l ++ [(s.store.called + 1, .num j.tag, .jobState x.state x.cause x.flags)])
  hands : s.store.hands t.store 1
  frame : s.within settleFields t
  handling : t.handling = s.handling

theorem State.settledAs.ended {t : State} {x : Job} (h : s.settledAs t j x) : x.state = .settled ∨ x.state = .voided := by
  rw [h.state]; split <;> simp

theorem State.settle_settledAs (hs : s.tables) (hg : s.handling.gathered = none) :
    s.settledAs (s.settle j) j (s.settledJob j) := by
  have mind := State.settling_minds (s := s) (j := j)
  have raised := State.raise_minds (s.settling j) (.num j.tag)
    (.jobState (s.settledJob j).state (s.settledJob j).cause (s.settledJob j).flags)
  have sound := mind.sound hs.store
  have mem := fun k => State.mem_settledKeys (s := s) (j := j) (k := k)
  have made : s.store.hands (s.settling j).store 1 := State.settling_hands s.store.hands_refl hg
  have named : ∀ k ∈ s.settledKeys j, s.handles → (s.settle j).done k := fun k hk hh => by
    rw [State.settle_now hs.jobs hg]
    exact State.settling_done hs.store hh hg hk
  refine ⟨?_, rfl, rfl, ⟨_, rfl, s.costOf_figures (s.judged j)⟩, fun n hn => ?_, fun n hn => ?_, fun id e hi he => ?_,
    fun id he => ?_, ?_, fun hh k hk => ?_, fun hh => ⟨?_, ?_⟩, ?_, ?_, fun b l hb => ?_, ?_, s.settle_within j, ?_⟩
  · rw [State.settle_now hs.jobs hg]; exact State.settling_job hs.jobs
  · rw [State.settle_now hs.jobs hg]; exact State.settling_job_ne hn
  · rw [State.settle_now hs.jobs hg]
    exact (State.settling_edition n).trans (State.costAndCarry_edition_ne (j := s.judged j) hn)
  · rw [State.settle_now hs.jobs hg]
    exact ⟨_, (State.settling_edition id).trans (State.costAndCarry_edition (j := s.judged j) hs.editions hi he)⟩
  · rw [State.settle_now hs.jobs hg]
    refine (State.settling_edition id).trans ?_
    by_cases hi : j.spec.edition = some id
    · rw [State.costAndCarry_lost (j := s.judged j) hi he, (State.setJob_within _ _).edition (by decide),
        State.stripCharged_within.edition (by decide)]
      exact he
    · exact (State.costAndCarry_edition_ne (j := s.judged j) hi).trans he
  · exact s.settle_minds j
  · by_cases hm : k ∈ s.settledKeys j
    · exact named k hm hh
    · rw [mem] at hm
      simp only [not_or, not_exists, not_and, not_not] at hm
      obtain ⟨h1, -, -, -, h5, h6, -⟩ := hm
      have saved : (s.settling j).saved k :=
        State.saved_commit (s := s.costAndCarry (s.judged j)) (State.costAndCarry_saved (j := s.judged j) hk.1 h1 h5 h6)
      rw [State.settle_now hs.jobs hg]
      exact (mind.trans raised).done hs.store hk saved
  · exact named _ ((mem _).mpr (.inl rfl)) hh
  · exact named _ ((mem _).mpr (.inr (.inr (.inr (.inl rfl))))) hh
  · rw [State.settle_now hs.jobs hg]
    exact State.settling_saved (k := .job j.tag) hg ((mem _).mpr (.inl rfl))
  · rw [State.settle_now hs.jobs hg]
    exact State.settling_takenUp (k := .job j.tag) hs.store hg ((mem _).mpr (.inl rfl))
  · rw [State.settle_now hs.jobs hg]
    have now := (hb.minds mind hs.store (State.settling_within .notices (by decide))).raise sound (.num j.tag)
      (.jobState (s.settledJob j).state (s.settledJob j).cause (s.settledJob j).flags)
    rwa [made.called] at now
  · rw [State.settle_now hs.jobs hg]; exact made
  · rw [State.settle_now hs.jobs hg]; exact State.settling_handling hg
end

/-! ### A check missed (R141) -/

/-- A job whose check was missed. -/
def Job.unread (j : Job) : Job := { j with strip := .resolved, flags := { j.flags with unchecked := true } }

/-- The job's check is missed, and the notice raised. -/
def State.missed (s : State) (j : Job) (why : MissedReason) : State :=
  (s.setJob j.unread).raise (.num j.tag) (.checkMissed why)

/-- The arm record is emptied. -/
def State.disarm (s : State) : State := { s with check := { s.check with arm := none } }

section
variable {s : State} {j : Job} {why : MissedReason}

theorem State.missCheck_eq (hj : s.job? j.tag = some j) :
    s.missCheck j.tag why = if s.check.arm.map Arm.tag = some j.tag then (s.missed j why).disarm else s.missed j why := by
  have check : (s.missed j why).check = s.check := State.setJob_check ..
  unfold State.missCheck
  rw [hj]
  show (if (s.missed j why).check.arm.map Arm.tag = some j.tag then (s.missed j why).disarm else s.missed j why) = _
  rw [check]

theorem State.missed_within : s.within [.jobs, .notices, .store] (s.missed j why) :=
  (s.setJob_within _).next _ (State.raise_within _ _ _)

theorem State.missed_minds : s.minds (s.missed j why) := (s.setJob_minds _).trans (State.raise_minds _ _ _)

theorem State.missed_hands : s.store.hands (s.missed j why).store 0 := State.setJob_hands s.store.hands_refl _

theorem State.missed_job (ho : ordered Job.tag s.jobs) : (s.missed j why).job? j.tag = some j.unread :=
  State.job_setJob_self (x := j.unread) ho

theorem State.missed_job_ne {n : Nat} (h : n ≠ j.tag) : (s.missed j why).job? n = s.job? n :=
  State.job_setJob_ne (x := j.unread) h

theorem State.missed_heard {b : State} {l : List (Nat × Subject × Detail)} (h : b.heard s l) (hs : s.store.sound) :
    b.heard (s.missed j why) (l ++ [(s.store.called, .num j.tag, .checkMissed why)]) := by
  have now := (h.minds (s.setJob_minds j.unread) hs ((s.setJob_within _) .notices (by decide))).raise
    ((s.setJob_minds j.unread).sound hs) (.num j.tag) (.checkMissed why)
  rwa [State.setJob_called] at now

theorem State.missed_keeps (hj : s.job? j.tag = some j) : s.keeps (s.missed j why) :=
  (State.setJob_keeps_of_mem (j := j.unread) j (State.job_mem hj)).trans (State.raise_keeps _ _ _)

end

/-! ### Behind a miss: the record committed and the settlement test (R138, R140) -/

section
variable {s : State} {j : Job}

theorem Job.unread_settles : j.unread.settles = true ↔ j.state = .finishing ∧ (j.cut = .done ∨ j.cut = .uncut) := by
  rw [Job.settles_iff]
  exact ⟨fun h => ⟨h.1, h.2.1⟩, fun h => ⟨h.1, h.2, .inl rfl⟩⟩

theorem Edition.settle_standard {e : Edition} {k : Job} {n : Nat} (h : e.issued + 1 ≠ e.limit) :
    (e.settle k n).standard = e.standard := by
  unfold Edition.standard
  rw [Edition.settle_frame]
  simp only [h, and_false, if_false]

/-- A settlement that does not close the edition of a strip's job leaves its standard (R131, R166). -/
theorem State.settledAs.standard {t : State} {x i : Job} (h : s.settledAs t j x)
    (hl : ∀ id e, i.spec.edition = some id → j.spec.edition = some id → s.edition? id = some e → e.issued + 1 ≠ e.limit) :
    t.standard i = s.standard i := by
  have plan : t.check.plan = s.check.plan := congrArg CheckUnit.plan (h.frame .check (by decide))
  unfold State.standard State.editionStandard
  rw [plan]
  cases hi : i.spec.edition with
  | none => rfl
  | some id =>
    simp only [Option.bind_some]
    congr 1
    by_cases hj : j.spec.edition = some id
    · cases he : s.edition? id with
      | none => rw [h.lost id he]
      | some e =>
        obtain ⟨n, hn⟩ := h.edition id e hj he
        rw [hn]
        exact Edition.settle_standard (hl id e hi hj he)
    · rw [h.editions id hj]
end

end Sys2Proof.Machine
end

-- ==== Sys2Proof/Proofs/arrive ====
section
/-!
O49: a strip arrival (R137, R138). O46: a READING that does not match, or is faulty (R139 to R141).
-/

namespace Sys2Proof.Machine

section
variable {s t v : State} {j k : Job} {why : MissedReason}

theorem State.figuresOf_congr {c : CostRecord} (h : t.figuresOf j c) (hl : t.lots = s.lots)
    (hr : t.rateOf j.spec.roll = s.rateOf j.spec.roll) (hm : t.stripMode = s.stripMode) : s.figuresOf j c := by
  unfold State.figuresOf State.asideOf State.priceOf State.lot? at *
  rw [← hl, ← hr, ← hm]
  exact h

theorem State.rateOf_congr (h : t.rolls = s.rolls) (n : Nat) : t.rateOf n = s.rateOf n := by
  unfold State.rateOf State.roll?
  rw [h]

theorem State.standard_congr (he : t.editions = s.editions) (hp : t.check.plan = s.check.plan) (j : Job) :
    t.standard j = s.standard j := by
  unfold State.standard State.editionStandard State.edition?
  rw [he, hp]

theorem State.disarm_minds (s : State) : s.minds s.disarm := s.setCheck_minds _

theorem State.disarm_within (s : State) : s.within [.check] s.disarm := by
  intro f hf; cases f <;> first | rfl | simp_all

/-- A step that ends with the handling it began with. -/
theorem State.within.still {l : List Field} (h : s.within l t) (k : t.handling = s.handling) (m : List Field)
    (hm : l.filter (· ≠ .handling) ⊆ m := by decide) : s.within m t := by
  intro f hf
  by_cases e : f = .handling
  · subst e; exact k
  · exact h f fun hl => hf (hm (List.mem_filter.mpr ⟨hl, by simpa using e⟩))
end

/-! ### A check missed, committed and tested -/

/-- What is left where a job's check was missed, its record committed and its settlement test made: the record `x`, the
notices `told` and `n` commit points. -/
structure State.missedAs (s t : State) (j x : Job) (told : List (Nat × Subject × Detail)) (n : Nat) : Prop where
  job : t.job? j.tag = some x
  others : ∀ i, i ≠ j.tag → t.job? i = s.job? i
  heard : ∀ (b : State) l, b.heard s l → b.heard t (l ++ told)
  hands : s.store.hands t.store n
  mind : s.minds t
  done : s.handles → t.done (.job j.tag)
  saved : t.saved (.job j.tag)
  takenUp : t.takenUp .jobs
  frame : s.within settleFields t
  handling : t.handling = s.handling

section
variable {s : State} {j : Job} {why : MissedReason}

/-- What the miss and its commit point leave. -/
theorem State.missed_committed (hs : s.tables) (hg : s.handling.gathered = none) :
    s.missedAs ((s.missed j why).commit [.job j.tag]) j j.unread
      [(s.store.called, .num j.tag, .checkMissed why)] 1 := by
  have hand := State.missed_within (s := s) (j := j) (why := why) .handling (by decide)
  have gathered : (s.missed j why).handling.gathered = none := (congrArg Handling.gathered hand).trans hg
  have mind := State.missed_minds (s := s) (j := j) (why := why)
  have stays := State.commit_within (s := s.missed j why) [.job j.tag]
  refine ⟨(stays.job (by decide) _).trans (State.missed_job hs.jobs),
    fun i hi => (stays.job (by decide) _).trans (State.missed_job_ne hi), fun b l hb => ?_,
    State.commit_hands State.missed_hands gathered _, mind.trans (State.commit_minds _ _),
    fun hh => State.commit_done gathered (mind.sound hs.store) (mind.handles hh) (by simp), ?_, ?_, ?_, ?_⟩
  · exact (State.missed_heard hb hs.store).minds (State.commit_minds _ _) (mind.sound hs.store) (stays .notices (by decide))
  · rw [State.commit_now gathered]; exact State.hand_saved _ (by simp)
  · rw [State.commit_now gathered]; exact State.hand_takenUp (mind.sound hs.store) (k := .job j.tag) (by simp)
  · exact State.missed_within.next settleFields stays
  · rw [State.commit_handling gathered]; exact hand

theorem State.missed_committed_within (hg : s.handling.gathered = none) :
    s.within [.jobs, .notices, .store] ((s.missed j why).commit [.job j.tag]) := by
  have hand := State.missed_within (s := s) (j := j) (why := why) .handling (by decide)
  have stays := State.missed_within.next [.jobs, .notices, .store, .handling]
    (State.commit_within (s := s.missed j why) [.job j.tag])
  exact stays.still ((State.commit_handling ((congrArg Handling.gathered hand).trans hg) _).trans hand) _

/-- What the settlement leaves behind them. -/
theorem State.missedAs.settled {u t : State} {x y : Job} {told : List (Nat × Subject × Detail)} {n : Nat}
    (h : s.missedAs u j x told n) (hx : x.tag = j.tag) (k : u.settledAs t x y) :
    s.missedAs t j y (told ++ [(s.store.called + (n + 1), .num j.tag, .jobState y.state y.cause y.flags)]) (n + 1) := by
  have job := k.job
  have saved := k.saved
  rw [hx] at job saved
  refine ⟨job, fun i hi => (k.others i (hx ▸ hi)).trans (h.others i hi), fun b l hb => ?_, ?_, h.mind.trans k.mind,
    fun hh => hx ▸ (k.done (h.mind.handles hh)).1, saved, k.takenUp, h.frame.trans k.frame,
    k.handling.trans h.handling⟩
  · have now := k.heard b _ (h.heard b l hb)
    rwa [h.hands.called, hx, List.append_assoc, Nat.add_assoc] at now
  · exact h.hands.trans k.hands

theorem State.missed_disarm : (s.missed j why).disarm = s.disarm.missed j why := by
  have image : ∀ (t : State) (k : RecKey), t.disarm.image k = t.image k := fun t k =>
    State.image_congr (s := t) (t := t.disarm) rfl rfl rfl rfl rfl rfl rfl rfl rfl rfl rfl rfl k
  unfold State.missed State.setJob State.noting
  rw [show ({ s.disarm with jobs := insertBy Job.tag j.unread s.disarm.jobs } : State) =
    State.disarm { s with jobs := insertBy Job.tag j.unread s.jobs } from rfl, image, image]
  split <;> rfl

/-- A check missed in its turn, committed and tested (R138, R140): the job settles in the same handling where its cuts are
through. -/
theorem State.missed_tested (hj : s.job? j.tag = some j) (hs : s.tables) (hg : s.handling.gathered = none) :
    let u := (s.missed j why).commit [.job j.tag]
    s.missedAs u j j.unread [(s.store.called, .num j.tag, .checkMissed why)] 1 ∧
      (¬ (j.state = .finishing ∧ (j.cut = .done ∨ j.cut = .uncut)) → u.settleTest j.tag = u) ∧
      (j.state = .finishing → j.cut = .done ∨ j.cut = .uncut → ∃ x, u.settledAs (u.settleTest j.tag) j.unread x ∧
        s.missedAs (u.settleTest j.tag) j x
          [(s.store.called, .num j.tag, .checkMissed why), (s.store.called + 2, .num j.tag, .jobState x.state x.cause x.flags)]
          2) := by
  intro u
  have base := State.missed_committed (j := j) (why := why) hs hg
  refine ⟨base, fun h => ?_, fun fin cut => ?_⟩
  · exact State.settleTest_stays base.job (Bool.eq_false_iff.mpr (mt Job.unread_settles.mp h))
  · have settled : u.settledAs (u.settleTest j.tag) j.unread (u.settledJob j.unread) := by
      rw [State.settleTest_settles base.job (Job.unread_settles.mpr ⟨fin, cut⟩)]
      refine State.settle_settledAs ?_ (by rw [base.handling]; exact hg)
      exact ((State.missed_keeps hj).trans (State.commit_keeps _ _)).tables hs
    exact ⟨_, settled, base.settled rfl settled⟩
end

/-! ### A strip arrival (R137, R138) -/

section
variable {s : State} {j k : Job} {a : Arm} {tag : Nat}

theorem State.arrive_declined (hj : s.job? tag = some j) (h : j.strip ≠ .printed) : s.arrive tag = s := by
  unfold State.arrive
  rw [hj]
  exact if_neg h

/-- The sensor armed for a strip. -/
def State.armedFor (u : State) (tag n m : Nat) : State :=
  { u with check := { u.check with armSeq := n, arm := some ⟨n, tag⟩ }, out := u.out ++ [.arm n m] }

theorem State.arrive_armed {u : State} (hj : s.job? tag = some j) (hp : j.strip = .printed) (hu : s.supersede = u)
    (here : u.job? tag = some j) (seq : u.check.armSeq = s.check.armSeq) :
    s.arrive tag = u.armedFor tag ((s.check.armSeq + 1) % 256) (u.standard j).labs.length := by
  unfold State.arrive
  rw [hj]
  dsimp only
  rw [if_pos hp]
  unfold State.armFor
  rw [hu]
  dsimp only
  rw [here, seq]
  rfl

theorem State.supersede_free (h : s.check.arm = none) : s.supersede = s := by unfold State.supersede; rw [h]

theorem State.supersede_eq (h : s.check.arm = some a) (hk : s.job? k.tag = some k) (ht : k.tag = a.tag) :
    s.supersede = ((s.disarm.missed k .superseded).commit [.job k.tag]).settleTest k.tag := by
  unfold State.supersede
  rw [h]
  dsimp only
  rw [← ht, State.missCheck_eq hk, if_pos (by rw [h, ht]; rfl), ← State.missed_disarm]
  rfl

/-- Disarming leaves the rest of the Check Unit. -/
theorem State.disarm_check {u : State} {α : Type} (h : u.check = s.disarm.check) (f : CheckUnit → α)
    (hf : f s.disarm.check = f s.check) : f u.check = f s.check := (congrArg f h).trans hf

theorem State.disarm_tables (hs : s.tables) : s.disarm.tables := ⟨hs.jobs, hs.lots, hs.rolls, hs.editions, hs.active, hs.store⟩

end

/-- Settles O49: what supersedes an outstanding arm, `State.missed_tested`, leaves the strip's job and, but for an
edition that the settlement closes, its standard. -/
theorem stripArrivalArmsTheSensor : Obligations.StripArrivalArmsTheSensor := by
  unfold Obligations.StripArrivalArmsTheSensor
  intro s tag j sound hj n armed
  refine ⟨State.arrive_declined hj, fun hp free => State.arrive_armed hj hp (State.supersede_free free) hj rfl, ?_⟩
  intro a k hp ha apart hk hg
  obtain ⟨q, owner⟩ := a
  obtain rfl : k.tag = owner := State.job_key hk
  intro k' missed
  obtain ⟨base, stays, settles⟩ := State.missed_tested (s := s.disarm) (j := k) (why := .superseded) hk
    (State.disarm_tables sound.tables) hg
  have super := State.supersede_eq ha hk rfl
  have tell : s.heard s.disarm [] := s.heard_refl.minds s.disarm_minds sound.tables.store rfl
  have commits : ∀ {u x told m}, s.disarm.missedAs u k x told m → s.commits u (.job k.tag) := fun h =>
    ((s.disarm_minds.trans h.mind).ledger s (State.ledger_refl sound.tables.store)).commits_of_takenUp h.saved h.takenUp
  have still : ∀ {u x told m}, s.disarm.missedAs u k x told m →
      u.job? tag = some j ∧ u.check.armSeq = s.check.armSeq ∧ s.notices.takes u.awaited told u.notices := fun h =>
    ⟨(h.others tag apart.symm).trans hj, State.disarm_check (h.frame .check (by decide)) _ rfl, (h.heard s [] tell).1⟩
  have plain := State.missed_committed_within (s := s.disarm) (j := k) (why := .superseded) hg
  have same : (((s.disarm.missed k .superseded).commit [.job k.tag]).standard j) = s.standard j :=
    State.standard_congr (s := s) (plain .editions (by decide)) (State.disarm_check (plain .check (by decide)) _ rfl) j
  constructor
  · intro h
    rw [stays h] at super
    obtain ⟨here, seq, told⟩ := still base
    refine ⟨_, ?_, base.job, base.others, told, base.hands, commits base, State.frame plain⟩
    rw [State.arrive_armed hj hp super here seq, same]
    rfl
  · intro fin cut
    obtain ⟨x, settled, after⟩ := settles fin cut
    obtain ⟨here, seq, told⟩ := still after
    obtain ⟨c, hc, figures⟩ := settled.cost
    have record := settled.record
    refine ⟨_, x, ?_, after.job, fun hl => ?_, after.hands, commits after,
      State.frame (after.frame.still after.handling [.jobs, .editions, .overhead, .merged, .notices, .store]),
      settled.ended, ?_, ?_, ⟨c, hc, ?_⟩, after.others, fun i hi => ?_, told⟩
    · rw [State.arrive_armed hj hp super here seq]; rfl
    · rw [settled.standard fun id e hi hk he => hl id e hi hk ((plain.edition (by decide) id).symm.trans he), same]
    · rw [record]; rfl
    · rw [record]; rfl
    · exact State.figuresOf_congr figures (plain .lots (by decide))
        (State.rateOf_congr (s := s) (plain .rolls (by decide)) _) (plain .stripMode (by decide))
    · exact (settled.editions i hi).trans (plain.edition (by decide) i)

/-! ### A READING (R139 to R141) -/

section
variable {s : State} {j : Job} {a : Arm} {m : ReadingMsg}

theorem State.takeReading_unmatched (h : 1 < m.status ∨ ∀ a, s.check.arm = some a → a.seq ≠ m.seq) :
    s.takeReading m = s := by
  unfold State.takeReading
  rcases h with h | h
  · exact if_pos ⟨by omega, by omega⟩
  · cases ha : s.check.arm with
    | none => exact ite_self _
    | some a =>
      dsimp only
      rw [if_neg (h a ha), ite_self]

theorem State.takeReading_faulty (ha : s.check.arm = some a) (hm : a.seq = m.seq) (hj : s.job? a.tag = some j)
    (h : m.status = 1 ∨ (m.status = 0 ∧ m.labs.length ≠ (s.standard j).labs.length)) :
    s.takeReading m = s.disarm.missReading a.tag (if m.status = 1 then .fault else .count) := by
  have here : s.disarm.job? a.tag = some j := hj
  have le : ¬ (m.status ≠ 0 ∧ m.status ≠ 1) := by rcases h with h | h <;> omega
  unfold State.takeReading
  rw [if_neg le, ha]
  dsimp only
  rw [if_pos hm]
  unfold State.disarm at here ⊢
  rw [here]
  dsimp only
  rcases h with h | ⟨h, ne⟩
  · rw [if_pos h, if_pos h]
  · rw [h]
    exact if_pos ne

theorem State.missReading_eq {why : MissedReason} (hj : s.job? j.tag = some j) :
    s.disarm.missReading j.tag why = ((s.disarm.missed j why).commit [.job j.tag]).settleTest j.tag := by
  unfold State.missReading
  rw [State.missCheck_eq (s := s.disarm) hj, if_neg (by simp [State.disarm])]

/-- What a READING leaves that resolves a check as missed. -/
theorem State.missedAs.sensed {u : State} {x : Job} {told : List (Nat × Subject × Detail)} {n : Nat} (hs : s.sound)
    (h : s.opened.disarm.missedAs u j x told n) :
    s.commits (u.sensed s) (.job j.tag) ∧ (u.sensed s).job? j.tag = some x ∧
      (∀ i, i ≠ j.tag → (u.sensed s).job? i = s.job? i) ∧ (u.sensed s).check =
        { s.check with arm := none, waiting := (u.sensed s).check.waiting } ∧ (u.sensed s).channels = s.channels ∧
      s.store.hands (u.sensed s).store n ∧
      (∀ l, told = l.map (fun n => (s.store.called + n.1, n.2)) → s.noticed (u.sensed s) l) ∧
      s.quiet.within [.jobs, .editions, .overhead, .merged, .notices, .store, .check] (u.sensed s) := by
  have mind := s.opened.disarm_minds.trans h.mind
  have tell : s.opened.heard s.opened.disarm [] :=
    s.opened.heard_refl.minds s.opened.disarm_minds hs.tables.store rfl
  have handles : s.opened.disarm.handles := s.opened_handles
  refine ⟨mind.sensed hs (h.done handles), h.job, h.others, ?_, h.frame .channels (by decide), h.hands,
    fun l hl => (h.heard s.opened [] tell).sensed l mind hl, State.sensed_within
      ((s.opened.disarm_within.mono (by decide)).trans (h.frame.mono (by decide))) (l := .check :: settleFields) _⟩
  have check : u.check = s.opened.disarm.check := h.frame .check (by decide)
  unfold State.sensed
  rw [check]
  rfl
end

/-- Settles O46: a faulty READING misses the check it matches, `State.missed_tested`. -/
theorem unmatchedAndFaultyReadings : Obligations.UnmatchedAndFaultyReadings := by
  unfold Obligations.UnmatchedAndFaultyReadings
  refine ⟨fun s m => exec_readingHeld, fun s m => exec_readingDiscarded, fun s m free sound => ⟨fun h => ?_, ?_⟩⟩
  · exact exec_readingSame free sound (State.takeReading_unmatched h)
  intro a j ha hm hj h
  obtain ⟨q, owner⟩ := a
  obtain rfl : j.tag = owner := State.job_key hj
  have here : s.opened.disarm.job? j.tag = some j := hj
  obtain ⟨base, stays, settles⟩ := State.missed_tested (s := s.opened.disarm) (j := j)
    (why := if m.status = 1 then .fault else .count) here (State.disarm_tables (State.opened_tables sound.tables)) rfl
  have taken : s.opened.takeReading m = _ :=
    (State.takeReading_faulty (s := s.opened) ha hm hj h).trans (State.missReading_eq (s := s.opened) hj)
  by_cases through : j.state = .finishing ∧ (j.cut = .done ∨ j.cut = .uncut)
  · obtain ⟨x, settled, after⟩ := settles through.1 through.2
    have record := settled.record
    obtain ⟨commits, job, others, check, channels, hands, told, frame⟩ := after.sensed sound
    refine ⟨_, x, exec_readingTaken free taken, job, ?_, ?_, ?_, ?_, ?_, check, channels, ⟨fun h => absurd through h,
      fun _ _ => ⟨settled.ended, hands, told _ rfl⟩⟩, commits, others, State.frame frame⟩ <;> rw [record] <;> rfl
  · rw [stays through] at taken
    have plain := State.missed_committed_within (s := s.opened.disarm) (j := j)
      (why := if m.status = 1 then .fault else .count) rfl
    obtain ⟨commits, job, others, check, channels, hands, told, frame⟩ := base.sensed sound
    exact ⟨_, _, exec_readingTaken free taken, job, rfl, rfl, rfl, rfl, rfl, check, channels, ⟨fun _ => ⟨told _ rfl, rfl,
      plain .editions (by decide), plain .overhead (by decide), plain .merged (by decide), hands⟩,
      fun fin cut => absurd ⟨fin, cut⟩ through⟩, commits, others, State.frame frame⟩

end Sys2Proof.Machine
end

-- ==== Sys2Proof/Proofs/finish ====
section
/-!
O19: a PRINTING job moves to FINISHING (R15), with its cuts planned or through (R18).
-/

namespace Sys2Proof.Machine

/-! ### A job moves to FINISHING (R15) -/

/-- A job without holdings, FINISHING. -/
def Job.finished (j : Job) : Job := { j.unheld with state := .finishing }

/-- The job's holdings are released and its record is written, before its commit. -/
def State.freed (s : State) (j : Job) : State := (s.release j).setJob j.finished

/-- What is left where a job moved to FINISHING, in the handling in hand. -/
structure State.finishedAs (s t : State) (j : Job) : Prop where
  job : t.job? j.tag = some j.finished
  others : ∀ n, n ≠ j.tag → t.job? n = s.job? n
  chan : ∀ c, t.chan c = { s.chan c with reserved := (s.chan c).reserved - j.ink.get c }
  roll : ∀ r, s.roll? j.spec.roll = some r → t.roll? j.spec.roll = some { r with reserved := r.reserved - j.rollRes }
  rolls : ∀ n, n ≠ j.spec.roll → t.roll? n = s.roll? n
  lost : s.roll? j.spec.roll = none → t.roll? j.spec.roll = none
  tables : t.tables
  mind : s.minds t
  keep : s.handles → ∀ k, s.done k → t.done k
  done : s.handles → t.done (.job j.tag)
  heard : ∀ (b : State) l, b.heard s l →
    b.heard t (l ++ [(s.store.called + 1, .num j.tag, .jobState .finishing j.cause j.flags)])
  hands : s.store.hands t.store 1
  frame : s.within [.jobs, .channels, .rolls, .notices, .store] t
  handling : t.handling = s.handling

section
variable {s : State} {j : Job}

theorem State.roll_release_none (h : s.roll? j.spec.roll = none) : (s.release j).roll? j.spec.roll = none := by
  have none : (s.moveInk j.ink (Vec12.all 0)).roll? j.spec.roll = none := h
  unfold State.release State.moveRoll State.modRoll
  rw [none]
  exact none

theorem State.freed_within : s.within [.jobs, .channels, .rolls, .store] (s.freed j) :=
  (s.release_within j).next _ (State.setJob_within _ _)

theorem State.freed_minds : s.minds (s.freed j) := (s.release_minds j).trans (State.setJob_minds _ _)

theorem State.freed_job (ho : ordered Job.tag s.jobs) : (s.freed j).job? j.tag = some j.finished :=
  State.job_setJob_self (x := j.finished) (s := s.release j)
    (by rw [s.release_within j .jobs (by decide)]; exact ho)

theorem State.finish_eq (hs : s.tables) (hj : s.job? j.tag = some j) (hg : s.handling.gathered = none) :
    s.finish j.tag = ((s.freed j).commit [.job j.tag]).raise (.num j.tag) (.jobState .finishing j.cause j.flags) := by
  have gathered : (s.freed j).handling.gathered = none :=
    (congrArg Handling.gathered (State.freed_within .handling (by decide))).trans hg
  have here : ((s.freed j).commit [.job j.tag]).job? j.tag = some j.finished :=
    ((State.commit_within _ _).job (by decide) _).trans (State.freed_job hs.jobs)
  unfold State.finish
  rw [hj]
  show ((s.freed j).commit [.job j.tag]).raiseJobState j.tag = _
  unfold State.raiseJobState
  rw [here]
  dsimp only
  unfold State.raiseBehind
  rw [State.commit_handling gathered, gathered]
  rfl

theorem State.finish_finishedAs (hs : s.tables) (hj : s.job? j.tag = some j) (hg : s.handling.gathered = none) :
    s.finishedAs (s.finish j.tag) j := by
  have hand : (s.freed j).handling = s.handling := State.freed_within .handling (by decide)
  have gathered : (s.freed j).handling.gathered = none := (congrArg Handling.gathered hand).trans hg
  have store : (s.release j).store = s.store := State.release_store hs.rolls
  have mind := (State.freed_minds (s := s) (j := j))
  have made : s.store.hands ((s.freed j).commit [.job j.tag]).store 1 :=
    State.commit_hands (State.setJob_store_hands store j.finished) gathered _
  have stays : (s.freed j).within [.notices, .store] (s.finish j.tag) := by
    rw [State.finish_eq hs hj hg]
    exact ((State.commit_within (s := s.freed j) [.job j.tag]).still (State.commit_handling gathered _) [.store]).next _
      (State.raise_within _ _ _)
  have minded : (s.freed j).minds (s.finish j.tag) := by
    rw [State.finish_eq hs hj hg]
    exact (State.commit_minds _ _).trans (State.raise_minds _ _ _)
  have done : s.handles → (s.finish j.tag).done (.job j.tag) := fun hh => by
    rw [State.finish_eq hs hj hg]
    exact State.commit_done gathered (mind.sound hs.store) (mind.handles hh) (by simp)
  refine ⟨?_, fun n hn => ?_, fun c => ?_, fun r hr => ?_, fun n hn => ?_, fun hr => ?_, ?_, mind.trans minded,
    fun hh k hk => ?_, done, fun b l hb => ?_, ?_, ?_, ?_⟩
  · exact (stays.job (by decide) _).trans (State.freed_job hs.jobs)
  · exact (stays.job (by decide) _).trans ((State.job_setJob_ne (s := s.release j) (x := j.finished) hn).trans
      ((s.release_within j).job (by decide) n))
  · rw [stays.chan (by decide)]
    unfold State.freed
    rw [(State.setJob_within _ _).chan (by decide), State.chan_release]
  · rw [stays.roll (by decide)]
    exact ((State.setJob_within _ _).roll (by decide) _).trans (State.roll_release_self hs.rolls hr)
  · rw [stays.roll (by decide)]
    exact ((State.setJob_within _ _).roll (by decide) _).trans (State.roll_release_ne hn)
  · rw [stays.roll (by decide)]
    exact ((State.setJob_within _ _).roll (by decide) _).trans (State.roll_release_none hr)
  · exact (s.finish_keeps _).tables hs
  · by_cases e : k = .job j.tag
    · rw [e]; exact done hh
    · refine (mind.trans minded).done hs.store hk ?_
      rw [State.finish_eq hs hj hg]
      exact State.saved_commit (s := s.freed j) (State.setJob_keeps_saved store j.finished k hk.1 e)
  · rw [State.finish_eq hs hj hg]
    have now := (hb.minds (mind.trans (State.commit_minds _ [.job j.tag])) hs.store
      (((State.commit_within _ _) .notices (by decide)).trans (State.freed_within .notices (by decide)))).raise
      ((mind.trans (State.commit_minds _ [.job j.tag])).sound hs.store) (.num j.tag) (.jobState .finishing j.cause j.flags)
    rwa [made.called] at now
  · rw [State.finish_eq hs hj hg]; exact made
  · exact (State.freed_within.mono (by decide)).trans (stays.mono (by decide))
  · exact (stays .handling (by decide)).trans hand

/-- The rates of the rolls stand. -/
theorem State.finishedAs.rateOf {t : State} (h : s.finishedAs t j) (n : Nat) : t.rateOf n = s.rateOf n := by
  unfold State.rateOf
  by_cases e : n = j.spec.roll
  · subst e
    cases hr : s.roll? j.spec.roll with
    | none => rw [h.lost hr]
    | some r => rw [h.roll r hr]; rfl
  · rw [h.rolls n e]

/-- A job whose cuts are through settles as soon as it has finished; one whose cut is ahead does not (R15, R21). -/
theorem State.finishAndTest_leaves (hs : s.tables) (hj : s.job? j.tag = some j) (hg : s.handling.gathered = none) :
    (¬ ((j.cut = .done ∨ j.cut = .uncut) ∧ (j.strip = .resolved ∨ j.strip = .none)) →
      s.finishAndTest j.tag = s.finish j.tag) ∧
    (j.cut = .done ∨ j.cut = .uncut → j.strip = .resolved ∨ j.strip = .none →
      ∃ x, (s.finish j.tag).settledAs (s.finishAndTest j.tag) j.finished x) := by
  have now := State.finish_finishedAs hs hj hg
  have settles : j.finished.settles = true ↔ (j.cut = .done ∨ j.cut = .uncut) ∧ (j.strip = .resolved ∨ j.strip = .none) :=
    Job.settles_iff.trans (and_iff_right rfl)
  unfold State.finishAndTest
  refine ⟨fun h => State.settleTest_stays now.job (Bool.eq_false_iff.mpr (mt settles.mp h)), fun cut strip => ?_⟩
  rw [State.settleTest_settles now.job (settles.mpr ⟨cut, strip⟩)]
  exact ⟨_, State.settle_settledAs now.tables ((congrArg Handling.gathered now.handling).trans hg)⟩
end

end Sys2Proof.Machine
end

-- ==== Sys2Proof/Proofs/plan ====
section
/-!
Cuts planned (R114, R115) and the cut start test (R117).
-/

namespace Sys2Proof.Machine

section
variable {s : State} {r : Roll} {e : CutEntry} {es : List CutEntry}

/-! ### The cut start test (R117) -/

theorem State.startCut_fires (hr : s.activeRoll = some r) (hq : s.media.queue.head? = some e) (hc : s.media.cutter = .idle)
    (h : e.target ≤ r.fed) : s.startCut = s.fireCut e := by
  unfold State.startCut
  rw [hr, hq, hc]
  exact if_pos h

theorem State.startCut_waits (hr : s.activeRoll = some r)
    (h : ∀ e, s.media.queue.head? = some e → s.media.cutter = .idle → ¬ e.target ≤ r.fed) : s.startCut = s := by
  unfold State.startCut
  rw [hr]
  cases hc : s.media.cutter <;> cases hq : s.media.queue.head? <;> try rfl
  exact if_neg (h _ hq hc)

/-- What the cut start test leaves of the cutter. -/
theorem State.startCut_leaves (hr : s.activeRoll = some r) :
    (∀ e, s.media.queue.head? = some e → s.media.cutter = .idle → e.target ≤ r.fed →
      s.startCut.media = { s.media with cutter := .cutting, timer := some s.media.geometry.cutTimeout } ∧
        s.startCut.out = s.out ++ [.cut e.kind e.target]) ∧
    ((∀ e, s.media.queue.head? = some e → s.media.cutter = .idle → ¬ e.target ≤ r.fed) →
      s.startCut.media = s.media ∧ s.startCut.out = s.out) ∧
    s.within [.media, .out] s.startCut := by
  refine ⟨fun e hq hc h => ?_, fun h => ?_, s.startCut_within⟩
  · rw [State.startCut_fires hr hq hc h]; exact ⟨rfl, rfl⟩
  · rw [State.startCut_waits hr h]; exact ⟨rfl, rfl⟩

/-! ### The ACTIVE roll rewritten -/

/-- The ACTIVE roll, written again as an ACTIVE roll, is the ACTIVE roll. -/
theorem State.activeRoll_setRoll (ho : ordered Roll.id s.rolls) (hr : s.activeRoll = some r) {x : Roll} (hi : x.id = r.id)
    (hx : x.state = r.state) : (s.setRoll x).activeRoll = some x := by
  unfold State.activeRoll at *
  rw [State.setRoll_rolls]
  have active := List.find?_some hr
  exact find_insertBy_first (key := Roll.id) ho hr hi (by rw [hx]; exact active)

theorem State.within.activeRoll {t : State} {l : List Field} (h : s.within l t) (hl : Field.rolls ∉ l) :
    t.activeRoll = s.activeRoll := congrArg (List.find? fun r : Roll => r.state == .active) (h .rolls hl)

/-! ### Planning (R115) -/

/-- What is left where cuts were planned, the first of them `e` and the last at `point`. -/
structure State.planned (s t : State) (r : Roll) (e : CutEntry) (es : List CutEntry) (point : Nat) : Prop where
  queue : t.media.queue = s.media.queue ++ e :: es
  media : t.media = { s.media with queue := t.media.queue, cutter := t.media.cutter, timer := t.media.timer }
  cuts : s.media.queue = [] → s.media.cutter = .idle → e.target ≤ r.fed →
    t.media.cutter = .cutting ∧ t.media.timer = some s.media.geometry.cutTimeout ∧
      t.out = s.out ++ [.stopAt (some e.target), .cut e.kind e.target]
  waits : s.media.queue = [] → ¬ (s.media.cutter = .idle ∧ e.target ≤ r.fed) →
    t.media.cutter = s.media.cutter ∧ t.media.timer = s.media.timer ∧ t.out = s.out ++ [.stopAt (some e.target)]
  behind : s.media.queue ≠ [] → t.media.cutter = s.media.cutter ∧ t.media.timer = s.media.timer ∧ t.out = s.out
  roll : t.roll? r.id = some { r with boundary := point }
  active : t.activeRoll = some { r with boundary := point }
  rolls : ∀ n, n ≠ r.id → t.roll? n = s.roll? n
  mind : s.minds t
  frame : s.within [.media, .rolls, .store, .out] t
  saved : ∀ k, s.saved k → k ≠ .roll r.id → t.saved k
  hands : ∀ a n, Store.hands a s.store n → a.hands t.store n

/-- The entries are appended and the last planned boundary moved. -/
def State.lined (s : State) (r : Roll) (es : List CutEntry) (point : Nat) : State :=
  (s.setMedia fun m => { m with queue := m.queue ++ es }).setRoll { r with boundary := point }

theorem State.planCuts_eq (hr : s.activeRoll = some r) {last : CutEntry} (hl : es.getLast? = some last) :
    s.planCuts es = if s.media.queue.isEmpty then (s.lined r es last.point).sendStop.startCut else s.lined r es last.point := by
  unfold State.planCuts
  rw [hl, hr]
  rfl

theorem State.lined_media {point : Nat} : (s.lined r es point).media = { s.media with queue := s.media.queue ++ es } :=
  (State.setRoll_within _ _) .media (by decide)

theorem State.lined_out {point : Nat} : (s.lined r es point).out = s.out := (State.setRoll_within _ _) .out (by decide)

/-- The part of `State.planned` that says what happens behind the queue. -/
theorem State.lined_planned {t : State} {point : Nat} (hs : ordered Roll.id s.rolls) (hr : s.activeRoll = some r)
    (ht : (s.lined r (e :: es) point).within [.media, .out] t)
    (queue : t.media.queue = s.media.queue ++ e :: es)
    (media : t.media = { s.media with queue := t.media.queue, cutter := t.media.cutter, timer := t.media.timer })
    (cuts : s.media.queue = [] → s.media.cutter = .idle → e.target ≤ r.fed →
      t.media.cutter = .cutting ∧ t.media.timer = some s.media.geometry.cutTimeout ∧
        t.out = s.out ++ [.stopAt (some e.target), .cut e.kind e.target])
    (waits : s.media.queue = [] → ¬ (s.media.cutter = .idle ∧ e.target ≤ r.fed) →
      t.media.cutter = s.media.cutter ∧ t.media.timer = s.media.timer ∧ t.out = s.out ++ [.stopAt (some e.target)])
    (behind : s.media.queue ≠ [] → t.media.cutter = s.media.cutter ∧ t.media.timer = s.media.timer ∧ t.out = s.out)
    (mind : s.minds t) : s.planned t r e es point := by
  have store : t.store = (s.lined r (e :: es) point).store := ht .store (by decide)
  refine ⟨queue, media, cuts, waits, behind, ?_, ?_, fun n hn => ?_, mind, ?_, fun k hk ne => ?_, fun a n h => ?_⟩
  · rw [ht.roll (by decide)]; exact State.roll_setRoll_self (x := { r with boundary := point }) hs
  · rw [ht.activeRoll (by decide)]
    exact State.activeRoll_setRoll (s := s.setMedia _) hs hr rfl rfl
  · rw [ht.roll (by decide)]; exact State.roll_setRoll_ne (x := { r with boundary := point }) hn
  · exact (((State.setMedia_within s _).mono (by decide)).trans ((State.setRoll_within _ _).mono (by decide))).trans
      (ht.mono (by decide))
  · unfold State.saved
    rw [store]
    exact State.noting_saved (t := { s.setMedia _ with rolls := _ }) hk ne
  · rw [store]; exact State.setRoll_hands (s := s.setMedia fun m => { m with queue := m.queue ++ e :: es }) h _

theorem State.planCuts_planned (hs : ordered Roll.id s.rolls) (hr : s.activeRoll = some r) {last : CutEntry}
    (hl : (e :: es).getLast? = some last) : s.planned (s.planCuts (e :: es)) r e es last.point := by
  have mind := s.planCuts_minds (e :: es)
  rw [State.planCuts_eq hr hl] at mind ⊢
  let u := s.lined r (e :: es) last.point
  have media : u.media = { s.media with queue := s.media.queue ++ e :: es } := State.lined_media
  have out : u.out = s.out := State.lined_out
  by_cases empty : s.media.queue = []
  · have active : u.activeRoll = some { r with boundary := last.point } :=
      State.activeRoll_setRoll (s := s.setMedia _) hs hr rfl rfl
    have head : u.media.queue.head? = some e := by rw [media]; show (s.media.queue ++ _).head? = _; rw [empty]; rfl
    have stopped : u.sendStop = u.send (.stopAt (some e.target)) := by unfold State.sendStop; rw [head]; rfl
    have sent : u.sendStop.media = u.media ∧ u.sendStop.out = s.out ++ [.stopAt (some e.target)] := by
      rw [stopped]; exact ⟨rfl, congrArg (· ++ [_]) out⟩
    obtain ⟨fires, stays, within⟩ := State.startCut_leaves (s := u.sendStop) (r := { r with boundary := last.point }) active
    rw [if_pos (by rw [empty]; rfl)] at mind ⊢
    rw [sent.1, sent.2, media] at fires stays
    have head' : (s.media.queue ++ e :: es).head? = some e := by rw [empty]; rfl
    have cuts := fun hc ht => fires e head' hc ht
    have waits := fun h : ¬ (s.media.cutter = .idle ∧ e.target ≤ r.fed) => stays fun x hx hc ht =>
      h ⟨hc, by obtain rfl := Option.some.inj (head'.symm.trans hx); exact ht⟩
    have kept : u.sendStop.startCut.media = { s.media with queue := s.media.queue ++ e :: es
                                                           cutter := u.sendStop.startCut.media.cutter
                                                           timer := u.sendStop.startCut.media.timer } := by
      by_cases h : s.media.cutter = .idle ∧ e.target ≤ r.fed
      · rw [(cuts h.1 h.2).1]
      · rw [(waits h).1]
    refine State.lined_planned hs hr (((u.send_within _).mono (by decide)).trans within) (congrArg Media.queue kept) ?_
      (fun _ hc ht => ?_) (fun _ h => ?_) (fun h => absurd empty h) mind
    · rw [kept]
    · rw [(cuts hc ht).1, (cuts hc ht).2]; exact ⟨rfl, rfl, by simp⟩
    · rw [(waits h).1, (waits h).2]; exact ⟨rfl, rfl, rfl⟩
  · rw [if_neg (by rw [List.isEmpty_iff]; exact empty)] at mind ⊢
    refine State.lined_planned hs hr (u.within_refl _) (congrArg Media.queue media) ?_ (fun h => absurd h empty)
      (fun h => absurd h empty) (fun _ => ?_) mind
    · rw [State.lined_media]
    · rw [State.lined_media, State.lined_out]; exact ⟨rfl, rfl, rfl⟩
end

theorem State.planJobCuts_eq {s : State} {j : Job} {tag : Nat} {es : List CutEntry} (hj : s.job? tag = some j) :
    s.planJobCuts tag es = (s.setJob { j with cut := .pending }).planCuts es := by
  unfold State.planJobCuts State.modJob
  rw [hj]

/-! ### A PRINTING job aborted (R18) -/

/-- Image swaths of the job remain. -/
abbrev Job.imageAhead (j : Job) : Prop := j.spec.kind ≠ .check ∧ 0 < j.swathsLeft

/-- A job with its void cause and ABORT_PENDING. -/
def Job.abortFlagged (j : Job) (cause : VoidCause) : Job :=
  { (j.doom cause) with flags := { j.flags with abortPending := true } }

/-- The record of an aborted job, before it finishes. -/
def Job.aborted (j : Job) (cause : VoidCause) : Job :=
  { j with
    cause := some (j.cause.getD cause)
    cut := if j.imageAhead then .pending else j.cut
    strip := if j.imageAhead then j.strip else .resolved
    flags := { j.flags with abortPending := true, unchecked := if j.imageAhead then j.flags.unchecked else true } }

theorem Job.aborted_unread {j : Job} {cause : VoidCause} (h : ¬ j.imageAhead) : j.aborted cause =
    { j with cause := some (j.cause.getD cause), strip := .resolved
             flags := { j.flags with abortPending := true, unchecked := true } } := by
  unfold Job.aborted
  simp only [if_neg h]

theorem Job.aborted_gives_up {j : Job} {cause : VoidCause} (h : ¬ j.imageAhead) : (j.aborted cause).cut = j.cut ∧
    (j.aborted cause).strip = .resolved ∧
    (j.aborted cause).flags = { j.flags with abortPending := true, unchecked := true } := by
  rw [Job.aborted_unread h]
  exact ⟨rfl, rfl, rfl⟩

theorem Job.aborted_ahead {j : Job} {cause : VoidCause} (h : j.imageAhead) :
    j.aborted cause = { j.abortFlagged cause with cut := .pending } := by
  unfold Job.aborted
  simp only [if_pos h]
  rfl

theorem Job.aborted_dooms (j : Job) (cause : VoidCause) : (j.aborted cause).finished.dooms = true :=
  Job.dooms_iff.mpr (.inr (.inl rfl))

/-- Where the cut of an aborted job is planned. -/
def State.abortCut (s : State) (j : Job) (r : Roll) : CutEntry :=
  planEntry s.media.geometry .separate (abortPoint r.fed r.boundary (j.pLead.getD 0) j.spec.tail) (some j.tag) none

/-- The state in which an aborted job finishes. -/
structure State.aborting (s v : State) (j : Job) (cause : VoidCause) (r : Roll) : Prop where
  abort : s.abort j cause = v.finishAndTest j.tag
  job : v.job? j.tag = some (j.aborted cause)
  others : ∀ n, n ≠ j.tag → v.job? n = s.job? n
  tables : v.tables
  mind : s.minds v
  frame : s.within [.jobs, .media, .rolls, .store, .out] v
  hands : s.store.hands v.store 0
  roll : v.roll? r.id = some { r with boundary := if j.imageAhead then (s.abortCut j r).point else r.boundary }
  rolls : ∀ n, n ≠ r.id → v.roll? n = s.roll? n
  still : ¬ j.imageAhead → v.media = s.media ∧ v.out = s.out ∧ v.rolls = s.rolls
  planned : j.imageAhead → v.media.queue = s.media.queue ++ [s.abortCut j r]

section
variable {s : State} {j : Job} {r : Roll} {cause : VoidCause}

/-- No image swath is left: the strip is given up. -/
theorem State.abort_unread (hs : s.tables) (hj : s.job? j.tag = some j) (hr : s.roll? r.id = some r) (h : ¬ j.imageAhead) :
    s.aborting (s.setJob (j.aborted cause)) j cause r := by
  have record := Job.aborted_unread (cause := cause) h
  have stays := s.setJob_within (j.aborted cause)
  refine ⟨?_, State.job_setJob_self (x := j.aborted cause) hs.jobs, fun n hn => State.job_setJob_ne (x := j.aborted cause) hn,
    (State.setJob_keeps_of_mem (j := j.aborted cause) j (State.job_mem hj)).tables hs, State.setJob_minds _ _,
    stays.mono (by decide), State.setJob_hands s.store.hands_refl _, ?_, fun n _ => stays.roll (by decide) n,
    fun _ => ⟨stays .media (by decide), stays .out (by decide), stays .rolls (by decide)⟩, fun hi => absurd hi h⟩
  · unfold State.abort
    rw [record]
    dsimp only
    rw [if_neg h]
    rfl
  · rw [stays.roll (by decide), hr, if_neg h]

/-- Image swaths remain: the SEPARATE cut is planned. -/
theorem State.abort_planned (hs : s.tables) (hj : s.job? j.tag = some j) (hr : s.activeRoll = some r) (h : j.imageAhead) :
    ∃ v, s.aborting v j cause r := by
  let i := j.abortFlagged cause
  have record : j.aborted cause = { i with cut := .pending } := Job.aborted_ahead h
  let u := (s.setJob i).setJob (j.aborted cause)
  have here : (s.setJob i).job? j.tag = some i := State.job_setJob_self (x := i) hs.jobs
  have first : s.keeps (s.setJob i) := State.setJob_keeps_of_mem (j := i) j (State.job_mem hj)
  have tables : u.tables := (first.trans (State.setJob_keeps_of_mem (j := j.aborted cause) i (State.job_mem here))).tables hs
  have stays : s.within [.jobs, .store] u := (s.setJob_within i).trans (State.setJob_within _ _)
  have active : u.activeRoll = some r := (stays.activeRoll (by decide)).trans hr
  have plan := State.planCuts_planned (es := []) (e := s.abortCut j r) tables.rolls active rfl
  refine ⟨_, ?_, ?_, fun n hn => ?_, (State.planCuts_keeps _ _).tables tables,
    ((s.setJob_minds i).trans (State.setJob_minds _ _)).trans plan.mind, (stays.mono (by decide)).trans (plan.frame.mono (by decide)),
    plan.hands _ _ (State.setJob_hands (State.setJob_hands s.store.hands_refl _) _), ?_, fun n hn => ?_,
    fun hn => absurd h hn, fun _ => ?_⟩
  · unfold State.abort
    dsimp only
    rw [if_pos h, hr]
    unfold State.feedPos
    rw [hr]
    show ((s.setJob i).planJobCuts j.tag [s.abortCut j r]).finishAndTest j.tag = _
    rw [State.planJobCuts_eq here, ← record]
  · rw [plan.frame.job (by decide)]
    exact State.job_setJob_self (s := s.setJob i) (x := j.aborted cause) (first.jobs hs.jobs)
  · rw [plan.frame.job (by decide)]
    exact (State.job_setJob_ne (s := s.setJob i) (x := j.aborted cause) hn).trans (State.job_setJob_ne (x := i) hn)
  · rw [plan.roll, if_pos h]; rfl
  · exact (plan.rolls n hn).trans (stays.roll (by decide) n)
  · rw [plan.queue, show u.media = s.media from stays .media (by decide)]

theorem State.abort_aborting (hs : s.tables) (hj : s.job? j.tag = some j) (hr : s.activeRoll = some r) :
    ∃ v, s.aborting v j cause r := by
  by_cases h : j.imageAhead
  · exact State.abort_planned hs hj hr h
  · exact ⟨_, State.abort_unread hs hj (State.roll_of_mem hs.rolls (State.activeRoll_mem hr).1) h⟩
end


section
variable {s : State} {j : Job} {r : Roll}

theorem State.voidLater_stays {cause : VoidCause} (h : j.flags.abortPending = true ∨ j.flags.voidOnSettle = true) :
    s.voidLater j cause = s := if_pos h

theorem State.voidLater_dooms {cause : VoidCause} (h : ¬ (j.flags.abortPending = true ∨ j.flags.voidOnSettle = true)) :
    s.voidLater j cause =
      (s.setJob { (j.doom cause) with flags := { j.flags with voidOnSettle := true } }).commit [.job j.tag] := if_neg h

/-- The media point of an abort, in the words of O19 (R18). -/
theorem State.abortCut_eq : s.abortCut j r =
    let lead := j.pLead.getD 0
    let planned := (if r.fed < lead then lead else r.fed) + j.spec.tail
    let point := fit32 (if r.boundary < planned then planned else r.boundary + 1)
    { kind := .separate, point := point, target := fit32 (point + s.media.geometry.cutterOffset), owner := some j.tag
      stripStart := none, armed := false } := by
  have ahead : (if r.fed < j.pLead.getD 0 then j.pLead.getD 0 else r.fed) = max r.fed (j.pLead.getD 0) := by
    split <;> omega
  have swap : ∀ p, (if r.boundary < p then p else r.boundary + 1) = if p ≤ r.boundary then r.boundary + 1 else p := fun p => by
    by_cases h : r.boundary < p
    · rw [if_pos h, if_neg (by omega)]
    · rw [if_neg h, if_pos (by omega)]
  dsimp only
  rw [ahead, swap]
  rfl
end

/-- What is left where a PRINTING job was aborted and moved to FINISHING, in the handling in hand. -/
structure State.abortedAs (s w : State) (j : Job) (cause : VoidCause) (r : Roll) : Prop where
  job : w.job? j.tag = some (j.aborted cause).finished
  others : ∀ n, n ≠ j.tag → w.job? n = s.job? n
  chan : ∀ c, w.chan c = { s.chan c with reserved := (s.chan c).reserved - j.ink.get c }
  roll : w.roll? r.id = some { r with
    reserved := r.reserved - j.rollRes, boundary := if j.imageAhead then (s.abortCut j r).point else r.boundary }
  rolls : ∀ n, n ≠ r.id → w.roll? n = s.roll? n
  rate : ¬ j.imageAhead → ∀ n, w.rateOf n = s.rateOf n
  still : ¬ j.imageAhead → w.media = s.media ∧ w.out = s.out
  planned : j.imageAhead → w.media.queue = s.media.queue ++ [s.abortCut j r]
  mind : s.minds w
  done : s.handles → w.done (.job j.tag)
  heard : ∀ (b : State) l, b.heard s l → b.heard w (l ++ [(s.store.called + 1, .num j.tag,
    .jobState .finishing (some (j.cause.getD cause)) (j.aborted cause).flags)])
  hands : s.store.hands w.store 1
  frame : s.within [.jobs, .channels, .rolls, .media, .notices, .store, .out] w

section
variable {s v : State} {j : Job} {r : Roll} {cause : VoidCause}

theorem State.aborting.aborted (a : s.aborting v j cause r) (hs : s.tables) (hg : s.handling.gathered = none)
    (on : j.spec.roll = r.id) : s.abortedAs (v.finish j.tag) j cause r := by
  have gathered : v.handling.gathered = none := (congrArg Handling.gathered (a.frame .handling (by decide))).trans hg
  have fin : v.finishedAs (v.finish j.tag) (j.aborted cause) :=
    State.finish_finishedAs (j := j.aborted cause) a.tables a.job gathered
  refine ⟨fin.job, fun n hn => (fin.others n hn).trans (a.others n hn), fun c => ?_, ?_, fun n hn => ?_, fun h n => ?_,
    fun h => ?_, fun h => ?_, a.mind.trans fin.mind, fun hh => fin.done (a.mind.handles hh), fun b l hb => ?_,
    Store.hands.trans a.hands fin.hands, (a.frame.mono (by decide)).trans (fin.frame.mono (by decide))⟩
  · rw [fin.chan, a.frame.chan (by decide)]; rfl
  · have now := fin.roll _ ((congrArg v.roll? on).trans a.roll)
    rwa [show (j.aborted cause).spec.roll = r.id from on] at now
  · exact (fin.rolls n (by rw [show (j.aborted cause).spec.roll = r.id from on]; exact hn)).trans (a.rolls n hn)
  · exact (fin.rateOf n).trans (State.rateOf_congr (a.still h).2.2 n)
  · exact ⟨(fin.frame .media (by decide)).trans (a.still h).1, (fin.frame .out (by decide)).trans (a.still h).2.1⟩
  · rw [show (v.finish j.tag).media = v.media from fin.frame .media (by decide), a.planned h]
  · have now := fin.heard b l (hb.minds a.mind hs.store (a.frame .notices (by decide)))
    rwa [a.hands.called] at now

theorem State.abort_still {w : State} (a : s.abortedAs w j cause r) (h : ¬ j.imageAhead) :
    s.within [.jobs, .channels, .rolls, .notices, .store] w := by
  intro f hf
  by_cases h1 : f = .media
  · subst h1; exact (a.still h).1
  by_cases h2 : f = .out
  · subst h2; exact (a.still h).2
  exact a.frame f (by simp_all)

/-- An abort settles the job where no image swath is left and its cuts are through. -/
theorem State.abort_leaves (hs : s.tables) (hg : s.handling.gathered = none) (hj : s.job? j.tag = some j)
    (hr : s.activeRoll = some r) (on : j.spec.roll = r.id) : ∃ w, s.abortedAs w j cause r ∧
      (j.imageAhead ∨ j.cut = .pending ∨ j.cut = .none → s.abort j cause = w) ∧
      (¬ j.imageAhead → j.cut = .done ∨ j.cut = .uncut →
        ∃ x, w.settledAs (s.abort j cause) (j.aborted cause).finished x) := by
  obtain ⟨v, a⟩ := State.abort_aborting (cause := cause) hs hj hr
  obtain ⟨stays, settles⟩ := State.finishAndTest_leaves (j := j.aborted cause) a.tables a.job
    ((congrArg Handling.gathered (a.frame .handling (by decide))).trans hg)
  refine ⟨_, a.aborted hs hg on, fun h => ?_, fun h cut => ?_⟩
  · refine a.abort.trans (stays fun hc => ?_)
    by_cases ahead : j.imageAhead
    · rw [Job.aborted_ahead ahead] at hc
      simp at hc
    · rw [Job.aborted_unread ahead] at hc
      rcases h.resolve_left ahead with h | h <;> simp [h] at hc
  · rw [a.abort]
    rw [Job.aborted_unread h] at settles ⊢
    exact settles cut (.inl rfl)
end

/-- Settles O19: what an abort leaves is `State.abort_leaves`. -/
theorem cancelOfAPrintingOrFinishingJob : Obligations.CancelOfAPrintingOrFinishingJob := by
  unfold Obligations.CancelOfAPrintingOrFinishingJob
  constructor
  · intro s seq tag reason j r ready sound hj hp hr on cause lead planned point image
    obtain rfl : j.tag = tag := State.job_key hj
    obtain ⟨w, a, stays, settles⟩ := State.abort_leaves (s := s.opened) (cause := cancelCause reason)
      (State.opened_tables sound.tables) rfl hj hr on
    have body := cancelJob_printing (s := s.opened) (reason := reason) hj hp
    have heard := a.heard s.opened [] s.opened.heard_refl
    constructor
    · intro unread cut
      obtain ⟨-, strip, flags⟩ := Job.aborted_gives_up (cause := cancelCause reason) unread
      obtain ⟨x, done⟩ := settles unread cut
      obtain ⟨p, e, answer⟩ := exec_taken ready (i := .cancelJob seq j.tag reason) rfl body
        ((done.frame .port (by decide)).trans (a.frame .port (by decide)))
      obtain ⟨c, hc, figures⟩ := done.cost
      have fields := done.record
      have told := done.heard s.opened _ heard
      have mind := a.mind.trans done.mind
      obtain ⟨media, out⟩ := a.still unread
      rw [a.hands.called] at told
      refine ⟨_, x, e, done.job, done.state.trans (if_pos (j.aborted_dooms _)), congrArg Job.cause fields,
        (congrArg Job.strip fields).trans strip, ?_, ⟨c, hc, ?_⟩, ?_, ?_,
        fun n hn => (done.others n hn).trans (a.others n hn),
        mind.commits sound (done.done (a.mind.handles s.opened_handles)).1 p, answer, fun c => ?_, ?_, ?_, ?_⟩
      · rw [fields]; exact congrArg JobFlags.unchecked flags
      · exact State.figuresOf_congr figures (a.frame .lots (by decide)) (a.rate unread _) (a.frame .stripMode (by decide))
      · rw [fields]; exact fun c => Vec12.all_get 0 c
      · rw [fields]; rfl
      · exact (done.frame.chan (by decide) c).trans (a.chan c)
      · exact ((done.frame.roll (by decide) _).trans a.roll).trans (by rw [if_neg unread])
      · refine told.requested _ mind p ?_
        have state : x.state = .voided := done.state.trans (if_pos (j.aborted_dooms _))
        have cause : x.cause = some cause := congrArg Job.cause fields
        rw [flags, state, cause]
        rfl
      · exact State.frame (State.closed_within (((State.abort_still a unread).mono (by decide)).trans
          (done.frame.mono (by decide)) : s.opened.within ([.jobs, .channels, .rolls] ++ settleFields) _) p
          [.jobs, .channels, .rolls, .editions, .overhead, .merged, .notices, .store, .port])
    · intro pending
      obtain ⟨p, e, answer⟩ := exec_taken ready (i := .cancelJob seq j.tag reason) rfl (body.trans (by rw [stays pending]))
        (a.frame .port (by decide))
      refine ⟨_, _, e, a.job, ?_, a.others, a.mind.commits sound (a.done s.opened_handles) p, answer,
        heard.requested _ a.mind p ?_, a.chan, ?_, a.rolls, a.still, ?_, ?_⟩
      · rfl
      · rfl
      · refine a.roll.trans ?_
        rw [State.abortCut_eq]
      · intro h
        refine (a.planned h).trans ?_
        rw [State.abortCut_eq]
        rfl
      · exact State.frame (State.closed_within a.frame p
          [.jobs, .channels, .rolls, .media, .notices, .store, .port, .out])
  · intro s seq tag reason j ready sound hj hf
    obtain rfl : j.tag = tag := State.job_key hj
    have body := cancelJob_finishing (s := s.opened) (reason := reason) hj hf
    refine ⟨fun h => ?_, fun h1 h2 => ?_⟩
    · rw [State.voidLater_stays h] at body
      exact exec_same ready sound (code := 0x13) (f := cancelJob j.tag reason) rfl body
    · rw [State.voidLater_dooms (by simp [h1, h2])] at body
      obtain ⟨t, e, others, commits, hands, record, answer, frame⟩ := exec_deferred (i := .cancelJob seq j.tag reason)
        (j := { (j.doom (cancelCause reason)) with flags := { j.flags with voidOnSettle := true } }) ready sound rfl body
      exact ⟨t, e, record, others, commits, hands, answer, frame⟩

end Sys2Proof.Machine
end

-- ==== Sys2Proof/Proofs/start ====
section
/-!
O17: BEGIN JOB starts the printing of the job (R13).
-/

namespace Sys2Proof.Machine

/-! ### Where the roll law holds (R103), and a first commit point -/

section
variable {s : State}

theorem withdrawWhile_holds {p : State → Bool} {q : Job → Bool} {why : Resource} {n : Nat} (h : p s = false) :
    withdrawWhile p q why n s = s := by
  cases n with
  | zero => rfl
  | succ n => unfold withdrawWhile; rw [if_neg (by rw [h]; simp)]

/-- Where the roll law holds, nothing is withdrawn and nothing trimmed. -/
theorem State.enforceRoll_holds {id : Nat} {r : Roll} (hr : s.roll? id = some r) (h : r.reserved ≤ r.length - r.fed) :
    s.enforceRoll id = s := by
  have law : s.rollLawFails id = false := by
    unfold State.rollLawFails
    rw [hr]
    exact decide_eq_false (by unfold Roll.remaining; omega)
  unfold State.enforceRoll
  rw [withdrawWhile_holds law]
  cases hp : s.printing? with
  | none => exact State.trimRoll_none hp
  | some j => exact State.trimRoll_zero hp hr (by unfold Roll.remaining; omega)

theorem State.commitRest_first {names : List RecKey} (h : s.handling.since = some s.store.called) :
    s.commitRest names = s.commit names := by
  unfold State.commitRest
  refine if_neg fun hc => ?_
  unfold State.committed at hc
  rw [h] at hc
  simp at hc
end

/-! ### The records of a job that begins -/

/-- The holdings are brought up to date and the record written. -/
def State.beginning (s : State) (j : Job) (r : Roll) : State :=
  ((s.moveInk j.ink (s.begun j r).ink).moveRoll j.spec.roll j.rollRes (s.begun j r).rollRes).setJob (s.begun j r)

/-- The ACTIVE roll with the job's new reservation. -/
def Roll.taking (r : Roll) (j : Job) (len : Nat) : Roll := { r with reserved := r.reserved + len - j.rollRes }

section
variable {s : State} {j : Job} {r : Roll}

theorem State.beginning_within : s.within [.jobs, .channels, .rolls, .store] (s.beginning j r) :=
  ((s.moveInk_within _ _).next [.channels, .rolls, .store] (State.moveRoll_within _ _ _ _)).next _ (State.setJob_within _ _)

theorem State.beginning_minds : s.minds (s.beginning j r) :=
  ((s.moveInk_minds _ _).trans (State.moveRoll_minds _ _ _ _)).trans (State.setJob_minds _ _)

theorem State.beginning_job (ho : ordered Job.tag s.jobs) : (s.beginning j r).job? j.tag = some (s.begun j r) :=
  State.job_setJob_self (x := s.begun j r) (s := (s.moveInk j.ink (s.begun j r).ink).moveRoll _ _ _)
    (by rw [(State.moveRoll_within _ _ _ _) .jobs (by decide)]; exact ho)

theorem State.beginning_job_ne {n : Nat} (h : n ≠ j.tag) : (s.beginning j r).job? n = s.job? n :=
  (State.job_setJob_ne (x := s.begun j r) h).trans ((State.moveRoll_within _ _ _ _).job (by decide) n)

theorem State.beginning_chan (c : Chan) : (s.beginning j r).chan c =
    { s.chan c with reserved := (s.chan c).reserved + s.needOf j.spec c - j.ink.get c } := by
  unfold State.beginning
  rw [(State.setJob_within _ _).chan (by decide), (State.moveRoll_within _ _ _ _).chan (by decide), State.chan_moveInk,
    show (s.begun j r).ink = s.inkNeeds j.spec from rfl, State.inkNeeds_get]

theorem State.beginning_roll (ho : ordered Roll.id s.rolls) (hr : s.roll? r.id = some r) (on : j.spec.roll = r.id) :
    (s.beginning j r).roll? r.id = some (r.taking j (s.begun j r).rollRes) := by
  unfold State.beginning
  rw [(State.setJob_within _ _).roll (by decide), on]
  exact State.roll_modRoll_self (s := s.moveInk j.ink (s.begun j r).ink) (r := r)
    (fun x => { x with reserved := x.reserved + (s.begun j r).rollRes - j.rollRes }) ho hr rfl

theorem State.beginning_roll_ne {n : Nat} (h : n ≠ j.spec.roll) : (s.beginning j r).roll? n = s.roll? n := by
  unfold State.beginning
  rw [(State.setJob_within _ _).roll (by decide)]
  exact State.roll_modRoll_ne (s := s.moveInk j.ink (s.begun j r).ink) _ (fun _ => rfl) h

theorem State.beginning_active (hs : s.tables) (hr : s.activeRoll = some r) (on : j.spec.roll = r.id) :
    (s.beginning j r).activeRoll = some (r.taking j (s.begun j r).rollRes) := by
  have here : (s.moveInk j.ink (s.begun j r).ink).roll? r.id = some r :=
    State.roll_of_mem hs.rolls (State.activeRoll_mem hr).1
  unfold State.beginning State.moveRoll State.modRoll
  rw [on, here, (State.setJob_within _ _).activeRoll (by decide)]
  exact State.activeRoll_setRoll (s := s.moveInk j.ink (s.begun j r).ink) hs.rolls hr rfl rfl
end

/-! ### BEGIN JOB past its table (R13, R115) -/

theorem State.beginning_leads {s : State} {j : Job} {r : Roll} (h : s.printing? = none) : s.leads (s.beginning j r) := by
  have moved := (s.moveInk_keeps j.ink (s.begun j r).ink).trans
    (State.moveRoll_keeps _ j.spec.roll j.rollRes (s.begun j r).rollRes)
  refine moved.leads.trans (State.setJob_leads ?_)
  unfold State.printing?
  rw [(State.moveRoll_within _ _ _ _) .jobs (by decide)]
  exact h

/-- The job's record as it prints. -/
def State.printed (s : State) (j : Job) (r : Roll) : Job :=
  { s.begun j r with cut := if j.spec.kind = .check then .pending else j.cut }

/-- The strip-end cut of a CHECK job that begins. -/
def State.stripCut (s : State) (j : Job) (r : Roll) : CutEntry := checkCut s.media.geometry j.tag (max r.fed r.boundary)

/-- What is left where a job begins, before its commit. -/
structure State.begins (s v : State) (j : Job) (r : Roll) : Prop where
  job : v.job? j.tag = some (s.printed j r)
  others : ∀ n, n ≠ j.tag → v.job? n = s.job? n
  chan : ∀ c, v.chan c = { s.chan c with reserved := (s.chan c).reserved + s.needOf j.spec c - j.ink.get c }
  roll : v.roll? r.id = some { r.taking j (s.begun j r).rollRes with
    boundary := if j.spec.kind = .check then (s.stripCut j r).point else r.boundary }
  rolls : ∀ n, n ≠ r.id → v.roll? n = s.roll? n
  plain : j.spec.kind ≠ .check → v.media = s.media ∧ v.out = s.out
  planned : j.spec.kind = .check →
    ∃ (u : State) (p : Nat), u.media = s.media ∧ u.out = s.out ∧ u.planned v (r.taking j (s.begun j r).rollRes) (s.stripCut j r) [] p
  mind : s.minds v
  hands : s.store.hands v.store 0
  frame : s.within [.jobs, .channels, .rolls, .media, .store, .out] v

section
variable {s : State} {j : Job} {r : Roll}

theorem State.beginning_begins (hs : s.tables) (hr : s.activeRoll = some r) (on : j.spec.roll = r.id)
    (h : j.spec.kind ≠ .check) : s.begins (s.beginning j r) j r := by
  have here := State.roll_of_mem hs.rolls (State.activeRoll_mem hr).1
  refine ⟨?_, fun n hn => State.beginning_job_ne hn, State.beginning_chan, ?_, fun n hn => State.beginning_roll_ne (on ▸ hn),
    fun _ => ⟨State.beginning_within .media (by decide), State.beginning_within .out (by decide)⟩, fun hc => absurd hc h,
    State.beginning_minds, ?_, State.beginning_within.mono (by decide)⟩
  · rw [State.beginning_job hs.jobs]; unfold State.printed; rw [if_neg h]; rfl
  · rw [State.beginning_roll hs.rolls here on, if_neg h]; rfl
  · exact State.setJob_hands (State.modRoll_hands (s := s.moveInk j.ink (s.begun j r).ink) s.store.hands_refl ..) _

theorem State.planning_begins (hs : s.tables) (hr : s.activeRoll = some r) (on : j.spec.roll = r.id)
    (free : s.printing? = none) (h : j.spec.kind = .check) :
    s.begins (((s.beginning j r).setJob (s.printed j r)).planCuts [s.stripCut j r]) j r := by
  let u := (s.beginning j r).setJob (s.printed j r)
  have here := State.roll_of_mem hs.rolls (State.activeRoll_mem hr).1
  have stays := (s.beginning j r).setJob_within (s.printed j r)
  have within : s.within [.jobs, .channels, .rolls, .store] u := State.beginning_within.trans (stays.mono (by decide))
  have tables : (s.beginning j r).tables := (State.beginning_leads free).tables hs
  have active := (stays.activeRoll (by decide)).trans (State.beginning_active hs hr on)
  have plan := State.planCuts_planned (es := []) (e := s.stripCut j r) (s := u)
    (by rw [stays .rolls (by decide)]; exact tables.rolls) active rfl
  refine ⟨?_, fun n hn => ?_, fun c => ?_, ?_, fun n hn => ?_, fun hc => absurd h hc,
    fun _ => ⟨u, _, within .media (by decide), within .out (by decide), plan⟩,
    (State.beginning_minds.trans (State.setJob_minds _ _)).trans plan.mind,
    plan.hands _ _ (State.setJob_hands (State.setJob_hands
      (State.modRoll_hands (s := s.moveInk j.ink (s.begun j r).ink) s.store.hands_refl ..) _) _),
    (within.mono (by decide)).trans (plan.frame.mono (by decide))⟩
  · rw [plan.frame.job (by decide)]
    exact State.job_setJob_self (x := s.printed j r) (s := s.beginning j r) tables.jobs
  · rw [plan.frame.job (by decide)]
    exact (State.job_setJob_ne (x := s.printed j r) hn).trans (State.beginning_job_ne hn)
  · rw [plan.frame.chan (by decide), stays.chan (by decide), State.beginning_chan]
  · refine plan.roll.trans ?_
    rw [if_pos h]
    rfl
  · exact (plan.rolls n hn).trans ((stays.roll (by decide) n).trans (State.beginning_roll_ne (on ▸ hn)))

/-- BEGIN JOB makes one commit point where the roll law holds with the new reservation. -/
theorem State.begin_commits (hs : s.tables) (hr : s.activeRoll = some r) (on : j.spec.roll = r.id)
    (free : s.printing? = none) (hh : s.handling.since = some s.store.called)
    (law : r.reserved + (s.begun j r).rollRes - j.rollRes ≤ r.length - r.fed) :
    ∃ v, s.begins v j r ∧ s.begin j r = v.commit [.job j.tag] := by
  have ends : ∀ v, s.begins v j r → (v.enforceRoll r.id).commitRest [.job j.tag] = v.commit [.job j.tag] := fun v b => by
    rw [State.enforceRoll_holds b.roll law]
    exact State.commitRest_first ((b.mind.since.trans hh).trans (congrArg some b.hands.called.symm))
  unfold State.begin
  dsimp only
  by_cases h : j.spec.kind = .check
  · have b := State.planning_begins hs hr on free h
    refine ⟨_, b, ?_⟩
    have plans : (s.beginning j r).planJobCuts j.tag [s.stripCut j r] =
        ((s.beginning j r).setJob (s.printed j r)).planCuts [s.stripCut j r] := by
      rw [State.planJobCuts_eq (State.beginning_job hs.jobs)]
      unfold State.printed
      rw [if_pos h]
    rw [if_pos h]
    show (((s.beginning j r).planJobCuts j.tag [s.stripCut j r]).enforceRoll r.id).commitRest _ = _
    rw [plans]
    exact ends _ b
  · have b := State.beginning_begins hs hr on h
    refine ⟨_, b, ?_⟩
    rw [if_neg h]
    exact ends _ b
end

/-- A job that begins is on the ACTIVE roll (R12). -/
theorem State.roll_of_beginRefused {s : State} {j : Job} {r : Roll} (h : s.beginRefused j = none) (hr : s.activeRoll = some r) :
    j.spec.roll = r.id := by
  by_contra ne
  have idle : s.rollActive j.spec.roll = false := by
    unfold State.rollActive
    rw [hr]
    exact beq_false_of_ne (Ne.symm ne)
  unfold State.beginRefused at h
  rw [idle] at h
  split at h <;> simp at h

theorem beginJob_begins {s : State} {tag : Nat} {j : Job} {r : Roll} (h : s.job? tag = some j) (ha : j.state = .admitted)
    (hn : s.beginRefused j = none) (hr : s.activeRoll = some r) :
    beginJob tag s = ⟨s.begin j r, .ok, .gains (Vector.ofFn fun c => (s.chan c).cfg.gain)⟩ := by
  unfold beginJob
  rw [h]
  dsimp only
  rw [if_neg (by rw [ha]; simp), hn, hr]

theorem JobKind.handlingCode_eq (k : JobKind) :
    k.handlingCode = match k with | .edition => 1 | .proof => 2 | .check => 3 := by cases k <;> rfl

/-- The record of a job that begins, in the words of O17. -/
theorem State.printed_eq (s : State) (j : Job) (r : Roll) :
    let isCheck := j.spec.kind = .check
    let pLead := max r.fed r.boundary
    let last := fit32 (pLead + s.mediaOf j.spec)
    let handling := s.capture .handling (match j.spec.kind with | .edition => 1 | .proof => 2 | .check => 3)
    s.printed j r = { j with
      state := .printing, ink := Vector.ofFn (s.needOf j.spec), rollRes := last - r.fed
      gains := some (Vector.ofFn fun c => (s.chan c).cfg.gain), handling := some handling.1
      flags := { j.flags with unpriced := j.flags.unpriced || handling.2 }
      pLead := some pLead, plannedEnd := some last, swathsLeft := j.spec.swaths, toggle := false, lastKind := none
      strip := if isCheck then .planned else j.strip
      stripLeft := if isCheck then s.check.plan.stripSwaths else j.stripLeft
      generation := if isCheck then (j.spec.edition.bind s.edition?).map Edition.generation else j.generation
      cut := if isCheck then .pending else j.cut } := by
  intro isCheck pLead last handling
  have code := j.spec.kind.handlingCode_eq
  unfold State.printed State.begun
  simp only [rollNeed_eq, code, beq_iff_eq]
  rfl

/-- What one planned cut leaves of the Media Unit and the messages, in the words of O17 (R114, R115, R117). -/
theorem State.planned.cutter {s u v t : State} {r : Roll} {e : CutEntry} {p : Nat} (h : u.planned v r e [] p)
    (media : u.media = s.media) (out : u.out = s.out) (hm : t.media = v.media) (ho : t.out = v.out) :
    let cuts : Prop := s.media.queue = [] ∧ s.media.cutter = .idle ∧ e.target ≤ r.fed
    t.media.queue = s.media.queue ++ [e] ∧
      (cuts → t.media.cutter = .cutting ∧ t.media.timer = some s.media.geometry.cutTimeout) ∧
      (¬ cuts → t.media.cutter = s.media.cutter ∧ t.media.timer = s.media.timer) ∧
      t.out = s.out ++ ((if s.media.queue = [] then [.stopAt (some e.target)] else []) ++
        (if cuts then [.cut e.kind e.target] else [])) ∧
      t.media = { s.media with queue := t.media.queue, cutter := t.media.cutter, timer := t.media.timer } := by
  intro cuts
  obtain ⟨queue, kept, fires, waits, behind, -⟩ := h
  rw [← hm, ← ho, media, out] at *
  refine ⟨queue, fun h => ?_, fun h => ?_, ?_, kept⟩
  · exact ⟨(fires h.1 h.2.1 h.2.2).1, (fires h.1 h.2.1 h.2.2).2.1⟩
  · by_cases empty : s.media.queue = []
    · exact ⟨(waits empty fun c => h ⟨empty, c⟩).1, (waits empty fun c => h ⟨empty, c⟩).2.1⟩
    · exact ⟨(behind empty).1, (behind empty).2.1⟩
  · by_cases empty : s.media.queue = []
    · by_cases c : s.media.cutter = .idle ∧ e.target ≤ r.fed
      · rw [if_pos empty, if_pos ⟨empty, c⟩]; exact (fires empty c.1 c.2).2.2
      · rw [if_pos empty, if_neg fun h => c h.2]; exact (waits empty c).2.2
    · rw [if_neg empty, if_neg fun h => empty h.1, (behind empty).2.2]; simp

/-- Settles O17, by the state before the one commit point, `State.begins`. -/
theorem beginJobStartsPrinting : Obligations.BeginJobStartsPrinting := by
  unfold Obligations.BeginJobStartsPrinting
  intro s seq tag j r ready sound hj ha hn hr g isCheck pLead last handling law
  obtain rfl : j.tag = tag := State.job_key hj
  have free := State.printing_none_of_beginRefused hn
  have on := State.roll_of_beginRefused hn hr
  have figure : (s.opened.begun j r).rollRes = last - r.fed := by
    show fit32 (pLead + rollNeed g j.spec) - r.fed = _
    rw [rollNeed_eq]
  have body := beginJob_begins (s := s.opened) hj ha hn hr
  obtain ⟨v, b, e⟩ := State.begin_commits (s := s.opened) (j := j) (State.opened_tables sound.tables) hr on free rfl
    (by rw [figure]; exact law)
  obtain ⟨t, ex, same, rest, answer, done, hands⟩ := exec_committed ready sound (i := .beginJob seq j.tag) rfl
    (body.trans (by rw [e])) b.mind b.hands b.frame [.jobs, .channels, .rolls, .media, .store, .port, .out]
  refine ⟨t, ex, answer, ?_, fun n hn => (same.job (by decide) n).trans (b.others n hn), done _ (by simp), hands, fun c => ?_,
    fun n hn => (same.roll (by decide) n).trans (b.rolls n hn), ?_, fun h => ?_, fun h => ?_, State.frame rest⟩
  · rw [same.job (by decide), b.job]
    exact congrArg some (s.printed_eq j r)
  · rw [same.chan (by decide)]; exact b.chan c
  · rw [same.roll (by decide), b.roll, figure]
    rfl
  · exact ⟨(same .media (by decide)).trans (b.plain h).1, (same .out (by decide)).trans (b.plain h).2⟩
  · obtain ⟨u, p, media, out, plan⟩ := b.planned h
    exact plan.cutter (s := s.opened) media out (same .media (by decide)) (same .out (by decide))

end Sys2Proof.Machine
end

-- ==== Sys2Proof/Proofs/cut ====
section
/-!
O40: CUT_DONE and CLEAR JAM SKIP end the cut at the head (R118, R119, R122).
-/

namespace Sys2Proof.Machine

/-! ### An unread strip missed (R141) -/

/-- A job whose strip, where it is unread, was missed. -/
def Job.givenUp (j : Job) : Job := if j.stripUnread then j.unread else j

/-- The notice of a missed strip, where the strip is unread. -/
def Job.missNotice (j : Job) (n : Nat) (why : MissedReason) : List (Nat × Subject × Detail) :=
  if j.stripUnread then [(n, .num j.tag, .checkMissed why)] else []

theorem Job.stripUnread_iff {j : Job} : j.stripUnread = true ↔ j.strip = .planned ∨ j.strip = .printed := by
  unfold Job.stripUnread; simp

/-- What is left where an unread strip was missed. -/
structure State.letPass (s t : State) (j : Job) (why : MissedReason) : Prop where
  job : t.job? j.tag = some j.givenUp
  others : ∀ n, n ≠ j.tag → t.job? n = s.job? n
  tables : t.tables
  mind : s.minds t
  heard : ∀ (b : State) l, b.heard s l → b.heard t (l ++ j.missNotice s.store.called why)
  hands : ∀ a n, Store.hands a s.store n → a.hands t.store n
  saved : ∀ k, s.saved k → k ≠ .job j.tag → t.saved k
  frame : s.within [.jobs, .check, .notices, .store] t

section
variable {s : State} {j : Job} {why : MissedReason}

theorem State.missUnread_letPass (hs : s.tables) (hj : s.job? j.tag = some j) : s.letPass (s.missUnread j.tag why) j why := by
  by_cases h : j.stripUnread
  · have eq : s.missUnread j.tag why =
        if s.check.arm.map Arm.tag = some j.tag then (s.missed j why).disarm else s.missed j why := by
      unfold State.missUnread
      rw [hj]
      dsimp only
      rw [if_pos h, State.missCheck_eq hj]
    have same : (s.missUnread j.tag why).jobs = (s.missed j why).jobs ∧ (s.missUnread j.tag why).store = (s.missed j why).store ∧
        (s.missUnread j.tag why).notices = (s.missed j why).notices := by
      rw [eq]; split <;> exact ⟨rfl, rfl, rfl⟩
    obtain ⟨jobs, store, notices⟩ := same
    have mind := State.missed_minds (s := s) (j := j) (why := why)
    have onward : (s.missed j why).minds (s.missUnread j.tag why) := by
      rw [eq]; exact minds_ite (State.disarm_minds _) (State.minds_refl _)
    refine ⟨?_, fun n hn => ?_, (s.missUnread_keeps _ _).tables hs, s.missUnread_minds _ _, fun b l hb => ?_, fun a n hn => ?_,
      fun k hk ne => ?_, s.missUnread_within _ _⟩
    · unfold State.job? Job.givenUp
      rw [jobs, if_pos h]; exact State.missed_job (why := why) hs.jobs
    · unfold State.job?
      rw [jobs]; exact State.missed_job_ne (why := why) hn
    · unfold Job.missNotice
      rw [if_pos h]
      exact (State.missed_heard hb hs.store).minds onward (mind.sound hs.store) notices
    · rw [store]; exact State.setJob_hands hn _
    · unfold State.saved
      rw [store]; exact State.noting_saved (t := { s with jobs := _ }) hk ne
  · have eq : s.missUnread j.tag why = s := by
      unfold State.missUnread
      rw [hj]
      exact if_neg h
    have stays : j.givenUp = j := if_neg h
    rw [eq]
    refine ⟨by rw [stays]; exact hj, fun _ _ => rfl, hs, s.minds_refl, fun b l hb => ?_, fun _ _ h => h, fun _ h _ => h,
      s.within_refl _⟩
    unfold Job.missNotice
    rw [if_neg h, List.append_nil]
    exact hb
end

/-! ### What follows on a job's record (R15, R21) -/

/-- What the settlement test, or the end of the printing and the settlement test, leaves of the job `x`: its record `y`, the
notices `told` and `n` commit points. -/
structure State.followed (s t : State) (x y : Job) (told : List (Nat × Subject × Detail)) (n : Nat) : Prop where
  job : t.job? x.tag = some y
  record : y = { x with state := y.state, ink := y.ink, rollRes := y.rollRes, cost := y.cost, number := y.number
                        flags := { x.flags with uncertain := y.flags.uncertain, unpriced := y.flags.unpriced } }
  others : ∀ i, i ≠ x.tag → t.job? i = s.job? i
  roll : ∀ i z, s.roll? i = some z → ∃ z', t.roll? i = some z' ∧ z' = { z with reserved := z'.reserved }
  chan : ∀ c, t.chan c = { s.chan c with reserved := (t.chan c).reserved }
  tables : t.tables
  mind : s.minds t
  keep : s.handles → ∀ k, s.done k → t.done k
  heard : ∀ (b : State) l, b.heard s l → b.heard t (l ++ told)
  hands : s.store.hands t.store n
  frame : s.within [.jobs, .channels, .rolls, .editions, .overhead, .merged, .notices, .store] t
  handling : t.handling = s.handling

section
variable {s t : State} {j x : Job}

theorem State.followed_refl (hs : s.tables) (hj : s.job? j.tag = some j) : s.followed s j j [] 0 := by
  refine ⟨hj, rfl, fun _ _ => rfl, fun i z hz => ⟨z, hz, rfl⟩, fun c => rfl, hs, s.minds_refl, fun _ _ h => h, fun b l h => ?_,
    s.store.hands_refl, s.within_refl _, rfl⟩
  rw [List.append_nil]
  exact h

theorem State.settledAs.followed (h : s.settledAs t j x) (ht : t.tables) :
    s.followed t j x [(s.store.called + 1, .num j.tag, .jobState x.state x.cause x.flags)] 1 :=
  ⟨h.job, by rw [h.record], h.others, fun i z hz => ⟨z, (h.frame.roll (by decide) i).trans hz, rfl⟩,
    fun c => by rw [h.frame.chan (by decide)], ht, h.mind, h.keep, h.heard, h.hands, h.frame.still h.handling _, h.handling⟩

theorem State.finishedAs.followed (h : s.finishedAs t j) :
    s.followed t j j.finished [(s.store.called + 1, .num j.tag, .jobState .finishing j.cause j.flags)] 1 := by
  refine ⟨h.job, rfl, h.others, fun i z hz => ?_, fun c => ?_, h.tables, h.mind, h.keep, h.heard, h.hands,
    h.frame.mono (by decide), h.handling⟩
  · by_cases e : i = j.spec.roll
    · subst e; exact ⟨_, h.roll z hz, rfl⟩
    · exact ⟨z, (h.rolls i e).trans hz, rfl⟩
  · rw [h.chan c]

theorem State.followed.trans {u : State} {y z : Job} {a b : List (Nat × Subject × Detail)} {m n : Nat}
    (h : s.followed t x y a m) (k : t.followed u y z b n) : s.followed u x z (a ++ b) (m + n) := by
  have tag : y.tag = x.tag := by rw [h.record]
  refine ⟨by rw [← tag]; exact k.job, ?_, fun i hi => (k.others i (tag ▸ hi)).trans (h.others i hi), fun i w hw => ?_, fun c => ?_,
    k.tables, h.mind.trans k.mind, fun hh r hr => k.keep (h.mind.handles hh) r (h.keep hh r hr), fun q l hq => ?_,
    Store.hands.trans h.hands k.hands, h.frame.trans k.frame, k.handling.trans h.handling⟩
  · have hy := h.record
    rw [k.record, hy]
  · obtain ⟨w', e1, e2⟩ := h.roll i w hw
    obtain ⟨w'', e3, e4⟩ := k.roll i w' e1
    exact ⟨w'', e3, by rw [e4, e2]⟩
  · rw [k.chan c, h.chan c]
  · rw [← List.append_assoc]; exact k.heard q _ (h.heard q l hq)
end

/-! ### The piece behind a cut (R119) -/

/-- The owner's record with the piece behind the cut of an entry. -/
def Job.cutBy (j : Job) (e : CutEntry) (piece : Nat) (skipped ahead : Bool) : Job :=
  match e.kind with
  | .leadTrim => j
  | .separate =>
    { j with
      printPiece := piece, separated := true, cut := if ahead then j.cut else if skipped then .uncut else .done
      flags := { j.flags with uncut := j.flags.uncut || skipped } }
  | .stripEnd =>
    Job.givenUp { j with
      stripPiece := piece, cut := if skipped then .uncut else .done
      flags := { j.flags with uncut := j.flags.uncut || skipped } }

/-- Why the unread strip behind a cut is missed. -/
def missedAt (skipped : Bool) : MissedReason := if skipped then .skipped else .cut

/-- The notice of a cut's unread strip. -/
def Job.cutNotice (j : Job) (e : CutEntry) (n : Nat) (skipped : Bool) : List (Nat × Subject × Detail) :=
  if e.kind = .stripEnd then j.missNotice n (missedAt skipped) else []

theorem Job.cutNotice_printed {j : Job} {e : CutEntry} {n : Nat} {skipped : Bool} (h : e.kind ≠ .stripEnd) :
    j.cutNotice e n skipped = [] := if_neg h

/-- What is left where the piece behind a cut was attributed. -/
structure State.pieced (s t : State) (e : CutEntry) (r : Roll) (piece : Nat) (skipped : Bool) : Prop where
  job : ∀ j, e.owner = some j.tag → s.job? j.tag = some j →
    t.job? j.tag = some (j.cutBy e piece skipped (s.media.stripAhead j.tag))
  others : ∀ n, e.owner ≠ some n → t.job? n = s.job? n
  lost : (∀ n, e.owner = some n → s.job? n = none) → t.jobs = s.jobs
  jobs : e.kind = .leadTrim → t.jobs = s.jobs
  overhead : e.kind = .leadTrim → t.overhead = { s.overhead with
    trims := min (s.overhead.trims + if r.unpriced then 0 else piece * r.width * r.price) Config.max64 }
  tables : t.tables
  mind : s.minds t
  heard : ∀ j, e.owner = some j.tag → s.job? j.tag = some j →
    ∀ (b : State) l, b.heard s l → b.heard t (l ++ j.cutNotice e s.store.called skipped)
  quiet : (∀ n, e.owner = some n → s.job? n = none) → t.notices = s.notices
  hands : ∀ a n, Store.hands a s.store n → a.hands t.store n
  frame : s.within [.jobs, .overhead, .check, .notices, .store] t

section
variable {s : State} {e : CutEntry} {r : Roll} {piece : Nat} {skipped : Bool}

theorem State.owner_job {j k : Job} (ho : e.owner = some j.tag) (hj : s.job? j.tag = some j) (hk : e.owner = some k.tag)
    (hk' : s.job? k.tag = some k) : j = k := by
  rw [← Option.some.inj (ho.symm.trans hk), hj] at hk'
  exact Option.some.inj hk'

theorem State.takePiece_leadTrim (hs : s.tables) (h : e.kind = .leadTrim) :
    s.pieced (s.takePiece e r piece skipped) e r piece skipped := by
  have eq : s.takePiece e r piece skipped = s.setOverhead { s.overhead with
      trims := satAdd Config.max64 s.overhead.trims (if r.unpriced then 0 else piece * r.width * r.price) } := by
    unfold State.takePiece
    rw [h]
  have frame := s.setOverhead_within { s.overhead with
      trims := satAdd Config.max64 s.overhead.trims (if r.unpriced then 0 else piece * r.width * r.price) }
  rw [eq]
  refine ⟨fun j _ hj => ?_, fun n _ => frame.job (by decide) n, fun _ => frame .jobs (by decide), fun _ => frame .jobs (by decide),
    fun _ => by rw [State.setOverhead_overhead]; rfl, (s.setOverhead_keeps _).tables hs, s.setOverhead_minds _,
    fun j _ _ b l hb => ?_, fun _ => frame .notices (by decide), fun a n hn => State.setCounters_hands hn _ _ _,
    frame.mono (by decide)⟩
  · rw [frame.job (by decide), hj]; unfold Job.cutBy; rw [h]
  · rw [Job.cutNotice_printed (by rw [h]; simp), List.append_nil]
    exact hb.minds (s.setOverhead_minds _) hs.store (frame .notices (by decide))

/-- No record is the owner's: no piece is kept. -/
theorem State.takePiece_lost (hs : s.tables) (h : e.kind ≠ .leadTrim) (none : ∀ n, e.owner = some n → s.job? n = none) :
    s.pieced (s.takePiece e r piece skipped) e r piece skipped := by
  have eq : s.takePiece e r piece skipped = s := by
    unfold State.takePiece
    cases hk : e.kind with
    | leadTrim => exact absurd hk h
    | separate =>
      cases ho : e.owner with
      | none => rfl
      | some n => dsimp only; unfold State.modJob; rw [none n ho]
    | stripEnd =>
      cases ho : e.owner with
      | none => rfl
      | some n => dsimp only; unfold State.modJob State.missUnread; rw [none n ho]; dsimp only; rw [none n ho]
  rw [eq]
  exact ⟨fun j ho hj => absurd (none _ ho) (by rw [hj]; simp), fun _ _ => rfl, fun _ => rfl, fun _ => rfl, fun hk => absurd hk h, hs,
    s.minds_refl, fun j ho hj => absurd (none _ ho) (by rw [hj]; simp), fun _ => rfl, fun _ _ h => h, s.within_refl _⟩

theorem State.takePiece_separate (hs : s.tables) (h : e.kind = .separate) {j : Job} (ho : e.owner = some j.tag)
    (hj : s.job? j.tag = some j) : s.pieced (s.takePiece e r piece skipped) e r piece skipped := by
  let x := j.cutBy e piece skipped (s.media.stripAhead j.tag)
  have record : x = { j with
      printPiece := piece, separated := true, cut := if s.media.stripAhead j.tag then j.cut else if skipped then .uncut else .done
      flags := { j.flags with uncut := j.flags.uncut || skipped } } := by
    show j.cutBy _ _ _ _ = _
    unfold Job.cutBy; rw [h]
  have eq : s.takePiece e r piece skipped = s.setJob x := by
    unfold State.takePiece
    rw [h, ho, record]
    dsimp only
    unfold State.modJob
    rw [hj]
  have tag : x.tag = j.tag := by rw [record]
  have state : x.state = j.state := by rw [record]
  have frame := s.setJob_within x
  rw [eq]
  refine ⟨fun k hk hk' => ?_, fun n hn => State.job_setJob_ne fun he => hn (by rw [he, tag]; exact ho), fun hn => ?_,
    fun hk => absurd (h.symm.trans hk) (by simp), fun hk => absurd (h.symm.trans hk) (by simp),
    (State.setJob_keeps_of_mem (j := x) j (State.job_mem hj) tag.symm (by rw [state]; exact id)).tables hs, s.setJob_minds x,
    fun k _ _ b l hb => ?_, fun _ => frame .notices (by decide), fun a n hn => State.setJob_hands hn x, frame.mono (by decide)⟩
  · obtain rfl := State.owner_job ho hj hk hk'
    have here := State.job_setJob_self (x := x) hs.jobs
    rwa [tag] at here
  · exact absurd (hn _ ho) (by rw [hj]; simp)
  · rw [Job.cutNotice_printed (by rw [h]; simp), List.append_nil]
    exact hb.minds (s.setJob_minds x) hs.store (frame .notices (by decide))

/-- The owner's record with the strip piece, before a missed check. -/
def Job.stripEnded (j : Job) (piece : Nat) (skipped : Bool) : Job :=
  { j with stripPiece := piece, cut := if skipped then .uncut else .done
           flags := { j.flags with uncut := j.flags.uncut || skipped } }

theorem State.takePiece_stripEnd (hs : s.tables) (h : e.kind = .stripEnd) {j : Job} (ho : e.owner = some j.tag)
    (hj : s.job? j.tag = some j) : s.pieced (s.takePiece e r piece skipped) e r piece skipped := by
  let x := j.stripEnded piece skipped
  have eq : s.takePiece e r piece skipped = (s.setJob x).missUnread x.tag (missedAt skipped) := by
    unfold State.takePiece
    rw [h, ho]
    dsimp only
    unfold State.modJob
    rw [hj]
    rfl
  have frame := s.setJob_within x
  have mind := s.setJob_minds x
  have tables := (State.setJob_keeps_of_mem (j := x) j (State.job_mem hj)).tables hs
  have pass := State.missUnread_letPass (why := missedAt skipped) tables (State.job_setJob_self (x := x) hs.jobs)
  rw [eq]
  refine ⟨fun k hk hk' => ?_, fun n hn => ?_, fun hn => ?_, fun hk => absurd (h.symm.trans hk) (by simp),
    fun hk => absurd (h.symm.trans hk) (by simp), pass.tables, mind.trans pass.mind, fun k hk hk' b l hb => ?_, fun hn => ?_,
    fun a n hn => pass.hands a n (State.setJob_hands hn x), (frame.mono (by decide)).trans (pass.frame.mono (by decide))⟩
  · obtain rfl := State.owner_job ho hj hk hk'
    refine pass.job.trans ?_
    unfold Job.cutBy
    rw [h]
    rfl
  · have ne : n ≠ j.tag := fun he => hn (he ▸ ho)
    exact (pass.others n ne).trans (State.job_setJob_ne (x := x) ne)
  · exact absurd (hn _ ho) (by rw [hj]; simp)
  · obtain rfl := State.owner_job ho hj hk hk'
    have now := pass.heard b l (hb.minds mind hs.store (frame .notices (by decide)))
    rw [State.setJob_called] at now
    rwa [show j.cutNotice e s.store.called skipped = _ from if_pos h]
  · exact absurd (hn _ ho) (by rw [hj]; simp)

theorem State.takePiece_pieced (hs : s.tables) : s.pieced (s.takePiece e r piece skipped) e r piece skipped := by
  by_cases none : ∀ n, e.owner = some n → s.job? n = none
  · by_cases h : e.kind = .leadTrim
    · exact State.takePiece_leadTrim hs h
    · exact State.takePiece_lost hs h none
  · simp only [not_forall] at none
    obtain ⟨n, ho, hn⟩ := none
    obtain ⟨j, hj⟩ := Option.ne_none_iff_exists'.mp hn
    obtain rfl : j.tag = n := State.job_key hj
    cases h : e.kind with
    | leadTrim => exact State.takePiece_leadTrim hs h
    | separate => exact State.takePiece_separate hs h ho hj
    | stripEnd => exact State.takePiece_stripEnd hs h ho hj
end

/-! ### The end of a cut up to its commit point (R118, R122) -/

/-- A later STRIP_END cut of the job is among the entries. -/
def stripAmong (rest : List CutEntry) (tag : Nat) : Bool := rest.any fun e => e.kind == .stripEnd && e.owner == some tag

theorem stripAmong_iff {rest : List CutEntry} {tag : Nat} :
    stripAmong rest tag = true ↔ ∃ x ∈ rest, x.kind = .stripEnd ∧ x.owner = some tag := by
  unfold stripAmong; simp

/-- The ACTIVE roll behind the cut of an entry. -/
def Roll.cutAt (r : Roll) (e : CutEntry) : Roll := { r with lastCut := e.point, lastTarget := e.target }

/-- What is left where the cut of the head entry has ended, with its commit point. -/
structure State.cutEnded (s u : State) (e : CutEntry) (rest : List CutEntry) (r : Roll) (piece : Nat) (skipped : Bool) :
    Prop where
  queue : u.media.queue = rest
  out : ∃ l, u.out = s.out ++ .stopAt (rest.head?.map CutEntry.target) :: l
  cuts : ∀ n, rest.head? = some n → n.target ≤ r.fed → u.media.cutter = .cutting
  idle : (∀ n, rest.head? = some n → r.fed < n.target) → u.media.cutter = .idle ∧ u.media.timer = none
  roll : u.roll? r.id = some (r.cutAt e)
  rolls : ∀ n, n ≠ r.id → u.roll? n = s.roll? n
  job : ∀ j, e.owner = some j.tag → s.job? j.tag = some j →
    u.job? j.tag = some (j.cutBy e piece skipped (stripAmong rest j.tag))
  others : ∀ n, e.owner ≠ some n → u.job? n = s.job? n
  lost : (∀ n, e.owner = some n → s.job? n = none) → u.jobs = s.jobs
  jobs : e.kind = .leadTrim → u.jobs = s.jobs
  overhead : e.kind = .leadTrim → u.overhead = { s.overhead with
    trims := min (s.overhead.trims + if r.unpriced then 0 else piece * r.width * r.price) Config.max64 }
  tables : u.tables
  mind : s.minds u
  done : s.handles → ∀ k ∈ cutKeys r e, u.done k
  heard : ∀ j, e.owner = some j.tag → s.job? j.tag = some j →
    ∀ (b : State) l, b.heard s l → b.heard u (l ++ j.cutNotice e s.store.called skipped)
  quiet : (∀ n, e.owner = some n → s.job? n = none) → ∀ (b : State) l, b.heard s l → b.heard u l
  hands : s.store.hands u.store 1
  frame : s.within [.rolls, .jobs, .media, .check, .overhead, .notices, .store, .out] u
  handling : u.handling = s.handling

/-- The head entry leaves the queue and the roll is cut. -/
def State.taken (s : State) (e : CutEntry) (rest : List CutEntry) (r : Roll) : State :=
  (s.setMedia fun m => { m with queue := rest, timer := none }).setRoll (r.cutAt e)

/-- The cutter is free for the next entry. -/
def State.freeCutter (s : State) : State := (s.setMedia fun m => { m with cutter := .idle }).sendStop

theorem State.endCut_eq {s : State} {e : CutEntry} {rest : List CutEntry} {r : Roll} (hq : s.media.queue = e :: rest)
    (hr : s.activeRoll = some r) (skipped : Bool) :
    s.endCut skipped = (((((s.taken e rest r).takePiece e r (pieceLength e.point r.lastCut) skipped).freeCutter).startCut).commit
      (cutKeys r e)).afterCut e := State.endCut_takes s hq hr skipped

section
variable {s : State} {e : CutEntry} {rest : List CutEntry} {r : Roll} {piece : Nat} {skipped : Bool}

theorem State.taken_within : s.within [.media, .rolls, .store] (s.taken e rest r) :=
  (s.setMedia_within _).next _ (State.setRoll_within _ _)

theorem State.taken_minds : s.minds (s.taken e rest r) := (s.setMedia_minds _).trans (State.setRoll_minds _ _)

theorem State.freeCutter_within : s.within [.media, .out] s.freeCutter := (s.setMedia_within _).next _ (State.send_within _ _)

theorem State.cut_cutEnded (hs : s.tables) (hr : s.activeRoll = some r) (hg : s.handling.gathered = none) :
    s.cutEnded (((((s.taken e rest r).takePiece e r piece skipped).freeCutter).startCut).commit (cutKeys r e)) e rest r piece
      skipped := by
  have mem := State.activeRoll_mem hr
  let a := s.taken e rest r
  let b := a.takePiece e r piece skipped
  let c := b.freeCutter
  let d := c.startCut
  have rolled : a.tables := ((s.setMedia_keeps _).trans (State.setRoll_keeps_of_mem r mem.1)).tables hs
  have p : a.pieced b e r piece skipped := State.takePiece_pieced rolled
  have mediaA : a.media = { s.media with queue := rest, timer := none } := (State.setRoll_within _ _) .media (by decide)
  have mediaB : b.media = { s.media with queue := rest, timer := none } := (p.frame .media (by decide)).trans mediaA
  have mediaC : c.media = { s.media with queue := rest, timer := none, cutter := .idle } := by
    show ({ b.media with cutter := .idle } : Media) = _
    rw [mediaB]
  have outC : c.out = s.out ++ [.stopAt (rest.head?.map CutEntry.target)] := by
    show b.out ++ [.stopAt (b.media.queue.head?.map CutEntry.target)] = _
    rw [mediaB, show b.out = a.out from p.frame .out (by decide), show a.out = s.out from State.taken_within .out (by decide)]
  have active : c.activeRoll = some (r.cutAt e) :=
    (State.freeCutter_within.activeRoll (by decide)).trans ((p.frame.activeRoll (by decide)).trans
      (State.activeRoll_setRoll (s := s.setMedia _) hs.rolls hr rfl rfl))
  obtain ⟨fires, waits, startFrame⟩ := State.startCut_leaves active
  rw [mediaC] at fires waits
  have frameB : a.within [.jobs, .overhead, .check, .notices, .store, .media, .out] d :=
    (p.frame.mono (by decide)).trans ((State.freeCutter_within.trans startFrame).mono (by decide))
  have frame : s.within [.rolls, .jobs, .media, .check, .overhead, .notices, .store, .out] d :=
    (State.taken_within.mono (by decide)).trans (frameB.mono (by decide))
  have store : d.store = b.store := (State.freeCutter_within.trans startFrame) .store (by decide)
  have mindC : b.minds d := (((b.setMedia_minds _).trans (State.sendStop_minds _)).trans (State.startCut_minds _))
  have mindB : s.minds b := State.taken_minds.trans p.mind
  have mind : s.minds d := mindB.trans mindC
  have gathered : d.handling.gathered = none := (congrArg Handling.gathered (frame .handling (by decide))).trans hg
  have stays := (d.commit_within (cutKeys r e)).still (State.commit_handling gathered _) [.store]
  have jobs : d.jobs = b.jobs := (State.freeCutter_within.trans startFrame) .jobs (by decide)
  have job : ∀ n, (d.commit (cutKeys r e)).job? n = b.job? n := fun n =>
    (stays.job (by decide) n).trans ((State.freeCutter_within.trans startFrame).job (by decide) n)
  have jobA : ∀ n, a.job? n = s.job? n := State.taken_within.job (by decide)
  have roll : ∀ n, (d.commit (cutKeys r e)).roll? n = a.roll? n := fun n =>
    (stays.roll (by decide) n).trans (frameB.roll (by decide) n)
  have media : (d.commit (cutKeys r e)).media = d.media := stays .media (by decide)
  have quiet : ∀ (q : State) l, q.heard b l → q.heard (d.commit (cutKeys r e)) l := fun q l hq =>
    (hq.minds mindC (mindB.sound hs.store) ((State.freeCutter_within.trans startFrame) .notices (by decide))).minds
      (State.commit_minds _ _) (mind.sound hs.store) (stays .notices (by decide))
  have begin : ∀ (q : State) l, q.heard s l → q.heard a l := fun q l hq =>
    hq.minds State.taken_minds hs.store (State.taken_within .notices (by decide))
  have calledA : a.store.called = s.store.called :=
    (State.setRoll_hands (s := s.setMedia fun m => { m with queue := rest, timer := none }) s.store.hands_refl (r.cutAt e)).called
  have ahead : ∀ n, a.media.stripAhead n = stripAmong rest n := fun n => by rw [mediaA]; rfl
  have started : d.media.queue = rest ∧ ∃ l, d.out = c.out ++ l := by
    by_cases fire : ∃ n, rest.head? = some n ∧ n.target ≤ r.fed
    · obtain ⟨n, hn, le⟩ := fire
      obtain ⟨m, o⟩ := fires n hn rfl le
      exact ⟨congrArg Media.queue m, _, o⟩
    · obtain ⟨m, o⟩ := waits fun n hn _ le => fire ⟨n, hn, le⟩
      exact ⟨congrArg Media.queue m, [], by rw [o, List.append_nil]⟩
  obtain ⟨queue, l, out⟩ := started
  refine ⟨by rw [media]; exact queue, ⟨l, ?_⟩, fun n hn le => ?_, fun h => ?_, ?_, fun n hn => ?_, fun j ho hj => ?_,
    fun n hn => ?_, fun h => ?_, fun h => ?_, fun h => ?_, ?_, mind.trans (State.commit_minds _ _), fun hh k hk => ?_,
    fun j ho hj q l hq => ?_, fun h q l hq => ?_, ?_, frame.trans (stays.mono (by decide)), ?_⟩
  · rw [stays .out (by decide), out, outC, List.append_assoc]; rfl
  · rw [media, (fires n hn rfl le).1]
  · rw [media, (waits fun n hn _ le => absurd (h n hn) (by exact Nat.not_lt.mpr le)).1]; exact ⟨rfl, rfl⟩
  · rw [roll]; exact State.roll_setRoll_self (x := r.cutAt e) (s := s.setMedia _) hs.rolls
  · rw [roll]; exact State.roll_setRoll_ne (x := r.cutAt e) (s := s.setMedia _) hn
  · rw [job, p.job j ho ((jobA _).trans hj), ahead]
  · rw [job, p.others n hn, jobA]
  · rw [stays .jobs (by decide), jobs, p.lost fun n hn => (jobA n).trans (h n hn)]; exact State.taken_within .jobs (by decide)
  · rw [stays .jobs (by decide), jobs, p.jobs h]; exact State.taken_within .jobs (by decide)
  · have same : a.overhead = s.overhead := State.taken_within .overhead (by decide)
    rw [stays .overhead (by decide), ← same]
    exact ((State.freeCutter_within.trans startFrame) .overhead (by decide)).trans (p.overhead h)
  · exact ((((State.setMedia_keeps _ _).trans (State.sendStop_keeps _)).trans (State.startCut_keeps _)).trans
      (State.commit_keeps _ _)).tables p.tables
  · exact State.commit_done gathered (mind.sound hs.store) (mind.handles hh) hk
  · have now := quiet _ _ (p.heard j ho ((jobA _).trans hj) q l (begin q l hq))
    rwa [calledA] at now
  · refine (((begin q l hq).minds (p.mind.trans mindC) (State.taken_minds.sound hs.store) ?_).minds
      (State.commit_minds _ _) (mind.sound hs.store) (stays .notices (by decide)))
    exact ((State.freeCutter_within.trans startFrame) .notices (by decide)).trans
      (p.quiet fun n hn => (jobA n).trans (h n hn))
  · refine State.commit_hands ?_ gathered _
    rw [store]
    exact p.hands _ _ (State.setRoll_hands (s := s.setMedia _) s.store.hands_refl _)
  · exact (State.commit_handling gathered _).trans (frame .handling (by decide))
end

/-! ### What follows the cut (R15, R21) -/

section
variable {s u : State} {e : CutEntry} {j x : Job} {piece n : Nat} {skipped ahead : Bool}

theorem Job.givenUp_strip : j.givenUp.strip = if j.strip = .planned ∨ j.strip = .printed then .resolved else j.strip := by
  unfold Job.givenUp
  by_cases h : j.stripUnread
  · rw [if_pos h, if_pos (Job.stripUnread_iff.mp h)]; rfl
  · rw [if_neg h, if_neg (mt Job.stripUnread_iff.mpr h)]

/-- A job whose strip-end cut has ended is through. -/
theorem Job.cutBy_through (h : e.kind = .stripEnd) :
    ((j.cutBy e piece skipped ahead).cut = .done ∨ (j.cutBy e piece skipped ahead).cut = .uncut) ∧
      ((j.cutBy e piece skipped ahead).strip = .resolved ∨ (j.cutBy e piece skipped ahead).strip = .none) := by
  have record : j.cutBy e piece skipped ahead = (j.stripEnded piece skipped).givenUp := by
    unfold Job.cutBy; rw [h]; rfl
  have cut : (j.stripEnded piece skipped).givenUp.cut = if skipped then .uncut else .done := by
    unfold Job.givenUp; split <;> rfl
  rw [record]
  refine ⟨by rw [cut]; cases skipped <;> simp, ?_⟩
  rw [Job.givenUp_strip, show (j.stripEnded piece skipped).strip = j.strip from rfl]
  cases j.strip <;> simp

theorem State.afterCut_lost (h : ∀ n, e.owner = some n → u.job? n = none) : u.afterCut e = u := by
  unfold State.afterCut
  cases ho : e.owner with
  | none => rfl
  | some n => dsimp only; rw [h n ho]

/-- A PRINTING job whose strip-end cut has ended is through: it finishes and settles. -/
theorem State.afterCut_finishes (hs : u.tables) (hg : u.handling.gathered = none) (ho : e.owner = some x.tag)
    (hx : u.job? x.tag = some x) (hk : e.kind = .stripEnd) (hp : x.state = .printing)
    (cut : x.cut = .done ∨ x.cut = .uncut) (strip : x.strip = .resolved ∨ x.strip = .none) :
    ∃ y, (y.state = .settled ∨ y.state = .voided) ∧ u.followed (u.afterCut e) x y
      [(u.store.called + 1, .num x.tag, .jobState .finishing x.cause x.flags),
        (u.store.called + 2, .num x.tag, .jobState y.state y.cause y.flags)] 2 := by
  have eq : u.afterCut e = u.finishAndTest x.tag := by
    unfold State.afterCut
    rw [ho]
    dsimp only
    rw [hx]
    exact if_pos ⟨hk, hp⟩
  have fin := State.finish_finishedAs hs hx hg
  obtain ⟨y, settled⟩ := (State.finishAndTest_leaves hs hx hg).2 cut strip
  rw [eq]
  have both := fin.followed.trans (settled.followed ((State.settleTest_keeps _ _).tables fin.tables))
  rw [fin.hands.called] at both
  exact ⟨y, settled.ended, both⟩

theorem State.settleTest_followed (hs : u.tables) (hg : u.handling.gathered = none) (hx : u.job? x.tag = some x) :
    (u.followed (u.settleTest x.tag) x x [] 0) ∨
      ∃ y, x.settles = true ∧ (y.state = .settled ∨ y.state = .voided) ∧ u.followed (u.settleTest x.tag) x y
        [(u.store.called + 1, .num x.tag, .jobState y.state y.cause y.flags)] 1 := by
  by_cases h : x.settles
  · refine .inr ⟨u.settledJob x, h, ?_⟩
    have tables := (u.settleTest_keeps x.tag).tables hs
    rw [State.settleTest_settles hx h] at tables ⊢
    exact ⟨(State.settle_settledAs hs hg).ended, (State.settle_settledAs hs hg).followed tables⟩
  · rw [State.settleTest_stays hx (by simpa using h)]
    exact .inl (State.followed_refl hs hx)

theorem State.afterCut_tests (ho : e.owner = some x.tag) (hx : u.job? x.tag = some x)
    (h : ¬ (e.kind = .stripEnd ∧ x.state = .printing)) : u.afterCut e = u.settleTest x.tag := by
  unfold State.afterCut
  rw [ho]
  dsimp only
  rw [hx]
  exact if_neg h
end

end Sys2Proof.Machine
end

-- ==== Sys2Proof/Proofs/cutdone ====
section
/-!
O40, from what the end of a cut leaves in its handling.
-/

namespace Sys2Proof.Machine

/-! ### A handling ended, of a message or of a request -/

/-- The state `t` is what the handling begun at `s` leaves with its state `w`. -/
structure State.handedOn (s w t : State) (l : List Field) : Prop where
  rest : w.within [.media, .handling, .port] t
  media : t.media = { w.media with waiting := t.media.waiting }
  commits : ∀ k, w.done k → s.commits t k
  noticed : ∀ m l, s.opened.heard w m → m = l.map (fun n => (s.store.called + n.1, n.2)) → s.noticed t l
  frame : s.quiet.within l t

section
variable {s w : State} {l : List Field}

theorem State.linked_handedOn (hs : s.sound) (mind : s.opened.minds w) (frame : s.opened.within l w) (m : List Field)
    (hm : Field.media :: l.filter (· ≠ .handling) ⊆ m := by decide) : s.handedOn w (w.linked s) m := by
  refine ⟨?_, rfl, fun k hk => mind.linked hs hk, fun _ l h e => h.linked l mind e, State.linked_within frame m hm⟩
  intro f hf
  cases f <;> first | rfl | simp at hf

theorem State.closed_handedOn (hs : s.sound) (mind : s.opened.minds w) (frame : s.opened.within l w) (p : Port)
    (m : List Field) (hm : Field.port :: l.filter (· ≠ .handling) ⊆ m := by decide) : s.handedOn w (w.closed s p) m := by
  refine ⟨?_, rfl, fun k hk => mind.commits hs hk p, fun _ l h e => h.requested l mind p e, State.closed_within frame p m hm⟩
  intro f hf
  cases f <;> first | rfl | simp at hf
end

/-! ### The owner's record -/

section
variable {j : Job} {e : CutEntry} {piece : Nat} {skipped ahead : Bool}

theorem Job.givenUp_eq (j : Job) : j.givenUp = { j with
    strip := if j.stripUnread then .resolved else j.strip
    flags := { j.flags with unchecked := j.flags.unchecked || j.stripUnread } } := by
  unfold Job.givenUp
  cases h : j.stripUnread
  · simp
  · simp [Job.unread]

theorem Job.cutBy_leadTrim (h : e.kind = .leadTrim) : j.cutBy e piece skipped ahead = j := by unfold Job.cutBy; rw [h]

theorem Job.cutBy_separate (h : e.kind = .separate) : j.cutBy e piece skipped ahead = { j with
    printPiece := piece, separated := true, cut := if ahead then j.cut else if skipped then .uncut else .done
    flags := { j.flags with uncut := j.flags.uncut || skipped } } := by unfold Job.cutBy; rw [h]

theorem Job.cutBy_stripEnd (h : e.kind = .stripEnd) : j.cutBy e piece skipped ahead = { j with
    stripPiece := piece, cut := if skipped then .uncut else .done
    strip := if j.stripUnread then .resolved else j.strip
    flags := { j.flags with uncut := j.flags.uncut || skipped, unchecked := j.flags.unchecked || j.stripUnread } } := by
  unfold Job.cutBy
  rw [h]
  exact Job.givenUp_eq _

/-- What the cut of an entry leaves of the owner's record. -/
theorem Job.cutBy_frame : (j.cutBy e piece skipped ahead).tag = j.tag ∧ (j.cutBy e piece skipped ahead).spec = j.spec ∧
    (j.cutBy e piece skipped ahead).draws = j.draws ∧ (j.cutBy e piece skipped ahead).state = j.state ∧
    (j.cutBy e piece skipped ahead).cause = j.cause := by
  cases h : e.kind with
  | leadTrim => rw [Job.cutBy_leadTrim h]; exact ⟨rfl, rfl, rfl, rfl, rfl⟩
  | separate => rw [Job.cutBy_separate h]; exact ⟨rfl, rfl, rfl, rfl, rfl⟩
  | stripEnd => rw [Job.cutBy_stripEnd h]; exact ⟨rfl, rfl, rfl, rfl, rfl⟩
end

section
variable {s u : State} {e : CutEntry} {rest : List CutEntry} {r : Roll} {j : Job} {piece : Nat} {skipped : Bool}

/-- What the end of a cut leaves of its owner: the strip-end cut of a PRINTING job ends its printing and settles it; else the
job is tested. -/
theorem State.cutEnded.owner (b : s.cutEnded u e rest r piece skipped) (hg : s.handling.gathered = none)
    (ho : e.owner = some j.tag) (hj : s.job? j.tag = some j) :
    let x := j.cutBy e piece skipped (stripAmong rest j.tag)
    let finishes := e.kind = .stripEnd ∧ j.state = .printing
    ∃ y told n, u.followed (u.afterCut e) x y told n ∧ (y = x ∨ y.state = .settled ∨ y.state = .voided) ∧
      (finishes → y.state ≠ .printing ∧ n = 2 ∧ told = [(s.store.called + 2, .num j.tag, .jobState .finishing x.cause x.flags),
        (s.store.called + 3, .num j.tag, .jobState y.state y.cause y.flags)]) ∧
      (¬ finishes → (y = x ∧ n = 0 ∧ told = []) ∨ (j.state = .finishing ∧ y.state ≠ .finishing ∧ n = 1 ∧
        told = [(s.store.called + 2, .num j.tag, .jobState y.state y.cause y.flags)])) := by
  intro x finishes
  obtain ⟨tag, -, -, state, -⟩ := Job.cutBy_frame (j := j) (e := e) (piece := piece) (skipped := skipped)
    (ahead := stripAmong rest j.tag)
  have ho' : e.owner = some x.tag := by rw [tag]; exact ho
  have here : u.job? x.tag = some x := by rw [tag]; exact b.job j ho hj
  have gathered : u.handling.gathered = none := (congrArg Handling.gathered b.handling).trans hg
  have called := b.hands.called
  by_cases f : finishes
  · obtain ⟨cut, strip⟩ := Job.cutBy_through (j := j) (piece := piece) (skipped := skipped)
      (ahead := stripAmong rest j.tag) f.1
    obtain ⟨y, ended, h⟩ := State.afterCut_finishes b.tables gathered ho' here f.1 (state.trans f.2) cut strip
    refine ⟨y, _, _, h, .inr ended, fun _ => ⟨?_, rfl, by rw [called, tag]⟩, fun n => absurd f n⟩
    rcases ended with h | h <;> simp [h]
  · rw [State.afterCut_tests ho' here (by rw [show x.state = j.state from state]; exact f)]
    rcases State.settleTest_followed b.tables gathered here with h | ⟨y, settles, ended, h⟩
    · exact ⟨x, _, _, h, .inl rfl, fun n => absurd n f, fun _ => .inl ⟨rfl, rfl, rfl⟩⟩
    · refine ⟨y, _, _, h, .inr ended, fun n => absurd n f, fun _ => .inr ⟨?_, ?_, rfl, by rw [called, tag]⟩⟩
      · exact state.symm.trans (Job.settles_iff.mp settles).1
      · rcases ended with h | h <;> simp [h]
end

/-- What is left where the head entry's cut has ended and its owner was followed up, in the handling in hand. -/
structure State.cutOver (s w : State) (e : CutEntry) (rest : List CutEntry) (r : Roll) (piece : Nat) (skipped : Bool) :
    Prop where
  queue : w.media.queue = rest
  out : ∃ l, w.out = s.out ++ .stopAt (rest.head?.map CutEntry.target) :: l
  cuts : ∀ n, rest.head? = some n → n.target ≤ r.fed → w.media.cutter = .cutting
  idle : (∀ n, rest.head? = some n → r.fed < n.target) → w.media.cutter = .idle ∧ w.media.timer = none
  roll : ∃ x, w.roll? r.id = some x ∧ x = { r.cutAt e with reserved := x.reserved }
  rolls : ∀ n x, n ≠ r.id → s.roll? n = some x → ∃ y, w.roll? n = some y ∧ y = { x with reserved := y.reserved }
  chan : ∀ c, w.chan c = { s.chan c with reserved := (w.chan c).reserved }
  others : ∀ n, e.owner ≠ some n → w.job? n = s.job? n
  mind : s.minds w
  done : s.handles → ∀ k ∈ cutKeys r e, w.done k
  frame : s.within cutFields w
  lost : (∀ n, e.owner = some n → s.job? n = none) → w.jobs = s.jobs ∧ s.store.hands w.store 1 ∧
    (∀ (b : State) l, b.heard s l → b.heard w l) ∧ (e.kind = .leadTrim → w.overhead = { s.overhead with
      trims := min (s.overhead.trims + if r.unpriced then 0 else piece * r.width * r.price) Config.max64 })
  owner : ∀ j, e.owner = some j.tag → s.job? j.tag = some j →
    let x := j.cutBy e piece skipped (stripAmong rest j.tag)
    let finishes := e.kind = .stripEnd ∧ j.state = .printing
    ∃ y told n, w.job? j.tag = some y ∧
      y = { x with state := y.state, ink := y.ink, rollRes := y.rollRes, cost := y.cost, number := y.number
                   flags := { x.flags with uncertain := y.flags.uncertain, unpriced := y.flags.unpriced } } ∧
      s.store.hands w.store (1 + n) ∧
      (∀ (b : State) l, b.heard s l → b.heard w (l ++ (j.cutNotice e s.store.called skipped ++ told))) ∧
      (finishes → y.state ≠ .printing ∧ n = 2 ∧ told = [(s.store.called + 2, .num j.tag, .jobState .finishing x.cause x.flags),
        (s.store.called + 3, .num j.tag, .jobState y.state y.cause y.flags)]) ∧
      (¬ finishes → (y = x ∧ n = 0 ∧ told = []) ∨ (j.state = .finishing ∧ y.state ≠ .finishing ∧ n = 1 ∧
        told = [(s.store.called + 2, .num j.tag, .jobState y.state y.cause y.flags)]))

section
variable {s u : State} {e : CutEntry} {rest : List CutEntry} {r : Roll} {piece : Nat} {skipped : Bool}

theorem State.cutEnded.over_lost (b : s.cutEnded u e rest r piece skipped) (h : ∀ n, e.owner = some n → s.job? n = none) :
    s.cutOver (u.afterCut e) e rest r piece skipped := by
  have here : ∀ n, e.owner = some n → u.job? n = none := fun n hn => by
    unfold State.job?
    rw [b.lost h]; exact h n hn
  rw [State.afterCut_lost here]
  exact ⟨b.queue, b.out, b.cuts, b.idle, ⟨_, b.roll, rfl⟩, fun n x hn hx => ⟨x, (b.rolls n hn).trans hx, rfl⟩,
    fun c => by rw [b.frame.chan (by decide)], b.others, b.mind, b.done, b.frame.mono (by decide),
    fun _ => ⟨b.lost h, b.hands, b.quiet h, b.overhead⟩, fun j ho hj => absurd (h _ ho) (by rw [hj]; simp)⟩

theorem State.cutEnded.over_owner (b : s.cutEnded u e rest r piece skipped) (hg : s.handling.gathered = none) {j : Job}
    (ho : e.owner = some j.tag) (hj : s.job? j.tag = some j) : s.cutOver (u.afterCut e) e rest r piece skipped := by
  obtain ⟨y, told, n, h, -, fin, tests⟩ := b.owner hg ho hj
  have tag := (Job.cutBy_frame (j := j) (e := e) (piece := piece) (skipped := skipped) (ahead := stripAmong rest j.tag)).1
  have media : (u.afterCut e).media = u.media := h.frame .media (by decide)
  refine ⟨by rw [media]; exact b.queue, by rw [h.frame .out (by decide)]; exact b.out, by rw [media]; exact b.cuts,
    by rw [media]; exact b.idle, h.roll _ _ b.roll, fun i x hi hx => h.roll i x ((b.rolls i hi).trans hx),
    fun c => by rw [h.chan c, b.frame.chan (by decide)], fun i hi => ?_, b.mind.trans h.mind,
    fun hh k hk => h.keep (b.mind.handles hh) k (b.done hh k hk), (b.frame.mono (by decide)).trans (h.frame.mono (by decide)),
    fun lost => absurd (lost _ ho) (by rw [hj]; simp), fun k hk hk' => ?_⟩
  · exact (h.others i fun e => hi (by rw [e, tag]; exact ho)).trans (b.others i hi)
  · obtain rfl := State.owner_job ho hj hk hk'
    refine ⟨y, told, n, by rw [← tag]; exact h.job, h.record, Store.hands.trans b.hands h.hands, fun q l hq => ?_, fin, tests⟩
    rw [← List.append_assoc]
    exact h.heard q _ (b.heard j ho hj q l hq)

/-- What the end of the head entry's cut leaves (R118, R122). -/
theorem State.endCut_over (hs : s.tables) (hg : s.handling.gathered = none) (hq : s.media.queue = e :: rest)
    (hr : s.activeRoll = some r) : s.cutOver (s.endCut skipped) e rest r (pieceLength e.point r.lastCut) skipped := by
  rw [State.endCut_eq hq hr]
  have b := State.cut_cutEnded (e := e) (rest := rest) (piece := pieceLength e.point r.lastCut) (skipped := skipped) hs hr hg
  by_cases none : ∀ n, e.owner = some n → s.job? n = none
  · exact b.over_lost none
  · simp only [not_forall] at none
    obtain ⟨n, ho, hn⟩ := none
    obtain ⟨j, hj⟩ := Option.ne_none_iff_exists'.mp hn
    obtain rfl : j.tag = n := State.job_key hj
    exact b.over_owner hg ho hj
end

/-! ### CUT_DONE and CLEAR JAM SKIP -/

section
variable {s : State} {j : Job} {e : CutEntry} {rest : List CutEntry} {r : Roll} {skipped : Bool}

theorem Job.cutNotice_eq (j : Job) (e : CutEntry) (n : Nat) (skipped : Bool) :
    let unread : Prop := e.kind = .stripEnd ∧ (j.strip = .planned ∨ j.strip = .printed)
    j.cutNotice e n skipped =
      (if unread then [(0, .num j.tag, .checkMissed (if skipped then .skipped else .cut))] else []).map
        fun m : Nat × Subject × Detail => (n + m.1, m.2) := by
  intro unread
  by_cases hu : unread
  · have told : j.cutNotice e n skipped = _ := (if_pos hu.1).trans (if_pos (Job.stripUnread_iff.mpr hu.2))
    rw [told, if_pos hu]
    rfl
  · rw [if_neg hu]
    by_cases hk : e.kind = .stripEnd
    · exact (if_pos hk).trans (if_neg fun h => hu ⟨hk, Job.stripUnread_iff.mp h⟩)
    · exact if_neg hk

/-- The owner's record, in the words of O40 (R119, R122). -/
theorem Job.cutBy_claims {y : Job} {piece : Nat} {among : Prop} [Decidable among]
    (fields : y = { j.cutBy e piece skipped (stripAmong rest j.tag) with
      state := y.state, ink := y.ink, rollRes := y.rollRes, cost := y.cost, number := y.number
      flags := { (j.cutBy e piece skipped (stripAmong rest j.tag)).flags with
        uncertain := y.flags.uncertain, unpriced := y.flags.unpriced } })
    (hk : e.kind ≠ .leadTrim) (ha : among ↔ stripAmong rest j.tag = true)
    (fin : e.kind = .stripEnd → j.state = .printing → y.state ≠ .printing) :
    y.spec = j.spec ∧ y.draws = j.draws ∧ y.flags.uncut = (j.flags.uncut || skipped) ∧
      (e.kind = .separate → y.printPiece = piece ∧ y.separated = true ∧ y.stripPiece = j.stripPiece ∧ y.strip = j.strip ∧
        y.cut = if among then j.cut else if skipped then .uncut else .done) ∧
      (e.kind = .stripEnd → y.stripPiece = piece ∧ y.cut = (if skipped then .uncut else .done) ∧
        y.printPiece = j.printPiece ∧
        (j.strip = .planned ∨ j.strip = .printed → y.strip = .resolved ∧ y.flags.unchecked = true) ∧
        ¬ (y.state = .printing ∧ j.state = .printing)) := by
  cases h : e.kind with
  | leadTrim => exact absurd h hk
  | separate =>
    rw [Job.cutBy_separate h] at fields
    refine ⟨by rw [fields], by rw [fields], by rw [fields], fun _ => ⟨by rw [fields], by rw [fields], by rw [fields],
      by rw [fields], ?_⟩, fun k => absurd k (by simp)⟩
    rw [fields]
    exact if_congr ha.symm rfl rfl
  | stripEnd =>
    rw [Job.cutBy_stripEnd h] at fields
    refine ⟨by rw [fields], by rw [fields], by rw [fields], fun k => absurd k (by simp), fun _ => ⟨by rw [fields],
      by rw [fields], by rw [fields], fun unread => ?_, fun both => fin h both.2 both.1⟩⟩
    have hu := Job.stripUnread_iff.mpr unread
    rw [fields]
    simp [hu]

/-- The flags with which the job finishes at its strip-end cut. -/
theorem Job.cutBy_flags {piece : Nat} {ahead : Bool} (h : e.kind = .stripEnd) {unread : Prop} [Decidable unread]
    (hu : unread ↔ e.kind = .stripEnd ∧ (j.strip = .planned ∨ j.strip = .printed)) :
    (j.cutBy e piece skipped ahead).flags =
      { j.flags with uncut := j.flags.uncut || skipped, unchecked := j.flags.unchecked || Decidable.decide unread } := by
  have same : Decidable.decide unread = j.stripUnread := by
    rw [Bool.eq_iff_iff, decide_eq_true_eq, hu, Job.stripUnread_iff]
    exact and_iff_right h
  rw [Job.cutBy_stripEnd h, same]

theorem pieceLength_ahead {point lastCut : Nat} (h : lastCut ≤ point) : pieceLength point lastCut = point - lastCut := if_pos h

theorem State.takeCutDone_cutting (h : s.media.cutter = .cutting) : s.takeCutDone = s.endCut false := if_pos h

theorem State.takeCutDone_idle (h : s.media.cutter ≠ .cutting) : s.takeCutDone = s := if_neg h

theorem clearJamSkip_jammed (h : s.media.cutter = .jammed) :
    clearJamSkip s = ⟨s.endCut true, .ok, .cutter (s.endCut true).media.cutter⟩ := by
  unfold clearJamSkip
  exact if_neg (by rw [h]; simp)

theorem clearJamSkip_wrongState (h : s.media.cutter ≠ .jammed) : clearJamSkip s = ⟨s, .wrongState, .empty⟩ := if_pos h
end

/-- Settles O40: `State.endCut_over` has what the end of the head entry's cut leaves. -/
theorem cutDoneAndSkipEndTheCut : Obligations.CutDoneAndSkipEndTheCut := by
  unfold Obligations.CutDoneAndSkipEndTheCut
  refine ⟨fun s => exec_mediaHeld (m := .cutDone), fun s => exec_mediaDiscarded (m := .cutDone), fun s free sound h =>
    exec_mediaSame (m := .cutDone) free sound (State.takeCutDone_idle h), fun s seq ready sound h =>
    exec_same ready sound (code := 0x37) (f := clearJamSkip) rfl (clearJamSkip_wrongState h), ?_⟩
  intro s seq r e rest sound hr hq ended
  have after := fun skipped => State.endCut_over (s := s.opened) (skipped := skipped) (State.opened_tables sound.tables) rfl hq hr
  have claim : ∀ w t l skipped, s.opened.cutOver w e rest r (pieceLength e.point r.lastCut) skipped → s.handedOn w t l →
      l ⊆ [.rolls, .jobs, .channels, .media, .check, .editions, .overhead, .merged, .notices, .store, .port, .out] →
      ended t skipped := by
    intro w t l skipped c h sub
    have job : ∀ n, t.job? n = w.job? n := h.rest.job (by decide)
    have roll : ∀ n, t.roll? n = w.roll? n := h.rest.roll (by decide)
    have done := c.done s.opened_handles
    refine ⟨_, pieceLength_ahead, ?_, fun n x hn hx => ?_, ?_, ?_, fun n hn le => ?_, fun hi => ?_, fun hk ho => ?_,
      fun tag j hk ho hj => ?_, fun n hn => ?_, h.commits _ (done _ ?_), fun tag ho => h.commits _ (done _ ?_),
      fun hk => h.commits _ (done _ ?_), fun hl => ?_, fun tag j ho hj => ?_, fun ch => ?_, State.frame (h.frame.mono sub)⟩
    · obtain ⟨x, hx, fields⟩ := c.roll
      exact ⟨x, (roll _).trans hx, fields⟩
    · obtain ⟨y, hy, fields⟩ := c.rolls n x hn hx
      exact ⟨y, (roll _).trans hy, fields⟩
    · rw [h.media]; exact c.queue
    · obtain ⟨m, hm⟩ := c.out
      rw [h.rest .out (by decide), hm]
      rfl
    · rw [h.media]; exact c.cuts n hn le
    · rw [h.media]; exact c.idle hi
    · obtain ⟨jobs, -, -, overhead⟩ := c.lost fun n hn => absurd (ho.symm.trans hn) (by simp)
      exact ⟨(h.rest .jobs (by decide)).trans jobs, (h.rest .overhead (by decide)).trans (overhead hk)⟩
    · obtain rfl : j.tag = tag := State.job_key hj
      obtain ⟨y, told, n, hy, fields, -, -, fin, -⟩ := c.owner j ho hj
      exact ⟨y, (job _).trans hy, Job.cutBy_claims fields hk stripAmong_iff.symm fun k p => (fin ⟨k, p⟩).1⟩
    · exact (job n).trans (c.others n hn)
    · simp [cutKeys]
    · simp [cutKeys, ho]
    · simp [cutKeys, hk]
    · obtain ⟨-, hands, heard, -⟩ := c.lost hl
      exact ⟨h.noticed [] [] (heard _ _ s.opened.heard_refl) rfl, by rw [h.rest .store (by decide)]; exact hands⟩
    · obtain rfl : j.tag = tag := State.job_key hj
      obtain ⟨y, told, n, hy, -, hands, heard, fin, tests⟩ := c.owner j ho hj
      have told' := heard s.opened [] s.opened.heard_refl
      rw [← h.rest .store (by decide)] at hands
      obtain ⟨-, -, -, state, cause⟩ := Job.cutBy_frame (j := j) (e := e) (piece := pieceLength e.point r.lastCut) (skipped := skipped)
        (ahead := stripAmong rest j.tag)
      rw [List.nil_append, Job.cutNotice_eq] at told'
      refine ⟨y, (job _).trans hy, fun f => ?_, fun settles => ?_, fun f settles => ?_⟩
      · obtain ⟨-, rfl, rfl⟩ := fin f
        refine ⟨hands, h.noticed _ _ told' ?_⟩
        rw [List.map_append, cause, Job.cutBy_flags f.1 Iff.rfl]
        rfl
      · have f : ¬ (e.kind = .stripEnd ∧ j.state = .printing) := fun f => by rw [settles.1] at f; simp at f
        rcases tests f with ⟨rfl, -⟩ | ⟨-, -, rfl, rfl⟩
        · exact absurd (state.trans settles.1) settles.2
        · exact ⟨hands, h.noticed _ _ told' (by rw [List.map_append]; rfl)⟩
      · rcases tests f with ⟨rfl, rfl, rfl⟩ | ⟨fin, ne, -⟩
        · rw [List.append_nil] at told'
          exact ⟨hands, h.noticed _ _ told' rfl, state⟩
        · exact absurd ⟨fin, ne⟩ settles
    · exact (h.rest.chan (by decide) ch).trans ((c.chan ch).trans (by rw [h.rest.chan (by decide)]; rfl))
  refine ⟨fun free hc => ⟨_, exec_mediaTaken (m := .cutDone) free (State.takeCutDone_cutting hc), ?_⟩, fun ready hc => ?_⟩
  · exact claim _ _ _ false (after false) (State.linked_handedOn sound (after false).mind (after false).frame
      [.rolls, .jobs, .channels, .media, .check, .editions, .overhead, .merged, .notices, .store, .out]) (by decide)
  · obtain ⟨p, ex, answer⟩ := exec_taken ready (i := .clearJamSkip seq) rfl (clearJamSkip_jammed (s := s.opened) hc)
      ((after true).frame .port (by decide))
    exact ⟨_, ex, claim _ _ _ true (after true) (State.closed_handedOn sound (after true).mind (after true).frame p
      [.rolls, .jobs, .channels, .media, .check, .editions, .overhead, .merged, .notices, .store, .port, .out]) (by decide),
      answer⟩

end Sys2Proof.Machine
end

-- ==== Sys2Proof/Proofs/passes ====
section
/-!
What strip arrivals and settlements leave of the jobs that hold on a roll (O41, O43).
-/

namespace Sys2Proof.Machine

/-! ### The PRINTING job -/

theorem ordered.find_least {α : Type} {key : α → Nat} {l : List α} {p : α → Bool} {a b : α} (ho : ordered key l)
    (ha : l.find? p = some a) (hb : b ∈ l) (hp : p b = true) : key a ≤ key b := by
  induction l with
  | nil => simp at hb
  | cons x l ih =>
    obtain ⟨first, rest⟩ := List.pairwise_cons.mp ho
    by_cases hx : p x
    · rw [List.find?_cons_of_pos hx] at ha
      obtain rfl := Option.some.inj ha
      rcases List.mem_cons.mp hb with rfl | hb
      · exact le_refl _
      · exact (first b hb).le
    · rw [List.find?_cons_of_neg hx] at ha
      rcases List.mem_cons.mp hb with rfl | hb
      · exact absurd hp hx
      · exact ih rest ha hb

/-- Two tables with the same tags PRINTING have the same job PRINTING. -/
theorem State.printing_tag {s t : State} (hs : ordered Job.tag s.jobs) (ht : ordered Job.tag t.jobs)
    (h : ∀ n, (∃ j, s.job? n = some j ∧ j.state = .printing) ↔ ∃ j, t.job? n = some j ∧ j.state = .printing) {k : Job}
    (hk : t.printing? = some k) : ∃ j, s.printing? = some j ∧ j.tag = k.tag := by
  obtain ⟨mem, state⟩ := State.printing_mem hk
  obtain ⟨i, hi, printing⟩ := (h k.tag).mpr ⟨k, State.job_of_mem ht mem, state⟩
  have memI := State.job_mem hi
  cases hj : s.printing? with
  | none =>
    have := List.find?_eq_none.mp hj i memI
    simp [printing] at this
  | some j =>
    obtain ⟨memJ, stateJ⟩ := State.printing_mem hj
    obtain ⟨k', hk', state'⟩ := (h j.tag).mp ⟨j, State.job_of_mem hs memJ, stateJ⟩
    have up : j.tag ≤ i.tag := hs.find_least hj memI (by simp [printing])
    have down : k.tag ≤ k'.tag := ht.find_least hk (State.job_mem hk') (by simp [state'])
    rw [State.job_key hi] at up
    rw [State.job_key hk'] at down
    exact ⟨j, rfl, le_antisymm up down⟩

/-! ### What a job holds on its roll -/

/-- What an ADMITTED or PRINTING job has of its roll: its state, its specification, its roll reservation and its flag. -/
def Job.stake (j : Job) : Option (JobState × JobSpec × Nat × Bool) :=
  if j.state = .admitted ∨ j.state = .printing then some (j.state, j.spec, j.rollRes, j.flags.overrunMedia) else none

theorem Job.stake_some {j : Job} (h : j.state = .admitted ∨ j.state = .printing) :
    j.stake = some (j.state, j.spec, j.rollRes, j.flags.overrunMedia) := if_pos h

theorem Job.stake_none {j : Job} (h : ¬ (j.state = .admitted ∨ j.state = .printing)) : j.stake = none := if_neg h

theorem Job.stake_iff {j : Job} {a : JobState} {b : JobSpec} {c : Nat} {d : Bool} : j.stake = some (a, b, c, d) ↔
    (j.state = .admitted ∨ j.state = .printing) ∧ j.state = a ∧ j.spec = b ∧ j.rollRes = c ∧ j.flags.overrunMedia = d := by
  unfold Job.stake
  split <;> simp_all

/-- What strip arrivals, missed checks and settlement tests leave: no stake changes, and commit points are made at most. -/
structure State.passes (s t : State) : Prop where
  stakes : ∀ n, (t.job? n).bind Job.stake = (s.job? n).bind Job.stake
  hands : ∃ n, s.store.hands t.store n
  tables : s.tables → t.tables
  handling : t.handling = s.handling
  out : ∃ l, t.out = s.out ++ l

theorem State.passes_refl (s : State) : s.passes s :=
  ⟨fun _ => rfl, ⟨0, s.store.hands_refl⟩, id, rfl, [], by simp⟩

theorem State.passes.trans {s t u : State} (h : s.passes t) (k : t.passes u) : s.passes u := by
  obtain ⟨m, hm⟩ := h.hands
  obtain ⟨n, hn⟩ := k.hands
  obtain ⟨a, ha⟩ := h.out
  obtain ⟨b, hb⟩ := k.out
  exact ⟨fun i => (k.stakes i).trans (h.stakes i), ⟨_, Store.hands.trans hm hn⟩, k.tables ∘ h.tables,
    k.handling.trans h.handling, a ++ b, by rw [hb, ha, List.append_assoc]⟩

section
variable {s t : State} {j x : Job}

theorem State.passes.job (h : s.passes t) {n : Nat} (hj : s.job? n = some j) (hs : j.state = .admitted ∨ j.state = .printing) :
    ∃ k, t.job? n = some k ∧ k.state = j.state ∧ k.spec = j.spec ∧ k.rollRes = j.rollRes ∧
      k.flags.overrunMedia = j.flags.overrunMedia := by
  have same := h.stakes n
  rw [hj, Option.bind_some, Job.stake_some hs] at same
  obtain ⟨k, hk, e⟩ := Option.bind_eq_some_iff.mp same
  exact ⟨k, hk, (Job.stake_iff.mp e).2⟩

theorem State.passes.symm_job (h : s.passes t) {n : Nat} (hj : t.job? n = some j)
    (hs : j.state = .admitted ∨ j.state = .printing) :
    ∃ k, s.job? n = some k ∧ k.state = j.state ∧ k.spec = j.spec ∧ k.rollRes = j.rollRes := by
  have same := h.stakes n
  rw [hj, Option.bind_some, Job.stake_some hs] at same
  obtain ⟨k, hk, e⟩ := Option.bind_eq_some_iff.mp same.symm
  obtain ⟨-, h1, h2, h3, -⟩ := Job.stake_iff.mp e
  exact ⟨k, hk, h1, h2, h3⟩

theorem State.passes.printing (h : s.passes t) (hs : s.tables) {k : Job} (hk : t.printing? = some k) :
    ∃ j, s.printing? = some j ∧ j.tag = k.tag ∧ k.spec = j.spec ∧ k.rollRes = j.rollRes := by
  have same : ∀ n, (∃ j, s.job? n = some j ∧ j.state = .printing) ↔ ∃ j, t.job? n = some j ∧ j.state = .printing := by
    refine fun n => ⟨fun ⟨i, hi, st⟩ => ?_, fun ⟨i, hi, st⟩ => ?_⟩
    · obtain ⟨k, hk, state, -⟩ := h.job hi (.inr st)
      exact ⟨k, hk, state.trans st⟩
    · obtain ⟨k, hk, state, -⟩ := h.symm_job hi (.inr st)
      exact ⟨k, hk, state.trans st⟩
  obtain ⟨j, hj, tag⟩ := State.printing_tag hs.jobs (h.tables hs).jobs same hk
  obtain ⟨mem, state⟩ := State.printing_mem hk
  obtain ⟨i, hi, -, spec, res⟩ := h.symm_job (State.job_of_mem (h.tables hs).jobs mem) (.inr state)
  obtain rfl : j = i := by
    rw [← tag, State.job_of_mem hs.jobs (State.printing_mem hj).1] at hi
    exact Option.some.inj hi
  exact ⟨j, hj, tag, spec.symm, res.symm⟩

/-- One record is changed, and its stake is not. -/
theorem State.passes_of_job {l : List Field} (hj : s.job? j.tag = some j) (here : t.job? j.tag = some x)
    (stake : x.stake = j.stake) (others : ∀ n, n ≠ j.tag → t.job? n = s.job? n) (hands : ∃ n, s.store.hands t.store n)
    (tables : s.tables → t.tables) (handling : t.handling = s.handling) (frame : s.within l t) (hl : Field.out ∉ l) :
    s.passes t := by
  refine ⟨fun n => ?_, hands, tables, handling, [], by rw [frame .out hl]; simp⟩
  by_cases e : n = j.tag
  · subst e
    rw [here, hj]
    exact stake
  · rw [others n e]

/-- The job settles: it had no stake. -/
theorem Job.stake_settled {y : Job} (hx : x.state = .finishing) (hy : y.state = .settled ∨ y.state = .voided) :
    y.stake = x.stake := by
  rw [Job.stake_none (j := x) (by simp [hx]), Job.stake_none (j := y) (by rcases hy with h | h <;> simp [h])]

theorem State.settleTest_passes (hs : s.tables) (hg : s.handling.gathered = none) (n : Nat) : s.passes (s.settleTest n) := by
  cases hx : s.job? n with
  | none =>
    have same : s.settleTest n = s := by unfold State.settleTest; rw [hx]
    rw [same]
    exact s.passes_refl
  | some x =>
    obtain rfl : x.tag = n := State.job_key hx
    rcases State.settleTest_followed hs hg hx with h | ⟨y, settles, ended, h⟩
    · exact State.passes_of_job hx h.job rfl h.others ⟨_, h.hands⟩ (fun _ => h.tables) h.handling h.frame (by decide)
    · exact State.passes_of_job hx h.job (Job.stake_settled (Job.settles_iff.mp settles).1 ended) h.others ⟨_, h.hands⟩
        (fun _ => h.tables) h.handling h.frame (by decide)

theorem State.commit_passes (hg : s.handling.gathered = none) (l : List RecKey) : s.passes (s.commit l) :=
  ⟨fun n => by rw [(s.commit_within l).job (by decide)], ⟨_, State.commit_hands s.store.hands_refl hg l⟩,
    (s.commit_keeps l).tables, State.commit_handling hg l, [], by rw [(s.commit_within l) .out (by decide)]; simp⟩

theorem State.disarm_passes (s : State) : s.passes s.disarm :=
  ⟨fun _ => rfl, ⟨0, s.store.hands_refl⟩, State.disarm_tables, rfl, [], by simp [State.disarm]⟩

theorem State.missed_passes {why : MissedReason} (hs : s.tables) (hj : s.job? j.tag = some j) : s.passes (s.missed j why) :=
  State.passes_of_job hj (State.missed_job hs.jobs) rfl (fun _ hn => State.missed_job_ne hn) ⟨0, State.missed_hands⟩
    (State.missed_keeps hj).tables (State.missed_within .handling (by decide)) State.missed_within (by decide)

theorem State.missCheck_passes (hs : s.tables) (why : MissedReason) (n : Nat) : s.passes (s.missCheck n why) := by
  cases hx : s.job? n with
  | none =>
    have same : s.missCheck n why = s := by unfold State.missCheck; rw [hx]
    rw [same]
    exact s.passes_refl
  | some x =>
    obtain rfl : x.tag = n := State.job_key hx
    have missed := State.missed_passes (why := why) hs hx
    rw [State.missCheck_eq hx]
    split
    · exact missed.trans (State.disarm_passes _)
    · exact missed

theorem State.supersede_passes (hs : s.tables) (hg : s.handling.gathered = none) : s.passes s.supersede := by
  cases ha : s.check.arm with
  | none => rw [State.supersede_free ha]; exact s.passes_refl
  | some a =>
    have eq : s.supersede = (((s.missCheck a.tag .superseded).disarm).commit [.job a.tag]).settleTest a.tag := by
      unfold State.supersede
      rw [ha]
      rfl
    rw [eq]
    have missed := (State.missCheck_passes hs .superseded a.tag).trans (State.disarm_passes _)
    have gathered := (congrArg Handling.gathered missed.handling).trans hg
    have committed := missed.trans (State.commit_passes gathered [.job a.tag])
    exact committed.trans (State.settleTest_passes (committed.tables hs) ((congrArg Handling.gathered committed.handling).trans hg) _)

theorem State.arrive_passes (hs : s.tables) (hg : s.handling.gathered = none) (n : Nat) : s.passes (s.arrive n) := by
  have base := State.supersede_passes hs hg
  unfold State.arrive
  split
  · split
    · unfold State.armFor
      dsimp only
      split
      · exact base.trans ⟨fun _ => rfl, ⟨0, Store.hands_refl _⟩, fun h => ⟨h.jobs, h.lots, h.rolls, h.editions, h.active, h.store⟩,
          rfl, _, rfl⟩
      · exact base
    · exact s.passes_refl
  · exact s.passes_refl

/-- Steps taken one after the other. -/
theorem State.passes_foldl {α : Type} {f : State → α → State}
    (h : ∀ (s : State) a, s.tables → s.handling.gathered = none → s.passes (f s a)) (l : List α) (hs : s.tables)
    (hg : s.handling.gathered = none) : s.passes (l.foldl f s) := by
  induction l generalizing s with
  | nil => exact s.passes_refl
  | cons a l ih =>
    have one := h s a hs hg
    exact one.trans (ih (one.tables hs) ((congrArg Handling.gathered one.handling).trans hg))
end

end Sys2Proof.Machine
end

-- ==== Sys2Proof/Proofs/feed ====
section
/-!
O41: FEED (R111, R112, R124).
-/

namespace Sys2Proof.Machine

/-! ### The feed position moves (R111, R112) -/

/-- The printing job behind a feed to `fed`. -/
def Job.follows (j : Job) (fed : Nat) (forward : Bool) : Job :=
  { j with
    rollRes := j.plannedEnd.getD 0 - fed
    flags := { j.flags with overrunMedia := j.flags.overrunMedia || (forward && Decidable.decide (j.plannedEnd.getD 0 < fed)) } }

/-- The roll is fed, with its dirty mark. -/
def State.fedTo (s : State) (r : Roll) (fed : Nat) : State := (s.markDirty (.roll r.id)).setRoll { r with fed := fed }

/-- What is left where the feed position has moved to `fed`. -/
structure State.advanced (s t : State) (r : Roll) (fed : Nat) (forward : Bool) : Prop where
  roll : ∃ x, t.roll? r.id = some x ∧ x = { r with fed := fed, reserved := x.reserved }
  dirty : fed ≠ r.fed → RecKey.roll r.id ∈ t.store.dirty
  sight : ∀ n j, s.job? n = some j → ∃ k, t.job? n = some k ∧ k.strip = j.strip ∧ k.spec = j.spec
  follows : ∀ j, s.printing? = some j → j.spec.roll = r.id →
    let held := if fed = r.fed then j.rollRes else j.plannedEnd.getD 0 - fed
    (∃ k, t.job? j.tag = some k ∧ k.state = .printing ∧ k.rollRes = held ∧ k.flags.overrunMedia =
      (j.flags.overrunMedia || (decide (fed ≠ r.fed) && forward && decide (j.plannedEnd.getD 0 < fed)))) ∧
    t.roll? r.id = some { r with fed := fed, reserved := r.reserved + held - j.rollRes }
  tables : t.tables
  mind : s.minds t
  frame : s.within [.rolls, .jobs, .store] t

section
variable {s : State} {r : Roll} {fed : Nat} {forward : Bool} {j : Job}

theorem State.fedTo_within : s.within [.rolls, .store] (s.fedTo r fed) :=
  (s.markDirty_within _).next _ (State.setRoll_within _ _)

theorem State.fedTo_minds : s.minds (s.fedTo r fed) := (s.markDirty_minds _).trans (State.setRoll_minds _ _)

theorem Store.hands.dirty {a b : Store} {n : Nat} (h : a.hands b n) : b.dirty = a.dirty := by rw [h.1]

theorem State.fedTo_dirty : RecKey.roll r.id ∈ (s.fedTo r fed).store.dirty := by
  have marked : RecKey.roll r.id ∈ (s.markDirty (.roll r.id)).store.dirty := by
    unfold State.markDirty
    split
    · rename_i h; simpa using h
    · simp
  have same := (State.setRoll_hands (s := s.markDirty (.roll r.id)) (Store.hands_refl _) { r with fed := fed }).dirty
  unfold State.fedTo
  rw [same]
  exact marked

theorem State.fedTo_keeps (hr : r ∈ s.rolls) : s.keeps (s.fedTo r fed) :=
  (s.markDirty_keeps _).trans (State.setRoll_keeps_of_mem r (by rw [State.markDirty_rolls]; exact hr))

theorem State.fedTo_roll (ho : ordered Roll.id s.rolls) : (s.fedTo r fed).roll? r.id = some { r with fed := fed } :=
  State.roll_setRoll_self (x := { r with fed := fed }) (s := s.markDirty (.roll r.id))
    (by rw [State.markDirty_rolls]; exact ho)

theorem State.moveFeed_moves (h : fed ≠ r.fed) : s.moveFeed r fed forward = (s.fedTo r fed).followFeed fed forward := if_neg h

theorem State.followFeed_none (h : s.printing? = none) : s.followFeed fed forward = s := by
  unfold State.followFeed; rw [h]

theorem State.followFeed_some (h : s.printing? = some j) : s.followFeed fed forward =
    (s.moveRoll j.spec.roll j.rollRes (j.plannedEnd.getD 0 - fed)).setJob (j.follows fed forward) := by
  unfold State.followFeed; rw [h]; rfl

theorem State.fedTo_printing : (s.fedTo r fed).printing? = s.printing? := by
  unfold State.printing?
  rw [State.fedTo_within .jobs (by decide)]

/-- The feed position stands. -/
theorem State.advanced_refl (hs : s.tables) (hr : s.roll? r.id = some r) : s.advanced s r r.fed forward := by
  refine ⟨⟨r, hr, rfl⟩, fun h => absurd rfl h, fun n j hj => ⟨j, hj, rfl, rfl⟩, fun j hj on => ?_, hs, s.minds_refl,
    s.within_refl _⟩
  obtain ⟨mem, state⟩ := State.printing_mem hj
  rw [if_pos rfl]
  refine ⟨⟨j, State.job_of_mem hs.jobs mem, state, rfl, by simp⟩, ?_⟩
  rw [Nat.add_sub_cancel]
  exact hr

/-- It moves, and no job prints. -/
theorem State.fedTo_advanced (hs : s.tables) (hr : r ∈ s.rolls) (h : s.printing? = none) :
    s.advanced (s.fedTo r fed) r fed forward :=
  ⟨⟨_, State.fedTo_roll hs.rolls, rfl⟩, fun _ => State.fedTo_dirty,
    fun n j hj => ⟨j, (State.fedTo_within.job (by decide) n).trans hj, rfl, rfl⟩, fun j hj => by rw [h] at hj; simp at hj,
    (State.fedTo_keeps hr).tables hs, State.fedTo_minds, State.fedTo_within.mono (by decide)⟩

/-- It moves, and the printing job follows. -/
theorem State.followFeed_advanced (hs : s.tables) (hr : r ∈ s.rolls) (h : s.printing? = some j) (ne : fed ≠ r.fed) :
    s.advanced ((s.fedTo r fed).followFeed fed forward) r fed forward := by
  have here : (s.fedTo r fed).printing? = some j := State.fedTo_printing.trans h
  obtain ⟨mem, state⟩ := State.printing_mem h
  have jobs : ordered Job.tag ((s.fedTo r fed).moveRoll j.spec.roll j.rollRes (j.plannedEnd.getD 0 - fed)).jobs := by
    rw [State.moveRoll_within _ _ _ _ .jobs (by decide), State.fedTo_within .jobs (by decide)]; exact hs.jobs
  have fedTables := (State.fedTo_keeps (fed := fed) hr).tables hs
  have job := State.job_setJob_self (x := j.follows fed forward) jobs
  have others : ∀ n, n ≠ j.tag → ((s.fedTo r fed).followFeed fed forward).job? n = s.job? n := fun n hn => by
    rw [State.followFeed_some here]
    exact (State.job_setJob_ne (x := j.follows fed forward) hn).trans
      (((State.moveRoll_within _ _ _ _).job (by decide) n).trans (State.fedTo_within.job (by decide) n))
  have roll : ∀ n, ((s.fedTo r fed).followFeed fed forward).roll? n =
      ((s.fedTo r fed).moveRoll j.spec.roll j.rollRes (j.plannedEnd.getD 0 - fed)).roll? n := fun n => by
    rw [State.followFeed_some here, (State.setJob_within _ _).roll (by decide)]
  have fedRoll := State.fedTo_roll (r := r) (fed := fed) hs.rolls
  have on : j.spec.roll = r.id → ((s.fedTo r fed).followFeed fed forward).roll? r.id =
      some { r with fed := fed, reserved := r.reserved + (j.plannedEnd.getD 0 - fed) - j.rollRes } := fun e => by
    rw [roll, e]
    exact State.roll_modRoll_self (s := s.fedTo r fed) (r := { r with fed := fed })
      (fun x => { x with reserved := x.reserved + (j.plannedEnd.getD 0 - fed) - j.rollRes }) fedTables.rolls fedRoll rfl
  refine ⟨?_, fun _ => ?_, fun n k hk => ?_, fun k hk e => ?_, ?_, State.fedTo_minds.trans (State.followFeed_minds _ _ _),
    (State.fedTo_within.mono (by decide)).trans ((State.followFeed_within _ _ _).mono (by decide))⟩
  · by_cases e : j.spec.roll = r.id
    · exact ⟨_, on e, rfl⟩
    · refine ⟨{ r with fed := fed }, ?_, rfl⟩
      rw [roll]
      exact (State.roll_modRoll_ne (s := s.fedTo r fed)
        (fun x => { x with reserved := x.reserved + (j.plannedEnd.getD 0 - fed) - j.rollRes }) (fun _ => rfl)
        (Ne.symm e)).trans fedRoll
  · rw [State.followFeed_some here]
    have same := (State.setJob_hands (State.modRoll_hands (s := s.fedTo r fed) (Store.hands_refl _) j.spec.roll
      fun x => { x with reserved := x.reserved + (j.plannedEnd.getD 0 - fed) - j.rollRes }) (j.follows fed forward)).dirty
    unfold State.moveRoll
    rw [same]
    exact State.fedTo_dirty
  · by_cases e : n = j.tag
    · subst e
      obtain rfl : j = k := by rw [State.job_of_mem hs.jobs mem] at hk; exact Option.some.inj hk
      exact ⟨j.follows fed forward, by rw [State.followFeed_some here]; exact job, rfl, rfl⟩
    · exact ⟨k, (others n e).trans hk, rfl, rfl⟩
  · obtain rfl := Option.some.inj (h.symm.trans hk)
    rw [if_neg ne]
    refine ⟨⟨j.follows fed forward, by rw [State.followFeed_some here]; exact job, state, rfl, ?_⟩, on e⟩
    simp [Job.follows, ne]
  · exact (State.followFeed_keeps _ _ _).tables fedTables

theorem State.moveFeed_advanced (hs : s.tables) (hr : r ∈ s.rolls) : s.advanced (s.moveFeed r fed forward) r fed forward := by
  by_cases e : fed = r.fed
  · subst e
    rw [show s.moveFeed r r.fed forward = s from if_pos rfl]
    exact State.advanced_refl hs (State.roll_of_mem hs.rolls hr)
  · rw [State.moveFeed_moves e]
    cases h : s.printing? with
    | none => rw [State.followFeed_none (State.fedTo_printing.trans h)]; exact State.fedTo_advanced hs hr h
    | some j => exact State.followFeed_advanced hs hr h e
end

/-! ### The roll law restored -/

section
variable {s t : State} {r : Roll} {w : List Job} {cut : Nat}

/-- A printing job trimmed on its roll. -/
def Job.trimmedBy (j : Job) (cut : Nat) : Job :=
  { j with rollRes := j.rollRes - cut, flags := { j.flags with overrunMedia := true } }

/-- Each record was withdrawn, or trimmed, or stands. -/
theorem State.restored.cases (h : s.restored t r w cut) (hs : s.tables) (n : Nat) :
    (∃ k ∈ w, s.job? n = some k ∧ k.state = .admitted ∧ t.job? n = some k.afterWithdrawal) ∨
      (∃ k, s.printing? = some k ∧ s.job? n = some k ∧ t.job? n = some (k.trimmedBy cut)) ∨ t.job? n = s.job? n := by
  by_cases hw : ∃ k ∈ w, k.tag = n
  · obtain ⟨k, hk, rfl⟩ := hw
    obtain ⟨mem, state, -⟩ := h.can.1 k hk
    exact .inl ⟨k, hk, State.job_of_mem hs.jobs mem, state, h.jobs k hk⟩
  · by_cases hp : ∃ k, s.printing? = some k ∧ cut ≠ 0 ∧ k.tag = n
    · obtain ⟨k, hk, ne, rfl⟩ := hp
      exact .inr (.inl ⟨k, hk, State.job_of_mem hs.jobs (State.printing_mem hk).1, (h.trimmed k hk ne).2⟩)
    · exact .inr (.inr (h.rest n (fun k hk e => hw ⟨k, hk, e⟩) fun k hk ne e => hp ⟨k, hk, ne, e⟩))

theorem State.restored.sight (h : s.restored t r w cut) (hs : s.tables) {n : Nat} {j : Job} (hj : s.job? n = some j) :
    ∃ k, t.job? n = some k ∧ k.strip = j.strip ∧ k.spec = j.spec := by
  rcases h.cases hs n with ⟨k, -, hk, -, now⟩ | ⟨k, -, hk, now⟩ | same
  · obtain rfl := Option.some.inj (hj.symm.trans hk)
    exact ⟨_, now, rfl, rfl⟩
  · obtain rfl := Option.some.inj (hj.symm.trans hk)
    exact ⟨_, now, rfl, rfl⟩
  · exact ⟨j, same.trans hj, rfl, rfl⟩

/-- Where every holder was withdrawn, none is ADMITTED any more. -/
theorem State.restored.none_admitted (h : s.restored t r w cut) (hs : s.tables)
    (all : ∀ j ∈ s.jobs, j.state = .admitted → Job.heldOn r.id j ≠ 0 → j ∈ w) {j : Job} (hj : t.job? j.tag = some j)
    (ha : j.state = .admitted) (on : j.spec.roll = r.id) : j.rollRes = 0 := by
  rcases h.cases hs j.tag with ⟨k, -, -, -, now⟩ | ⟨k, hk, -, now⟩ | same
  · rw [Option.some.inj (hj.symm.trans now)] at ha
    exact absurd ha (by simp [Job.afterWithdrawal])
  · rw [Option.some.inj (hj.symm.trans now)] at ha
    exact absurd ((State.printing_mem hk).2.symm.trans ha) (by simp)
  · by_contra ne
    have held : Job.heldOn r.id j ≠ 0 := by unfold Job.heldOn; rw [if_pos on]; exact ne
    have withdrawn := h.jobs j (all j (State.job_mem (same.symm.trans hj)) ha held)
    rw [Option.some.inj (hj.symm.trans withdrawn)] at ha
    exact absurd ha (by simp [Job.afterWithdrawal])

theorem State.restored.printing (h : s.restored t r w cut) (hs : s.tables) (ht : t.tables) {k : Job}
    (hk : t.printing? = some k) :
    ∃ j, s.printing? = some j ∧ (k = j.trimmedBy cut ∧ cut ≠ 0 ∨ k = j ∧ cut = 0) := by
  have same : ∀ n, (∃ j, s.job? n = some j ∧ j.state = .printing) ↔ ∃ j, t.job? n = some j ∧ j.state = .printing := by
    intro n
    rcases h.cases hs n with ⟨k, -, hk, state, now⟩ | ⟨k, hp, hk, now⟩ | same
    · refine ⟨fun ⟨j, hj, p⟩ => ?_, fun ⟨j, hj, p⟩ => ?_⟩
      · rw [Option.some.inj (hj.symm.trans hk), state] at p; simp at p
      · rw [Option.some.inj (hj.symm.trans now)] at p; simp [Job.afterWithdrawal] at p
    · exact ⟨fun _ => ⟨_, now, (State.printing_mem hp).2⟩, fun _ => ⟨k, hk, (State.printing_mem hp).2⟩⟩
    · rw [same]
  obtain ⟨j, hj, tag⟩ := State.printing_tag hs.jobs ht.jobs same hk
  have here := State.job_of_mem ht.jobs (State.printing_mem hk).1
  rw [← tag] at here
  refine ⟨j, hj, ?_⟩
  by_cases ne : cut ≠ 0
  · exact .inl ⟨Option.some.inj (here.symm.trans (h.trimmed j hj ne).2), ne⟩
  · have apart : ∀ k ∈ w, k.tag ≠ j.tag := h.turns.apart hs (State.printing_mem hj).1 (State.printing_apart h.turns hj)
    have rest := h.rest j.tag apart fun k _ c => absurd c ne
    exact .inr ⟨Option.some.inj (here.symm.trans (rest.trans (State.job_of_mem hs.jobs (State.printing_mem hj).1))), not_not.mp ne⟩

/-- The law holds, or nobody holds on the roll any more (R10, R11, R103). -/
theorem State.restored.law (h : s.restored t r w cut) (hs : s.tables) (ht : t.tables) :
    (∃ x, t.roll? r.id = some x ∧ x.reserved ≤ x.length - x.fed) ∨
      ((∀ j, t.job? j.tag = some j → j.state = .admitted → j.spec.roll = r.id → j.rollRes = 0) ∧
        ∀ j, t.printing? = some j → j.spec.roll = r.id → j.rollRes = 0) := by
  obtain ⟨-, -, -, -, stop⟩ := h.can
  have held : (w.map (Job.heldOn r.id)).sum = (w.map Job.rollRes).sum := congrArg List.sum h.turns.heldOn
  rcases stop with fits | all
  · rw [held] at fits
    exact .inl ⟨_, h.roll, by show r.reserved - _ - cut ≤ r.length - r.fed; omega⟩
  · by_cases fits : r.reserved - (w.map Job.rollRes).sum - cut ≤ r.length - r.fed
    · exact .inl ⟨_, h.roll, fits⟩
    · refine .inr ⟨fun j hj ha on => h.none_admitted hs all hj ha on, fun k hk on => ?_⟩
      obtain ⟨j, hj, e⟩ := h.printing hs ht hk
      have excess : cut = r.excess w j := by rw [h.excess, hj]; rfl
      unfold Roll.excess at excess
      rw [held] at excess
      have spec : k.spec = j.spec := by rcases e with ⟨e, -⟩ | ⟨e, -⟩ <;> rw [e]; rfl
      have holds : Job.heldOn r.id j = j.rollRes := if_pos (by rw [← spec]; exact on)
      rw [holds] at excess
      have res : k.rollRes = j.rollRes - cut := by
        rcases e with ⟨e, -⟩ | ⟨e, zero⟩
        · rw [e]; rfl
        · rw [e, zero, Nat.sub_zero]
      omega
end

/-! ### The strip arm test (R124) -/

theorem State.activeRoll_of_roll {s : State} {i : Nat} {r : Roll} (hs : s.tables) (hr : s.roll? i = some r) (ha : r.state = .active) :
    s.activeRoll = some r := by
  have mem := State.roll_mem hr
  cases h : s.activeRoll with
  | none =>
    have := List.find?_eq_none.mp h r mem
    simp [ha] at this
  | some x =>
    obtain ⟨memX, active⟩ := State.activeRoll_mem h
    have key := (filter_le_one_iff hs.rolls _).mp hs.active x memX r mem (by simp [active]) (by simp [ha])
    rw [hs.rolls.eq_of_key memX mem key]

/-- The entries whose strips have reached the sensor are marked. -/
def State.marked (s : State) (fed : Nat) : State :=
  s.setMedia fun m =>
    { m with queue := m.queue.map fun e => if e.reaches m.geometry fed then { e with armed := true } else e }

/-- The owners of the strips that reach the sensor, in queue order. -/
def Media.arrivals (m : Media) (fed : Nat) : List Nat :=
  (m.queue.filter fun e => e.reaches m.geometry fed).filterMap CutEntry.owner

section
variable {s : State} {fed : Nat}

theorem State.stripTest_eq : s.stripTest fed = (s.media.arrivals fed).foldl State.arrive (s.marked fed) := rfl

theorem State.marked_passes : s.passes (s.marked fed) :=
  ⟨fun _ => rfl, ⟨0, s.store.hands_refl⟩, fun h => ⟨h.jobs, h.lots, h.rolls, h.editions, h.active, h.store⟩, rfl, [],
    (List.append_nil _).symm⟩

theorem State.stripTest_passes (hs : s.tables) (hg : s.handling.gathered = none) : s.passes (s.stripTest fed) := by
  rw [State.stripTest_eq]
  exact State.marked_passes.trans (State.passes_foldl (fun s n hs hg => State.arrive_passes hs hg n) _
    (State.marked_passes.tables hs) hg)

theorem State.arrivals_within (l : List Nat) : s.within armFields (l.foldl State.arrive s) :=
  within_foldl _ (fun s n => s.arrive_within n) l s

theorem State.stripTest_media : (s.stripTest fed).media = (s.marked fed).media := by
  rw [State.stripTest_eq]
  exact State.arrivals_within _ .media (by decide)
end

/-! ### FEED (R111) -/

/-- The roll fed to `fed`, with another reserved total. -/
def Roll.fedTo (r : Roll) (fed n : Nat) : Roll := { r with fed := fed, reserved := n }

/-- What is left where a FEED was taken with roll `r` ACTIVE, in the handling in hand. -/
structure State.feeds (s t : State) (r : Roll) (fed : Nat) (forward : Bool) : Prop where
  roll : ∃ x, t.roll? r.id = some x ∧ x = { r with fed := fed, reserved := x.reserved }
  dirty : fed ≠ r.fed → RecKey.roll r.id ∈ t.store.dirty
  queue : t.media.queue =
    s.media.queue.map fun e => if e.reaches s.media.geometry fed then { e with armed := true } else e
  cuts : ∀ e rest, s.media.cutter = .idle → s.media.queue = e :: rest → e.target ≤ fed →
    t.media.cutter = .cutting ∧ t.media.timer = some s.media.geometry.cutTimeout ∧ .cut e.kind e.target ∈ t.out
  follows : ∀ j, s.printing? = some j → j.spec.roll = r.id →
    let held := if fed = r.fed then j.rollRes else j.plannedEnd.getD 0 - fed
    r.reserved + held - j.rollRes ≤ r.length - fed →
    (∃ k, t.job? j.tag = some k ∧ k.rollRes = held ∧ k.flags.overrunMedia =
      (j.flags.overrunMedia || (decide (fed ≠ r.fed) && forward && decide (j.plannedEnd.getD 0 < fed)))) ∧
    ∃ x, t.roll? r.id = some x ∧ x.reserved = r.reserved + held - j.rollRes
  law : (∃ x, t.roll? r.id = some x ∧ x.reserved ≤ x.length - x.fed) ∨
    ((∀ j ∈ t.jobs, j.state = .admitted → j.spec.roll = r.id → j.rollRes = 0) ∧
      ∀ j, t.printing? = some j → j.spec.roll = r.id → j.rollRes = 0)
  unarmed : s.media.arrivals fed = [] → t.check = s.check
  one : ∀ tag j, s.media.arrivals fed = [tag] → s.job? tag = some j → s.check.arm = none →
    (j.strip ≠ .printed → t.check = s.check) ∧
    (j.strip = .printed →
      t.check = { s.check with armSeq := (s.check.armSeq + 1) % 256, arm := some ⟨(s.check.armSeq + 1) % 256, tag⟩ } ∧
      .arm ((s.check.armSeq + 1) % 256) (s.standard j).labs.length ∈ t.out)
  chan : ∀ c, t.chan c = { s.chan c with reserved := (t.chan c).reserved }
  mind : s.minds t
  frame : s.within cutFields t

section
variable {s : State} {r : Roll} {delta : Int}

theorem State.standard_spec {j k : Job} (h : k.spec = j.spec) : s.standard k = s.standard j := by
  unfold State.standard State.editionStandard
  rw [h]

theorem State.startCut_media : s.startCut.media.queue = s.media.queue ∧ s.startCut.media.geometry = s.media.geometry := by
  unfold State.startCut
  split
  · split <;> exact ⟨rfl, rfl⟩
  · exact ⟨rfl, rfl⟩

theorem State.applyFeed_feeds (hs : s.tables) (hh : s.handles) (hg : s.handling.gathered = none) (hr : s.activeRoll = some r) :
    s.feeds (s.applyFeed r delta) r (r.fedAfter delta) (decide (0 < delta)) := by
  obtain ⟨mem, active⟩ := State.activeRoll_mem hr
  let fed := r.fedAfter delta
  let a := s.moveFeed r fed (decide (0 < delta))
  let b := a.enforceRoll r.id
  have A : s.advanced a r fed (decide (0 < delta)) := State.moveFeed_advanced hs mem
  obtain ⟨n, hx⟩ : ∃ n, a.roll? r.id = some (r.fedTo fed n) := by
    obtain ⟨x, hx, shape⟩ := A.roll
    exact ⟨x.reserved, by rw [hx]; exact congrArg some shape⟩
  have gathered : a.handling.gathered = none := (congrArg Handling.gathered (A.frame .handling (by decide))).trans hg
  obtain ⟨w, cut, B⟩ : ∃ w cut, a.restored b (r.fedTo fed n) w cut :=
    State.enforceRoll_restored (r := r.fedTo fed n) A.tables (A.mind.handles hh) gathered hx
  have tablesB : b.tables := (State.enforceRoll_keeps _ _).tables A.tables
  have frameB : s.within ([.rolls, .jobs, .store] ++ lawFields) b := (A.frame.mono (by decide)).trans (B.frame.mono (by decide))
  have mediaB : b.media = s.media := frameB .media (by decide)
  have lawB := B.law A.tables tablesB
  have activeB := State.activeRoll_of_roll tablesB B.roll active
  obtain ⟨fires, waits, startFrame⟩ := State.startCut_leaves activeB
  rw [mediaB] at fires waits
  let c := b.startCut
  let t := c.stripTest fed
  have tablesC : c.tables := (State.startCut_keeps _).tables tablesB
  have gatheredC : c.handling.gathered = none :=
    (congrArg Handling.gathered ((startFrame .handling (by decide)).trans B.handling)).trans gathered
  have P : c.passes t := State.stripTest_passes tablesC gatheredC
  have started := State.startCut_media (s := b)
  have queueC : c.media.queue = s.media.queue ∧ c.media.geometry = s.media.geometry := by rw [← mediaB]; exact started
  have rollT : ∀ i, t.roll? i = b.roll? i := fun i =>
    ((State.arrivals_within _).roll (by decide) i).trans (startFrame.roll (by decide) i)
  have mediaT : t.media = (c.marked fed).media := State.stripTest_media
  have storeC : c.store = b.store := startFrame .store (by decide)
  obtain ⟨hands, handsT⟩ := P.hands
  have checkC : c.check = s.check := (startFrame .check (by decide)).trans (frameB .check (by decide))
  have arrivals : c.media.arrivals fed = s.media.arrivals fed := by unfold Media.arrivals; rw [queueC.1, queueC.2]
  refine ⟨⟨_, (rollT _).trans B.roll, rfl⟩, fun ne => ?_, ?_, fun e rest idle hq le => ?_, ?_, ?_,
    fun none => ?_, fun tag j one hj free => ?_, fun ch => ?_, s.applyFeed_minds r delta, s.applyFeed_within r delta⟩
  · show RecKey.roll r.id ∈ t.store.dirty
    rw [handsT.dirty, storeC, B.hands.dirty]
    exact A.dirty ne
  · show t.media.queue = _
    rw [mediaT]
    show c.media.queue.map _ = _
    rw [queueC.1, queueC.2]
  · obtain ⟨m, o⟩ := fires e (by rw [hq]; rfl) idle le
    show t.media.cutter = _ ∧ t.media.timer = _ ∧ _ ∈ t.out
    obtain ⟨l, out⟩ := P.out
    rw [mediaT, out]
    show c.media.cutter = _ ∧ c.media.timer = _ ∧ _ ∈ c.out ++ l
    rw [m, o]
    exact ⟨rfl, rfl, by simp⟩
  · intro j hj on held law
    obtain ⟨⟨k, hk, state, res, flag⟩, roll⟩ := A.follows j hj on
    have still : b = a := State.enforceRoll_holds roll law
    have jobC : c.job? j.tag = some k := (startFrame.job (by decide) _).trans ((congrArg (fun u => u.job? j.tag) still).trans hk)
    obtain ⟨i, hi, -, -, resI, flagI⟩ := P.job jobC (.inr state)
    exact ⟨⟨i, hi, resI.trans res, flagI.trans flag⟩, _, (rollT _).trans ((congrArg (fun u => u.roll? r.id) still).trans roll), rfl⟩
  · refine lawB.imp (fun ⟨x, hx, le⟩ => ⟨x, (rollT _).trans hx, le⟩) fun ⟨noneHolds, noPrinting⟩ => ⟨fun j hj ha on => ?_, fun k hk on => ?_⟩
    · obtain ⟨i, hi, state, spec, res⟩ := P.symm_job (State.job_of_mem (P.tables tablesC).jobs hj) (.inl ha)
      rw [← res]
      have tag := State.job_key hi
      have here := (startFrame.job (by decide) _).symm.trans hi
      rw [← tag] at here
      exact noneHolds i here (state.trans ha) (by rw [spec]; exact on)
    · obtain ⟨i, hi, -, spec, res⟩ := P.printing tablesC hk
      have printingB : b.printing? = some i := by
        unfold State.printing? at hi ⊢
        rw [← startFrame .jobs (by decide)]
        exact hi
      rw [res]
      exact noPrinting i printingB (by rw [← spec]; exact on)
  · show t.check = s.check
    have eq : t = c.marked fed := by
      show c.stripTest fed = _
      rw [State.stripTest_eq, arrivals, none]
      rfl
    rw [eq]
    exact checkC
  · obtain ⟨i, hi, strip, spec⟩ := A.sight tag j hj
    obtain ⟨k, hk, strip', spec'⟩ := B.sight A.tables hi
    have here : (c.marked fed).job? tag = some k := (startFrame.job (by decide) tag).trans hk
    have eq : t = (c.marked fed).arrive tag := by
      show c.stripTest fed = _
      rw [State.stripTest_eq, arrivals, one]
      rfl
    have checkM : (c.marked fed).check = s.check := checkC
    show (_ → t.check = s.check) ∧ (_ → t.check = _ ∧ _ ∈ t.out)
    rw [eq]
    refine ⟨fun h => ?_, fun h => ?_⟩
    · rw [State.arrive_declined here (by rw [strip', strip]; exact h)]
      exact checkC
    · have standard : (c.marked fed).standard k = s.standard j :=
        (State.standard_congr (t := c.marked fed) (s := s) ((startFrame .editions (by decide)).trans
          (frameB .editions (by decide))) (congrArg CheckUnit.plan checkM) k).trans (State.standard_spec (spec'.trans spec))
      rw [State.arrive_armed here (by rw [strip', strip]; exact h) (State.supersede_free (by rw [checkM]; exact free)) here
        rfl, standard, checkM]
      refine ⟨?_, List.mem_append_right _ (List.mem_singleton_self _)⟩
      show ({ (c.marked fed).check with armSeq := _, arm := _ } : CheckUnit) = _
      rw [checkM]
  · show t.chan ch = { s.chan ch with reserved := (t.chan ch).reserved }
    have same : t.chan ch = b.chan ch :=
      ((State.arrivals_within _).chan (by decide) ch).trans (startFrame.chan (by decide) ch)
    rw [same, B.chan, A.frame.chan (by decide)]
end

section
variable {s : State} {r : Roll} {delta : Int}

theorem State.takeFeed_outside (h : delta < -2000000 ∨ 2000000 < delta ∨ s.activeRoll = none) : s.takeFeed delta = s := by
  unfold State.takeFeed
  by_cases out : delta < -2000000 ∨ 2000000 < delta
  · exact if_pos out
  · rw [if_neg out]
    rcases h with h | h | h
    · exact absurd (.inl h) out
    · exact absurd (.inr h) out
    · rw [h]

theorem State.takeFeed_inside (lo : -2000000 ≤ delta) (hi : delta ≤ 2000000) (hr : s.activeRoll = some r) :
    s.takeFeed delta = s.applyFeed r delta := by
  unfold State.takeFeed
  rw [if_neg (by omega), hr]

/-- The fed length after a FEED, in the words of O41 (R111). -/
theorem Roll.fedAfter_eq : r.fedAfter delta =
    if 0 ≤ delta then min (r.fed + delta.toNat) 4294967295 else (max ((r.fed : Int) + delta) r.lastTarget).toNat := by
  unfold Roll.fedAfter
  split
  · exact Nat.min_comm _ _
  · split <;> omega
end

/-- The strip of the entry is at or past the sensor at this fed length (R124). -/
def CutEntry.atSensor (e : CutEntry) (g : Geometry) (fed : Nat) : Bool :=
  e.kind == .stripEnd && Decidable.decide (e.stripStart.getD 0 + g.sensorOffset ≤ fed)

theorem CutEntry.reaches_eq (e : CutEntry) (g : Geometry) (fed : Nat) : e.reaches g fed = (!e.armed && e.atSensor g fed) := by
  unfold CutEntry.reaches CutEntry.atSensor
  rw [Bool.and_comm (e.kind == .stripEnd), Bool.and_assoc]

theorem CutEntry.marked_eq (e : CutEntry) (g : Geometry) (fed : Nat) :
    (if e.reaches g fed then { e with armed := true } else e) = { e with armed := e.armed || e.atSensor g fed } := by
  rw [CutEntry.reaches_eq]
  cases armed : e.armed <;> cases at_ : e.atSensor g fed <;> simp [← armed]

theorem Media.arrivals_eq (m : Media) (fed : Nat) :
    m.arrivals fed = (m.queue.filter fun e => !e.armed && e.atSensor m.geometry fed).filterMap CutEntry.owner := by
  unfold Media.arrivals
  simp only [CutEntry.reaches_eq]

/-- Settles O41: `State.applyFeed_feeds` has what a FEED leaves in its handling. -/
theorem feedMovesTheFeedPosition : Obligations.FeedMovesTheFeedPosition := by
  unfold Obligations.FeedMovesTheFeedPosition
  refine ⟨fun s delta => exec_mediaHeld (m := .feed delta), fun s delta => exec_mediaDiscarded (m := .feed delta),
    fun s delta free sound => ⟨fun h => exec_mediaSame (m := .feed delta) free sound (State.takeFeed_outside h), ?_⟩⟩
  intro r lo hi hr fed reached
  have arrivals : s.media.queue.filter (fun e => !e.armed && reached e) = [] → s.media.arrivals fed = [] := fun none =>
    (s.media.arrivals_eq fed).trans (congrArg (List.filterMap CutEntry.owner) none)
  have single : ∀ {e : CutEntry} {tag : Nat}, s.media.queue.filter (fun e => !e.armed && reached e) = [e] →
      e.owner = some tag → s.media.arrivals fed = [tag] := fun {e tag} he ho => by
    refine (s.media.arrivals_eq fed).trans ((congrArg (List.filterMap CutEntry.owner) he).trans ?_)
    rw [List.filterMap_cons, ho]
    rfl
  obtain ⟨u, taken, f⟩ : ∃ u, s.opened.takeFeed delta = u ∧ s.opened.feeds u r fed (decide (0 < delta)) := by
    refine ⟨_, State.takeFeed_inside (s := s.opened) lo hi hr, ?_⟩
    rw [show fed = r.fedAfter delta from Roll.fedAfter_eq.symm]
    exact State.applyFeed_feeds (State.opened_tables sound.tables) s.opened_handles rfl hr
  have frame := State.frame (State.linked_within f.frame
      [.rolls, .jobs, .channels, .media, .check, .editions, .overhead, .merged, .notices, .store, .out])
  refine ⟨_, exec_mediaTaken (m := .feed delta) free taken, f.roll, f.dirty, ?_, f.cuts, ?_, f.law,
    fun none => f.unarmed (arrivals none), fun e tag j he ho hj free => f.one tag j (single he ho) hj free, f.chan, frame⟩
  · exact f.queue.trans (List.map_congr_left fun e _ => CutEntry.marked_eq e _ fed)
  · intro j hj on held fits
    obtain ⟨⟨k, hk, res, flag⟩, x, hx, total⟩ := f.follows j hj on fits
    refine ⟨⟨k, hk, res, flag.trans ?_⟩, x, hx, total⟩
    rw [Bool.decide_and, Bool.decide_and, ← Bool.and_assoc, Bool.and_comm (decide (0 < delta))]

end Sys2Proof.Machine
end

-- ==== Sys2Proof/Proofs/stale ====
section
/-!
O23, O24, O43: states whose store is sound, in which a commit point of an earlier handling waits with an outdated image.
-/

namespace Sys2Proof.Machine

/-! ### A commit point that waits with an outdated image -/

/-- What keeps a record from being committed in the words of the claims (R199): another unsaved record of its region, not
changed since, is in hand with outdated images only. -/
theorem State.not_commits_of_stale {s t : State} {k u : RecKey} (changed : t.image k ≠ s.image k) (behind : t.store.behind = [])
    (unsaved : u ∈ s.store.unsaved) (region : regionOf u = regionOf k) (same : u ∉ t.store.changed)
    (stale : ∀ w ∈ t.store.inHand, w.key = u → w.image ≠ t.image u) : ¬ s.commits t k := by
  rintro ⟨-, taken, -⟩
  obtain ⟨w, hw, key, -, now⟩ := (taken (.inr changed)).2 behind u unsaved region
  exact stale w hw key (now same)

/-- A store with an open group, behind which a commit point of an earlier handling waits with an image of job 1 and with
the image `w`: no run leaves the image of an unchanged record outdated there, but `State.sound` does not compare the
images that wait with the records. -/
def staleStore (unsaved : List RecKey) (w : Write) : Store :=
  { State.reset.store with
    called := 2, count := 2, groups := [⟨[1], [1], []⟩], unsaved := unsaved
    behind := [⟨2, [⟨.job 1, .removed, 0, .waiting, false⟩, w], [1]⟩] }

theorem staleStore_sound (unsaved : List RecKey) (w : Write) : (staleStore unsaved w).sound := by
  refine ⟨rfl, show ([1, 2] : List Nat).Nodup by decide, ?_, ?_⟩ <;> simp [staleStore]

/-- An ADMITTED job with a reservation. -/
def holdingJob (ink : Vec12) (rollRes : Nat) : Job :=
  { newJob 1 ⟨.check, none, 1, 0, 0, 0, 1, Vec12.all 0⟩ with
    state := .admitted, ink := ink, rollRes := rollRes, seqNo := some 1 }

/-! ### A roll (O43) -/

/-- A roll of 10 units with one of them reserved. -/
def plainRoll (id : Nat) (state : RollState) (slot : Option RollSlot) : Roll :=
  { id := id, product := 0, width := 0, length := 10, fed := 0, reserved := 1, boundary := 0, lastCut := 0, lastTarget := 0,
    price := 0, unpriced := false, state := state, slot := slot, uncertain := false }

/-- A part in RUN with roll 1 ACTIVE and an ADMITTED job on it. An image of roll 2, which is not there any more, waits. -/
def staleRoll : State :=
  { State.reset with
    phase := .run, jobs := [holdingJob (Vec12.all 0) 1], rolls := [plainRoll 1 .active (some .upper)]
    store := staleStore [.roll 1, .roll 2] ⟨.roll 2, .roll (plainRoll 2 .shelved none), 0, .waiting, false⟩ }

theorem staleRoll_sound : staleRoll.sound := by
  refine ⟨?_, ?_, ?_, ?_, by decide, staleStore_sound _ _, ?_⟩ <;> simp [ordered, staleRoll, State.reset]

/-- The state that its handling of the absent roll leaves. -/
def staleRollAbsent : State := staleRoll.opened.takeRollPresent 0 0

/-- Withdrawing the job overtakes the commit point that waits. Its group takes up the unsaved roll 1 and writes the outdated
image of roll 2, and the last commit point, of roll 1, finds no change. -/
theorem staleRollAbsent_not_commits : ¬ staleRoll.commits (staleRollAbsent.linked staleRoll) (.roll 1) := by
  have same : ∀ k, (staleRollAbsent.linked staleRoll).image k = staleRollAbsent.image k := fun k => State.linked_image k
  have stale : ∀ w ∈ staleRollAbsent.store.inHand, w.key = .roll 2 → w.image ≠ staleRollAbsent.image (.roll 2) := by decide
  refine State.not_commits_of_stale (u := .roll 2) ?_ rfl (by decide) rfl ?_ fun w hw hk => ?_
  · rw [same]; decide
  · exact List.not_mem_nil
  · rw [same]; exact stale w hw hk

/-- Refutes O43: its stores are any that are sound. Where a commit point that an earlier handling left waiting holds an
outdated image of an unsaved roll, the end of the ACTIVE roll hands that image and not the roll's own. -/
theorem not_activeRollEndDiscardsTheCutQueue : ¬ Obligations.ActiveRollEndDiscardsTheCutQueue := by
  unfold Obligations.ActiveRollEndDiscardsTheCutQueue
  intro h
  have free : staleRoll.mediaFree := ⟨.inl rfl, rfl, rfl⟩
  obtain ⟨-, t, e, -, -, -, -, -, -, -, -, -, -, -, -, -, committed, -, frame⟩ :=
    h staleRoll 0 .upper (plainRoll 1 .active (some .upper)) free staleRoll_sound rfl rfl rfl
  have phase : t.phase = .run := congrArg State.phase frame
  have leaves := exec_mediaTaken (m := .rollPresent 0 0) (u := staleRollAbsent) free rfl
  have run : (staleRollAbsent.linked staleRoll).phase = .run := rfl
  have same := Host.Outcome.next.inj (e.symm.trans leaves)
  unfold State.thenFlush at same
  rw [phase, run, if_neg (by simp), if_neg (by simp)] at same
  subst same
  exact staleRollAbsent_not_commits committed

/-! ### A lot (O23, O24) -/

/-- A lot of 2 nL on channel 0, none of it drawn. -/
def plainLot (code : Nat) (location : Option TankSlot) : Lot :=
  { code := code, channel := 0, product := 0, fill := 2, remaining := 2, imageDrawn := 0, stripDrawn := 0, maintDrawn := 0,
    price := 0, expiry := 0, location := location, state := lotStateOf 2 location, unpriced := false, uncertain := false,
    expired := false }

/-- A part in RUN with lot 1 active on channel 0 and an ADMITTED job that holds all of it. An image of lot 2, which is not
there any more, waits. -/
def staleLot : State :=
  { State.reset with
    phase := .run, jobs := [holdingJob ((Vec12.all 0).set 0 2) 0], lots := [plainLot 1 (some .A)]
    channels := State.reset.channels.set 0 { slots := { slotA := some 1, active := some .A }, reserved := 2 }
    store := staleStore [.lot 1, .slots 0, .lot 2] ⟨.lot 2, .lot (plainLot 2 none), 0, .waiting, false⟩ }

theorem staleLot_sound : staleLot.sound := by
  refine ⟨?_, ?_, ?_, ?_, by decide, staleStore_sound _ _, ?_⟩ <;> simp [ordered, staleLot, State.reset]

/-- The state that removing the lot leaves. -/
def staleLotRemoved : State := (removeLot 0 0 staleLot.opened).state

/-- The state that amending the lot to 1 nL leaves. -/
def staleLotAmended : State := (amendLot 1 1 staleLot.opened).state

/-- Withdrawing the job overtakes the commit point that waits, whose group takes up lot 1 and writes the outdated image of
lot 2. -/
theorem staleLot_not_commits {u : State} (p : Port) (changed : u.image (.lot 1) ≠ staleLot.image (.lot 1))
    (behind : u.store.behind = []) (none : u.store.changed = [])
    (stale : ∀ w ∈ u.store.inHand, w.key = .lot 2 → w.image ≠ u.image (.lot 2)) :
    ¬ staleLot.commits (u.closed staleLot p) (.lot 1) := by
  have same := u.closed_image staleLot p
  refine State.not_commits_of_stale (u := .lot 2) (by rwa [same]) behind (by decide) rfl ?_ fun w hw hk => ?_
  · show RecKey.lot 2 ∉ u.store.changed
    rw [none]
    exact List.not_mem_nil
  · rw [same]; exact stale w hw hk

theorem staleLotRemoved_not_commits (p : Port) : ¬ staleLot.commits (staleLotRemoved.closed staleLot p) (.lot 1) :=
  staleLot_not_commits p (by decide) rfl rfl (by decide)

theorem staleLotAmended_not_commits (p : Port) : ¬ staleLot.commits (staleLotAmended.closed staleLot p) (.lot 1) :=
  staleLot_not_commits p (by decide) rfl rfl (by decide)

/-- Refutes O23: where a commit point that an earlier handling left waiting holds an outdated image of an unsaved lot,
REMOVE LOT hands that image and not the lot's own. -/
theorem not_removeLotEmptiesTheSlot : ¬ Obligations.RemoveLotEmptiesTheSlot := by
  unfold Obligations.RemoveLotEmptiesTheSlot
  intro h
  obtain ⟨t, e, -, -, -, -, -, -, -, committed, -⟩ :=
    ((h staleLot 0 ⟨rfl, rfl⟩ staleLot_sound).2 0 .A).2 (plainLot 1 (some .A)) rfl (by decide)
  obtain ⟨p, leaves, -⟩ := exec_taken (s := staleLot) ⟨rfl, rfl⟩ (i := .removeLot 0 0 0) (u := staleLotRemoved) rfl rfl rfl
  obtain rfl := Host.Outcome.next.inj (e.symm.trans leaves)
  exact staleLotRemoved_not_commits p committed

/-- Refutes O24, in the same way with AMEND LOT. -/
theorem not_amendLotBooksTheDifference : ¬ Obligations.AmendLotBooksTheDifference := by
  unfold Obligations.AmendLotBooksTheDifference
  intro h
  obtain ⟨t, e, -, -, committed, -⟩ :=
    (h staleLot 0 1 1 ⟨rfl, rfl⟩ staleLot_sound).2.2 (plainLot 1 (some .A)) (by decide) rfl
  obtain ⟨p, leaves, -⟩ := exec_taken (s := staleLot) ⟨rfl, rfl⟩ (i := .amendLot 0 1 1) (u := staleLotAmended) rfl rfl rfl
  obtain rfl := Host.Outcome.next.inj (e.symm.trans leaves)
  exact staleLotAmended_not_commits p committed

end Sys2Proof.Machine
end

-- ==== Sys2Proof/Proofs/gathered ====
section
/-!
The tables that a restore gathers from the images of the store (R207), for O58.
-/

namespace Sys2Proof.Machine

/-! ### A table gathered record by record -/

/-- The table of these records, later ones in the place of earlier ones with their key. -/
def gathered {α : Type} (key : α → Nat) (l : List α) : List α := l.foldl (fun t x => insertBy key x t) []

section
variable {α : Type} {key : α → Nat} {l : List α} {a : α}

theorem gathered_ordered (key : α → Nat) (l : List α) : ordered key (gathered key l) :=
  foldl_ordered _ (fun _ _ h => insertBy_ordered h) l List.Pairwise.nil

theorem find_foldl_insertBy {t : List α} (h : ordered key t) (n : Nat) :
    (l.foldl (fun t x => insertBy key x t) t).find? (fun x => key x == n) =
      (l.reverse.find? fun x => key x == n).or (t.find? fun x => key x == n) := by
  induction l generalizing t with
  | nil => rfl
  | cons x l ih =>
    rw [List.foldl_cons, ih (insertBy_ordered h), List.reverse_cons, List.find?_append, Option.or_assoc]
    congr 1
    by_cases e : n = key x
    · subst e
      rw [find_insertBy_self h]
      simp
    · rw [find_insertBy_ne e, List.find?_singleton, if_neg (by simpa using Ne.symm e), Option.none_or]

/-- The last record of a key is the one in the table. -/
theorem find_gathered (l : List α) (n : Nat) :
    (gathered key l).find? (fun x => key x == n) = l.reverse.find? fun x => key x == n := by
  unfold gathered
  rw [find_foldl_insertBy List.Pairwise.nil]
  simp

theorem mem_of_gathered (h : a ∈ gathered key l) : a ∈ l := by
  have found := (gathered_ordered key l).find_of_mem h
  rw [find_gathered] at found
  exact List.mem_reverse.mp (List.mem_of_find?_eq_some found)

/-- A record whose key no other record has is in the table. -/
theorem gathered_of_unique (h : a ∈ l) (one : ∀ b ∈ l, key b = key a → b = a) :
    (gathered key l).find? (fun x => key x == key a) = some a := by
  rw [find_gathered]
  cases found : l.reverse.find? fun x => key x == key a with
  | none => exact absurd (List.find?_eq_none.mp found a (List.mem_reverse.mpr h)) (by simp)
  | some b =>
    rw [one b (List.mem_reverse.mp (List.mem_of_find?_eq_some found)) (by simpa using List.find?_some found)]

/-- With every key once, the table is the list in the order of the keys. -/
theorem gathered_perm (h : (l.map key).Nodup) : (gathered key l).Perm l := by
  have apart : (gathered key l).Nodup := (gathered_ordered key l).imp fun h e => absurd (congrArg key e) h.ne
  refine (List.perm_ext_iff_of_nodup apart (List.Nodup.of_map _ h)).mpr fun a => ⟨mem_of_gathered, fun ha => ?_⟩
  exact List.mem_of_find?_eq_some (gathered_of_unique ha fun b hb e => List.inj_on_of_nodup_map h hb ha e)

end

/-- A table gathered from those of a list's entries that are records of it. -/
theorem foldl_gathered {α β : Type} {key : α → Nat} (pick : β → Option α) (f : List α → β → List α)
    (h : ∀ t b, f t b = ((pick b).map fun x => insertBy key x t).getD t) (l : List β) :
    l.foldl f [] = gathered key (l.filterMap pick) := by
  unfold gathered
  generalize ([] : List α) = t
  induction l generalizing t with
  | nil => rfl
  | cons b l ih =>
    rw [List.foldl_cons, ih, h, List.filterMap_cons]
    cases pick b <;> rfl

/-! ### The tables of the store (R50, R128, R172, R27) -/

def Image.job? : Image → Option Job
  | .job j => some j
  | _ => none

def Image.lot? : Image → Option Lot
  | .lot l => some l
  | _ => none

def Image.roll? : Image → Option Roll
  | .roll r => some r
  | _ => none

def Image.edition? : Image → Option Edition
  | .edition e => some e
  | _ => none

theorem Image.job?_iff {i : Image} {j : Job} : i.job? = some j ↔ i = .job j := by cases i <;> simp [Image.job?]
theorem Image.lot?_iff {i : Image} {l : Lot} : i.lot? = some l ↔ i = .lot l := by cases i <;> simp [Image.lot?]
theorem Image.roll?_iff {i : Image} {r : Roll} : i.roll? = some r ↔ i = .roll r := by cases i <;> simp [Image.roll?]
theorem Image.edition?_iff {i : Image} {e : Edition} : i.edition? = some e ↔ i = .edition e := by
  cases i <;> simp [Image.edition?]

/-- The records of one kind among the images of the store. -/
def Store.held {α : Type} (st : Store) (pick : Image → Option α) : List α := st.images.filterMap fun p => pick p.2

theorem Store.mem_held {α : Type} {st : Store} {pick : Image → Option α} {make : α → Image}
    (h : ∀ {i a}, pick i = some a ↔ i = make a) {a : α} : a ∈ st.held pick ↔ ∃ k, (k, make a) ∈ st.images := by
  unfold Store.held
  rw [List.mem_filterMap]
  constructor
  · rintro ⟨⟨k, i⟩, hp, e⟩
    exact ⟨k, h.mp e ▸ hp⟩
  · rintro ⟨k, hk⟩
    exact ⟨_, hk, h.mpr rfl⟩

theorem Store.storedJobs_eq (st : Store) : st.storedJobs = gathered Job.tag (st.held Image.job?) := by
  unfold Store.storedJobs
  exact foldl_gathered (fun p : RecKey × Image => p.2.job?) _ (fun t p => by cases p.2 <;> rfl) _

theorem Store.held_map {α : Type} (st : Store) (pick : Image → Option α) (f : α → α) :
    st.images.filterMap (fun p => (pick p.2).map f) = (st.held pick).map f := by
  unfold Store.held
  rw [List.map_filterMap]

theorem Store.restoreLots_eq (st : Store) : st.restoreLots = gathered Lot.code ((st.held Image.lot?).map st.restoreLot) := by
  unfold Store.restoreLots
  rw [← st.held_map]
  exact foldl_gathered (fun p : RecKey × Image => p.2.lot?.map st.restoreLot) _ (fun t p => by cases p.2 <;> rfl) _

theorem Store.restoreRolls_eq (st : Store) : st.restoreRolls = gathered Roll.id ((st.held Image.roll?).map st.restoreRoll) := by
  unfold Store.restoreRolls
  rw [← st.held_map]
  exact foldl_gathered (fun p : RecKey × Image => p.2.roll?.map st.restoreRoll) _ (fun t p => by cases p.2 <;> rfl) _

/-- An edition as restored (R172). -/
def Edition.restored (e : Edition) : Edition := { e with stale := false }

theorem Store.restoreEditions_eq (st : Store) :
    st.restoreEditions = gathered Edition.id ((st.held Image.edition?).map Edition.restored) := by
  unfold Store.restoreEditions
  rw [← st.held_map]
  exact foldl_gathered (fun p : RecKey × Image => p.2.edition?.map Edition.restored) _ (fun t p => by cases p.2 <;> rfl) _

section
variable {α : Type} {key : α → Nat} {st : Store} {pick : Image → Option α} {make : α → Image} {f : α → α} {a : α}

/-- A restored record whose key no other one in the store has. -/
theorem Store.find_restored (h : ∀ {i a}, pick i = some a ↔ i = make a) (hf : ∀ a, key (f a) = key a) {k : RecKey}
    (ha : (k, make a) ∈ st.images) (one : ∀ k' b, (k', make b) ∈ st.images → key b = key a → b = a) :
    (gathered key ((st.held pick).map f)).find? (fun x => key x == key a) = some (f a) := by
  rw [← hf a]
  refine gathered_of_unique (List.mem_map_of_mem ((Store.mem_held h).mpr ⟨k, ha⟩)) fun b hb e => ?_
  obtain ⟨c, hc, rfl⟩ := List.mem_map.mp hb
  obtain ⟨k', hk'⟩ := (Store.mem_held h).mp hc
  rw [one k' c hk' (by rw [← hf c, e, hf])]

/-- Every restored record is that of an image in the store. -/
theorem Store.mem_restored (h : ∀ {i a}, pick i = some a ↔ i = make a) {x : α}
    (hx : x ∈ gathered key ((st.held pick).map f)) : ∃ k b, (k, make b) ∈ st.images ∧ x = f b := by
  obtain ⟨b, hb, rfl⟩ := List.mem_map.mp (mem_of_gathered hx)
  obtain ⟨k, hk⟩ := (Store.mem_held h).mp hb
  exact ⟨k, b, hk, rfl⟩
end

end Sys2Proof.Machine
end

-- ==== Sys2Proof/Proofs/reread ====
section
/-!
What a restore reads back before it treats the jobs (R49, R50, R100, R128, R153, R172, R178, R190, R205, R207), for O58.
-/

namespace Sys2Proof.Machine

/-! ### The stages of the reading -/

/-- The tables and the channels, read back. -/
def State.readTables (s : State) : State :=
  { s.blank with
    lots := s.store.restoreLots, rolls := s.store.restoreRolls, editions := s.store.restoreEditions
    channels := Vector.ofFn fun c =>
      { s.store.channel c with slots := (s.store.channel c).slots.restore s.store.restoreLots }
    jobs := s.store.storedJobs }

def Store.readPlan (st : Store) (s : State) : State :=
  match st.standing .plan with
  | some (.plan p) => { s with check := { s.check with plan := p } }
  | _ => s

def Store.readGeometry (st : Store) (s : State) : State :=
  match st.standing .geometry with
  | some (.geometry g) => { s with media := { s.media with geometry := g } }
  | _ => s

def Store.readStripMode (st : Store) (s : State) : State :=
  match st.standing .stripMode with
  | some (.stripMode m) => { s with stripMode := m }
  | _ => s

def Store.readPrices (st : Store) (s : State) : State :=
  match st.standing .prices with
  | some (.prices t) => { s with prices := t, pricesBad := decide (checksumOf t.entries ≠ t.checksum) }
  | _ => s

def Store.readCounters (st : Store) (s : State) : State :=
  match st.standing .counters with
  | some (.counters n d o) => { s with seqCounter := n, day := d, overhead := o }
  | _ => s

theorem State.rebuildRecords_eq (s : State) : s.rebuildRecords =
    s.store.readCounters (s.store.readPrices (s.store.readStripMode (s.store.readGeometry (s.store.readPlan s.readTables)))) :=
  rfl

section
variable (st : Store) (s : State)

theorem Store.readPlan_within : s.within [.check] (st.readPlan s) := by
  unfold Store.readPlan
  split
  · intro f hf; cases f <;> first | rfl | exact absurd (by decide) hf
  · exact s.within_refl _

theorem Store.readGeometry_within : s.within [.media] (st.readGeometry s) := by
  unfold Store.readGeometry
  split
  · intro f hf; cases f <;> first | rfl | exact absurd (by decide) hf
  · exact s.within_refl _

theorem Store.readStripMode_within : s.within [.stripMode] (st.readStripMode s) := by
  unfold Store.readStripMode
  split
  · intro f hf; cases f <;> first | rfl | exact absurd (by decide) hf
  · exact s.within_refl _

theorem Store.readPrices_within : s.within [.prices, .pricesBad] (st.readPrices s) := by
  unfold Store.readPrices
  split
  · intro f hf; cases f <;> first | rfl | exact absurd (by decide) hf
  · exact s.within_refl _

theorem Store.readCounters_within : s.within [.seqCounter, .day, .overhead] (st.readCounters s) := by
  unfold Store.readCounters
  split
  · intro f hf; cases f <;> first | rfl | exact absurd (by decide) hf
  · exact s.within_refl _
end

/-- The part once a restore has read its records back (stages 1 to 4), with the channel states found. -/
def State.reread (s : State) : State := s.rebuildRecords.rebuildChannels

/-- The fields that a restore reads back. -/
def storeFields : List Field :=
  [.lots, .rolls, .editions, .channels, .jobs, .check, .media, .stripMode, .prices, .pricesBad, .seqCounter, .day, .overhead]

section
variable {s : State}

theorem State.rebuildChannels_within : s.within [.channels] s.rebuildChannels := by
  intro f hf; cases f <;> first | rfl | exact absurd (by decide) hf

/-- Which of the stages write a field. -/
theorem State.reread_within : (s.store.readPlan s.readTables).within
      [.media, .stripMode, .prices, .pricesBad, .seqCounter, .day, .overhead, .channels] s.reread ∧
    (s.store.readGeometry (s.store.readPlan s.readTables)).within
      [.stripMode, .prices, .pricesBad, .seqCounter, .day, .overhead, .channels] s.reread ∧
    (s.store.readStripMode (s.store.readGeometry (s.store.readPlan s.readTables))).within
      [.prices, .pricesBad, .seqCounter, .day, .overhead, .channels] s.reread ∧
    (s.store.readPrices (s.store.readStripMode (s.store.readGeometry (s.store.readPlan s.readTables)))).within
      [.seqCounter, .day, .overhead, .channels] s.reread ∧
    s.rebuildRecords.within [.channels] s.reread := by
  have h5 : s.rebuildRecords.within [.channels] s.reread := State.rebuildChannels_within
  have h4 : (s.store.readPrices (s.store.readStripMode (s.store.readGeometry (s.store.readPlan s.readTables)))).within
      [.seqCounter, .day, .overhead, .channels] s.reread :=
    ((Store.readCounters_within _ _).mono (by decide)).trans (h5.mono (by decide))
  have h3 : (s.store.readStripMode (s.store.readGeometry (s.store.readPlan s.readTables))).within
      [.prices, .pricesBad, .seqCounter, .day, .overhead, .channels] s.reread :=
    ((Store.readPrices_within _ _).mono (by decide)).trans (h4.mono (by decide))
  have h2 : (s.store.readGeometry (s.store.readPlan s.readTables)).within
      [.stripMode, .prices, .pricesBad, .seqCounter, .day, .overhead, .channels] s.reread :=
    ((Store.readStripMode_within _ _).mono (by decide)).trans (h3.mono (by decide))
  exact ⟨((Store.readGeometry_within _ _).mono (by decide)).trans (h2.mono (by decide)), h2, h3, h4, h5⟩

theorem State.readTables_within : s.readTables.within
    [.check, .media, .stripMode, .prices, .pricesBad, .seqCounter, .day, .overhead, .channels] s.reread :=
  ((Store.readPlan_within _ _).mono (by decide)).trans (State.reread_within.1.mono (by decide))

theorem State.reread_blank : s.blank.within storeFields s.reread := by
  have first : s.blank.within storeFields s.readTables := fun f hf => by
    cases f <;> first | rfl | exact absurd (by decide) hf
  exact first.trans (State.readTables_within.mono (by decide))

theorem State.reread_rebuilt : s.rebuilt s.reread := s.rebuildChannels_rebuilt

theorem State.readTables_strip : s.readTables.within [.check, .media, .stripMode]
    (s.store.readStripMode (s.store.readGeometry (s.store.readPlan s.readTables))) :=
  ((Store.readPlan_within s.store s.readTables).next [.check, .media] (Store.readGeometry_within _ _)).next
    [.check, .media, .stripMode] (Store.readStripMode_within _ _)

/-! ### The fixed records -/

theorem State.reread_plan : s.reread.check = (s.store.readPlan s.readTables).check := State.reread_within.1 .check (by decide)

theorem State.reread_geometry : s.reread.media = (s.store.readGeometry (s.store.readPlan s.readTables)).media :=
  State.reread_within.2.1 .media (by decide)

theorem State.readPlan_media : (s.store.readPlan s.readTables).media = State.reset.media :=
  (Store.readPlan_within _ _) .media (by decide)

theorem State.reread_check : s.reread.check = { State.reset.check with plan := s.reread.check.plan } := by
  rw [State.reread_plan]
  unfold Store.readPlan
  split <;> rfl

theorem State.reread_plan_some {p : CheckPlan} (h : s.store.standing .plan = some (.plan p)) : s.reread.check.plan = p := by
  rw [State.reread_plan]
  unfold Store.readPlan
  rw [h]

theorem State.reread_plan_none (h : s.store.standing .plan = none) : s.reread.check.plan = State.reset.check.plan := by
  rw [State.reread_plan]
  unfold Store.readPlan
  rw [h]
  rfl

theorem State.reread_media : s.reread.media = { State.reset.media with geometry := s.reread.media.geometry } := by
  rw [State.reread_geometry]
  unfold Store.readGeometry
  split
  · rename_i g _
    exact congrArg (fun m : Media => { m with geometry := g }) State.readPlan_media
  · rw [State.readPlan_media]

theorem State.reread_geometry_some {g : Geometry} (h : s.store.standing .geometry = some (.geometry g)) :
    s.reread.media.geometry = g := by
  rw [State.reread_geometry]
  unfold Store.readGeometry
  rw [h]

theorem State.reread_geometry_none (h : s.store.standing .geometry = none) :
    s.reread.media.geometry = State.reset.media.geometry := by
  rw [State.reread_geometry]
  unfold Store.readGeometry
  rw [h]
  exact congrArg Media.geometry State.readPlan_media

theorem State.reread_stripMode {m : StripMode} (h : s.store.standing .stripMode = some (.stripMode m)) :
    s.reread.stripMode = m := by
  rw [State.reread_within.2.2.1 .stripMode (by decide)]
  unfold Store.readStripMode
  rw [h]

theorem State.reread_stripMode_none (h : s.store.standing .stripMode = none) : s.reread.stripMode = .job := by
  rw [State.reread_within.2.2.1 .stripMode (by decide)]
  unfold Store.readStripMode
  rw [h]
  exact (((Store.readGeometry_within _ _) .stripMode (by decide)).trans ((Store.readPlan_within _ _) .stripMode (by decide)) :
    _ = s.readTables.stripMode)

/-- The start-up Price Table has its checksum. -/
theorem checksumOf_reset : checksumOf State.reset.prices.entries = State.reset.prices.checksum := by decide

theorem State.reread_prices_some {p : PriceTable} (h : s.store.standing .prices = some (.prices p)) :
    s.reread.prices = p ∧ s.reread.pricesBad = decide (checksumOf p.entries ≠ p.checksum) := by
  obtain ⟨-, -, -, read, -⟩ := State.reread_within (s := s)
  rw [read .prices (by decide), read .pricesBad (by decide)]
  unfold Store.readPrices
  rw [h]
  exact ⟨rfl, rfl⟩

theorem State.reread_prices_other (h : ∀ p, s.store.standing .prices ≠ some (.prices p)) :
    s.reread.prices = State.reset.prices ∧ s.reread.pricesBad = false := by
  obtain ⟨-, -, -, read, -⟩ := State.reread_within (s := s)
  rw [read .prices (by decide), read .pricesBad (by decide)]
  have before := State.readTables_strip (s := s)
  unfold Store.readPrices
  split
  · rename_i p e; exact absurd e (h p)
  · exact ⟨before .prices (by decide), before .pricesBad (by decide)⟩

theorem State.reread_pricesBad :
    s.reread.pricesBad = decide (checksumOf s.reread.prices.entries ≠ s.reread.prices.checksum) := by
  by_cases h : ∃ p, s.store.standing .prices = some (.prices p)
  · obtain ⟨p, h⟩ := h
    obtain ⟨prices, bad⟩ := State.reread_prices_some h
    rw [bad, prices]
  · obtain ⟨prices, bad⟩ := State.reread_prices_other (s := s) (not_exists.mp h)
    rw [bad, prices, checksumOf_reset]
    simp

theorem State.reread_counters {n d : Nat} {o : Overhead} (h : s.store.standing .counters = some (.counters n d o)) :
    s.reread.seqCounter = n ∧ s.reread.day = d ∧ s.reread.overhead = o := by
  obtain ⟨-, -, -, -, read⟩ := State.reread_within (s := s)
  rw [read .seqCounter (by decide), read .day (by decide), read .overhead (by decide), State.rebuildRecords_eq]
  unfold Store.readCounters
  rw [h]
  exact ⟨rfl, rfl, rfl⟩

theorem State.reread_counters_none (h : s.store.standing .counters = none) :
    s.reread.seqCounter = 0 ∧ s.reread.day = 0 ∧ s.reread.overhead = ⟨0, 0, 0, 0⟩ := by
  obtain ⟨-, -, -, -, read⟩ := State.reread_within (s := s)
  rw [read .seqCounter (by decide), read .day (by decide), read .overhead (by decide), State.rebuildRecords_eq]
  have before := State.readTables_strip.next [.check, .media, .stripMode, .prices, .pricesBad]
    (Store.readPrices_within s.store (s.store.readStripMode (s.store.readGeometry (s.store.readPlan s.readTables))))
  unfold Store.readCounters
  rw [h]
  exact ⟨before .seqCounter (by decide), before .day (by decide), before .overhead (by decide)⟩

/-! ### The channels -/

theorem State.rebuildRecords_chan (c : Chan) : s.rebuildRecords.chan c =
    { s.store.channel c with slots := (s.store.channel c).slots.restore s.store.restoreLots } := by
  have same : s.rebuildRecords.channels = s.readTables.channels :=
    (((State.readTables_strip.next [.check, .media, .stripMode, .prices, .pricesBad] (Store.readPrices_within _ _)).next
      [.check, .media, .stripMode, .prices, .pricesBad, .seqCounter, .day, .overhead] (Store.readCounters_within _ _))
      .channels (by decide))
  unfold State.chan
  rw [same]
  exact Vector.get_ofFn ..

theorem State.rebuildChannels_chan (c : Chan) : s.rebuildChannels.chan c =
    { s.chan c with
      state := channelStateOf (s.remainingTotal c) (s.chan c).cfg.reserve
      expired := ((s.activeLot c).map Lot.expired).getD false } := Vector.get_ofFn ..

theorem State.reread_chan (c : Chan) : s.reread.chan c =
    { s.store.channel c with
      slots := (s.store.channel c).slots.restore s.store.restoreLots
      state := (s.reread.chan c).state, expired := (s.reread.chan c).expired } := by
  unfold State.reread
  rw [State.rebuildChannels_chan, State.rebuildRecords_chan]

/-- The channel states and expired flags fit the lots and slots restored (R29, R47, R49). -/
theorem State.reread_state (c : Chan) :
    (s.reread.chan c).state = channelStateOf (s.reread.remainingTotal c) (s.reread.chan c).cfg.reserve ∧
      (s.reread.chan c).expired = ((s.reread.activeLot c).map Lot.expired).getD false := by
  have now := State.rebuildChannels_chan (s := s.rebuildRecords) c
  have slots : (s.reread.chan c).slots = (s.rebuildRecords.chan c).slots := by
    unfold State.reread; rw [now]
  have cfg : (s.reread.chan c).cfg = (s.rebuildRecords.chan c).cfg := by
    unfold State.reread; rw [now]
  have lotIn : ∀ p, s.reread.lotIn c p = s.rebuildRecords.lotIn c p := fun p => by
    unfold State.lotIn; rw [slots]; rfl
  have total : s.reread.remainingTotal c = s.rebuildRecords.remainingTotal c := by
    unfold State.remainingTotal State.slotVolume; rw [lotIn, lotIn]
  have active : s.reread.activeLot c = s.rebuildRecords.activeLot c := by
    unfold State.activeLot; rw [slots]; simp only [lotIn]
  rw [total, cfg, active]
  unfold State.reread
  rw [now]
  exact ⟨rfl, rfl⟩

/-- The fixed fields and the segments of a channel as the store holds them. -/
def Store.channelBase (st : Store) (c : Chan) : Channel :=
  match st.standing (.channel c) with
  | some (.channel cfg segs) => { cfg := cfg, segments := Vector.ofFn fun i => (segs.get i).restore }
  | _ => {}

/-- A channel with the slot fields as the store holds them. -/
def Store.withSlots (st : Store) (c : Chan) (ch : Channel) : Channel :=
  match st.standing (.slots c) with
  | some (.slots r) => { ch with slots := r }
  | _ => ch

theorem Store.channel_read (st : Store) (c : Chan) : st.channel c = st.withSlots c (st.channelBase c) := rfl

theorem Store.channel_some {st : Store} {c : Chan} {r : SlotRecord} (h : st.standing (.slots c) = some (.slots r)) :
    st.channel c = { st.channelBase c with slots := r } := by
  rw [Store.channel_read]
  unfold Store.withSlots
  rw [h]

theorem Store.channel_other {st : Store} {c : Chan} (h : ∀ r, st.standing (.slots c) ≠ some (.slots r)) :
    st.channel c = st.channelBase c := by
  rw [Store.channel_read]
  unfold Store.withSlots
  split
  · rename_i r e; exact absurd e (h r)
  · rfl

theorem Store.channel_eq (st : Store) (c : Chan) : st.channel c = { st.channelBase c with slots := (st.channel c).slots } := by
  by_cases h : ∃ r, st.standing (.slots c) = some (.slots r)
  · obtain ⟨r, h⟩ := h
    rw [Store.channel_some h]
  · rw [Store.channel_other (not_exists.mp h)]

theorem SegmentImage.restore_idle (g : SegmentImage) : g.restore.fault = .ok ∧ g.restore.spare ≠ .soft := by
  refine ⟨rfl, ?_⟩
  unfold SegmentImage.restore
  dsimp only
  split <;> simp

theorem Store.channelBase_idle (st : Store) (c : Chan) : (st.channelBase c).reserved = 0 ∧ (st.channelBase c).residue = 0 ∧
    (st.channelBase c).slots = ⟨none, none, none⟩ ∧
    ∀ i, ((st.channelBase c).segments.get i).fault = .ok ∧ ((st.channelBase c).segments.get i).spare ≠ .soft := by
  have blank : ∀ i : Fin 4, (Vector.replicate 4 ({} : Segment)).get i = {} := fun i => by simp [Vector.get]
  unfold Store.channelBase
  split
  · rename_i cfg segs _
    refine ⟨rfl, rfl, rfl, fun i => ?_⟩
    show ((Vector.ofFn fun i => (segs.get i).restore).get i).fault = _ ∧ _
    dsimp only
    rw [Vector.get_ofFn]
    exact (segs.get i).restore_idle
  · refine ⟨rfl, rfl, rfl, fun i => ?_⟩
    show ((Vector.replicate 4 ({} : Segment)).get i).fault = _ ∧ ((Vector.replicate 4 ({} : Segment)).get i).spare ≠ _
    rw [blank]
    exact ⟨rfl, by decide⟩

theorem Store.channelBase_some {st : Store} {c : Chan} {cfg : ChannelConfig} {segs : Vector SegmentImage 4}
    (h : st.standing (.channel c) = some (.channel cfg segs)) : (st.channelBase c).cfg = cfg ∧
      ∀ i, (st.channelBase c).segments.get i = (segs.get i).restore := by
  unfold Store.channelBase
  rw [h]
  exact ⟨rfl, fun i => Vector.get_ofFn ..⟩

theorem Store.channelBase_none {st : Store} {c : Chan} (h : st.standing (.channel c) = none) : st.channelBase c = {} := by
  unfold Store.channelBase
  rw [h]

theorem Store.channel_slots {st : Store} {c : Chan} {r : SlotRecord}
    (h : st.standing (.slots c) = some (.slots r) ∨ (st.standing (.slots c) = none ∧ r = ⟨none, none, none⟩)) :
    (st.channel c).slots = r := by
  rcases h with h | ⟨h, rfl⟩
  · rw [Store.channel_some h]
  · rw [Store.channel_other fun r e => absurd (h.symm.trans e) (by simp)]
    exact (st.channelBase_idle c).2.2.1
end

/-! ### The slot fields (R205) -/

section
variable {lots : List Lot} {r : SlotRecord} {p : TankSlot} {n : Nat}

theorem keepPresent_iff {code : Option Nat} : keepPresent lots code = some n ↔
    code = some n ∧ lots.find? (fun l => l.code == n) ≠ none := by
  unfold keepPresent
  rw [Option.filter_eq_some_iff]
  refine and_congr_right fun _ => ?_
  rw [List.any_eq_true, Ne, List.find?_eq_none]
  simp

theorem SlotRecord.at_active (r : SlotRecord) (a : Option TankSlot) (p : TankSlot) :
    ({ r with active := a } : SlotRecord).at p = r.at p := by cases p <;> rfl

/-- The slot record with the lots that are gone taken out, before its active slot moves. -/
def SlotRecord.kept (lots : List Lot) (r : SlotRecord) : SlotRecord :=
  { r with slotA := keepPresent lots r.slotA, slotB := keepPresent lots r.slotB }

theorem SlotRecord.restore_none (h : r.active = none) : r.restore lots = r.kept lots := by
  obtain ⟨a, b, c⟩ := r
  cases h
  rfl

theorem SlotRecord.restore_some (h : r.active = some p) : r.restore lots =
    if ((r.kept lots).at p).isSome then r.kept lots
    else { r.kept lots with active := if holdsLoaded lots ((r.kept lots).at p.other) then some p.other else none } := by
  obtain ⟨a, b, c⟩ := r
  cases h
  rfl

theorem SlotRecord.restore_kept (q : TankSlot) : (r.restore lots).at q = (r.kept lots).at q := by
  cases h : r.active with
  | none => rw [SlotRecord.restore_none h]
  | some p =>
    rw [SlotRecord.restore_some h]
    split
    · rfl
    · exact SlotRecord.at_active _ _ _

/-- A slot names the lots that are there (R205). -/
theorem SlotRecord.restore_at : (r.restore lots).at p = some n ↔
    r.at p = some n ∧ lots.find? (fun l => l.code == n) ≠ none := by
  rw [SlotRecord.restore_kept]
  cases p <;> exact keepPresent_iff

theorem SlotRecord.restore_stays (h : r.active = some p) (hp : (r.restore lots).at p ≠ none) :
    (r.restore lots).active = some p := by
  rw [SlotRecord.restore_kept] at hp
  rw [SlotRecord.restore_some h, if_pos (Option.isSome_iff_ne_none.mpr hp)]
  exact h

theorem SlotRecord.restore_moves (h : r.active = some p) (hp : (r.restore lots).at p = none) :
    (r.restore lots).active = if holdsLoaded lots ((r.restore lots).at p.other) then some p.other else none := by
  rw [SlotRecord.restore_kept] at hp
  rw [SlotRecord.restore_kept, SlotRecord.restore_some h, if_neg (by rw [hp]; simp)]

/-- A slot holds a LOADED lot of a table in key order. -/
theorem holdsLoaded_iff (ho : ordered Lot.code lots) {code : Option Nat} : holdsLoaded lots code = true ↔
    ((code.bind fun n => lots.find? fun l => l.code == n).map Lot.state) = some .loaded := by
  unfold holdsLoaded
  cases code with
  | none => simp
  | some n =>
    rw [Option.map_some, Option.getD_some, Option.bind_some, List.any_eq_true]
    constructor
    · rintro ⟨l, hl, h⟩
      simp only [Bool.and_eq_true, beq_iff_eq] at h
      obtain ⟨rfl, state⟩ := h
      rw [ho.find_of_mem hl, Option.map_some, state]
    · intro h
      obtain ⟨l, hl, state⟩ := Option.map_eq_some_iff.mp h
      refine ⟨l, List.mem_of_find?_eq_some hl, ?_⟩
      simpa [state] using List.find?_some hl
end

end Sys2Proof.Machine
end

-- ==== Sys2Proof/Proofs/restart ====
section
/-!
The jobs of a restore (R27, R167): what becomes of each, and of the accounts, for O58.
-/

namespace Sys2Proof.Machine

/-! ### Sums that saturate -/

theorem addedUpTo_append (top base : Nat) (a b : List Nat) :
    addedUpTo top (addedUpTo top base a) b = addedUpTo top base (a ++ b) := by
  unfold addedUpTo
  by_cases ha : a = [] <;> by_cases hb : b = []
  · simp [ha, hb]
  · simp [ha]
  · simp [hb]
  · simp only [if_neg hb, List.append_eq_nil_iff, ha, false_and, if_false, List.sum_append]
    omega

theorem addedUpTo_one (top base a : Nat) : addedUpTo top base [a] = satAdd top base a := by
  unfold addedUpTo satAdd
  rw [if_neg (by simp), List.sum_singleton, Nat.min_comm]

/-- The order of what is added does not matter. -/
theorem addedUpTo_perm {top base : Nat} {a b : List Nat} (h : a.Perm b) : addedUpTo top base a = addedUpTo top base b := by
  unfold addedUpTo
  rw [h.sum_eq]
  by_cases ha : a = []
  · subst ha; rw [if_pos rfl, if_pos h.nil_eq.symm]
  · rw [if_neg ha, if_neg fun hb => ha (by subst hb; exact h.eq_nil)]

/-! ### The record of a job after the restart (R27) -/

/-- A job was PRINTING or FINISHING. -/
def Job.underWay (j : Job) : Bool := j.state == .printing || j.state == .finishing

theorem Job.underWay_iff {j : Job} : j.underWay = true ↔ j.state = .printing ∨ j.state = .finishing := by
  unfold Job.underWay; simp

/-- A job that was ADMITTED is DEFERRED. -/
def Job.deferredAgain (j : Job) : Job := { j.unheld with state := .deferred, seqNo := none }

/-- The record of a job after the restart. -/
def State.afterRestart (s : State) (j : Job) : Job :=
  if j.underWay then s.costed (s.interrupted j) else if j.state = .admitted then j.deferredAgain else j

section
variable {s t : State} {j : Job}

theorem State.restoreJob_underWay (h : j.underWay = true) : s.restoreJob j = s.costAndCarry (s.interrupted j) := by
  unfold State.restoreJob
  rcases Job.underWay_iff.mp h with h | h <;> rw [h]

theorem State.restoreJob_admitted (h : j.state = .admitted) : s.restoreJob j = s.setJob j.deferredAgain := by
  unfold State.restoreJob; rw [h]; rfl

theorem State.restoreJob_same (h : j.underWay = false) (ha : j.state ≠ .admitted) : s.restoreJob j = s := by
  unfold State.restoreJob
  unfold Job.underWay at h
  cases e : j.state <;> simp_all

theorem State.interrupted_numbers (e : Edition) : e.numbers (s.interrupted j) = false := by
  unfold Edition.numbers
  have state : (s.interrupted j).state = .voided := rfl
  rw [state]
  simp

/-- What a restart reads of a state for one job: the lots, the rolls, the strip mode, and whether the edition is there. -/
def State.readsAlike (s t : State) (j : Job) : Prop :=
  t.lots = s.lots ∧ t.rolls = s.rolls ∧ t.stripMode = s.stripMode ∧
    ∀ id, j.spec.edition = some id → ((t.edition? id).isSome ↔ (s.edition? id).isSome)

theorem State.costOf_congr (hl : t.lots = s.lots) (hr : t.rolls = s.rolls) (hm : t.stripMode = s.stripMode) :
    t.costOf j = s.costOf j := by
  have lot : ∀ n, t.lotPrice n = s.lotPrice n := fun n => by unfold State.lotPrice State.lot?; rw [hl]
  have roll : ∀ n, t.rollRate n = s.rollRate n := fun n => by unfold State.rollRate State.roll?; rw [hr]
  unfold State.costOf State.jobInkSum State.inkSum State.jobLength State.setsAside
  simp only [lot, roll, hm]

theorem State.stripOverhead_congr (hl : t.lots = s.lots) (hr : t.rolls = s.rolls) (hm : t.stripMode = s.stripMode) :
    t.stripOverhead j = s.stripOverhead j := by
  have lot : ∀ n, t.lotPrice n = s.lotPrice n := fun n => by unfold State.lotPrice State.lot?; rw [hl]
  have roll : ∀ n, t.rollRate n = s.rollRate n := fun n => by unfold State.rollRate State.roll?; rw [hr]
  unfold State.stripOverhead State.inkSum State.setsAside
  simp only [lot, roll, hm]

/-- No edition numbers a voided job. -/
theorem State.interrupted_number : s.numberOf (s.interrupted j) =
    if ((j.spec.edition.bind s.edition?).isSome) then none else j.number := by
  have spec : (s.interrupted j).spec = j.spec := rfl
  unfold State.numberOf
  rw [spec]
  cases j.spec.edition.bind s.edition? with
  | none => rfl
  | some e => simp [State.interrupted_numbers]

theorem State.afterRestart_congr (h : s.readsAlike t j) : t.afterRestart j = s.afterRestart j := by
  obtain ⟨hl, hr, hm, he⟩ := h
  have uncertain : t.uncertainIn j = s.uncertainIn j := by
    unfold State.uncertainIn State.lot? State.roll?; rw [hl, hr]
  have job : t.interrupted j = s.interrupted j := by unfold State.interrupted; rw [uncertain]
  have unpriced : t.unpricedIn (s.interrupted j) = s.unpricedIn (s.interrupted j) := by
    unfold State.unpricedIn State.lot? State.roll?; rw [hl, hr]
  have found : (j.spec.edition.bind t.edition?).isSome ↔ (j.spec.edition.bind s.edition?).isSome := by
    cases hi : j.spec.edition with
    | none => rfl
    | some id => exact he id hi
  have number : t.numberOf (s.interrupted j) = s.numberOf (s.interrupted j) := by
    rw [State.interrupted_number, ← job, State.interrupted_number]
    simp only [found]
  unfold State.afterRestart State.costed
  rw [job, State.costOf_congr hl hr hm, number, unpriced]

theorem State.afterRestart_tag : (s.afterRestart j).tag = j.tag := by
  unfold State.afterRestart
  split
  · rfl
  · split <;> rfl
end

/-! ### The accounts (R167, R186, R187) -/

/-- What the jobs `l`, voided, leave of an edition that they name. -/
structure Edition.tolled (e x : Edition) (l : List Job) (total : Job → Nat) : Prop where
  record : x = { e with stale := x.stale, wasteTotal := x.wasteTotal, voided := x.voided }
  stale : e.stale = false → x.stale = false
  waste : x.wasteTotal = addedUpTo 281474976710655 e.wasteTotal ((l.filter fun j => j.spec.kind != .proof).map total)
  voided : x.voided = addedUpTo 65535 e.voided ((l.filter fun j => j.spec.kind == .edition).map fun _ => 1)

/-- What they leave of the overhead account. -/
structure State.tolled (s : State) (o x : Overhead) (l : List Job) : Prop where
  maintenance : x.maintenance = o.maintenance
  trims : x.trims = o.trims
  strips : x.strips = addedUpTo 18446744073709551615 o.strips (l.map s.stripOverhead)
  houseChecks : x.houseChecks = addedUpTo 18446744073709551615 o.houseChecks
    ((l.filter fun j => j.spec.kind == .check && j.spec.edition.isNone).map fun j => (s.costOf j).total * 1000000)

section
variable {s t : State} {j : Job} {e x y : Edition} {o p q : Overhead} {l m : List Job} {total : Job → Nat}

theorem Edition.tolled_refl (e : Edition) (total : Job → Nat) : e.tolled e [] total := ⟨rfl, fun h => h, rfl, rfl⟩

theorem Edition.tolled.trans (h : e.tolled x l total) (k : x.tolled y m total) : e.tolled y (l ++ m) total := by
  refine ⟨?_, k.stale ∘ h.stale, ?_, ?_⟩
  · rw [k.record, h.record]
  · rw [k.waste, h.waste, addedUpTo_append, List.filter_append, List.map_append]
  · rw [k.voided, h.voided, addedUpTo_append, List.filter_append, List.map_append]

/-- One voided job is carried to its edition (R167). -/
theorem Edition.settle_tolled : e.tolled (e.settle (s.interrupted j) (s.costOf j).total) [j] fun j => (s.costOf j).total := by
  have kind : (s.interrupted j).spec.kind = j.spec.kind := rfl
  have state : (s.interrupted j).state = .voided := rfl
  have numbers := State.interrupted_numbers (s := s) (j := j) e
  have frame := Edition.settle_frame (e := e) (j := s.interrupted j) (n := (s.costOf j).total)
  simp only [numbers, Bool.false_eq_true, false_and, if_false] at frame
  rw [frame]
  cases hk : j.spec.kind with
  | edition =>
    rw [Edition.charge_voided (kind.trans hk) state]
    refine ⟨rfl, fun _ => rfl, ?_, ?_⟩
    · rw [List.filter_cons_of_pos (by rw [hk]; rfl)]; exact (addedUpTo_one ..).symm
    · rw [List.filter_cons_of_pos (by rw [hk]; rfl)]; exact (addedUpTo_one ..).symm
  | check =>
    rw [Edition.charge_check (kind.trans hk)]
    refine ⟨rfl, fun _ => rfl, ?_, ?_⟩
    · rw [List.filter_cons_of_pos (by rw [hk]; rfl)]; exact (addedUpTo_one ..).symm
    · rw [List.filter_cons_of_neg (by rw [hk]; decide)]; rfl
  | proof =>
    rw [Edition.charge_proof (kind.trans hk)]
    refine ⟨rfl, fun _ => rfl, ?_, ?_⟩
    · rw [List.filter_cons_of_neg (by rw [hk]; decide)]; rfl
    · rw [List.filter_cons_of_neg (by rw [hk]; decide)]; rfl

theorem State.tolled_refl (s : State) (o : Overhead) : s.tolled o o [] := ⟨rfl, rfl, rfl, rfl⟩

theorem State.tolled.trans (h : s.tolled o p l) (k : s.tolled p q m) : s.tolled o q (l ++ m) := by
  refine ⟨k.maintenance.trans h.maintenance, k.trims.trans h.trims, ?_, ?_⟩
  · rw [k.strips, h.strips, addedUpTo_append, List.map_append]
  · rw [k.houseChecks, h.houseChecks, addedUpTo_append, List.filter_append, List.map_append]

/-- One voided job is carried to the accounts (R186, R187). -/
theorem State.chargedOverhead_tolled : s.tolled s.overhead (s.chargedOverhead (s.interrupted j)) [j] := by
  refine ⟨rfl, rfl, (addedUpTo_one ..).symm, ?_⟩
  by_cases h : j.spec.edition = none ∧ j.spec.kind = .check
  · rw [List.filter_cons_of_pos (by simp [h.1, h.2])]
    exact (if_pos h).trans (addedUpTo_one ..).symm
  · rw [List.filter_cons_of_neg (by rw [Bool.and_eq_true, beq_iff_eq, Option.isNone_iff_eq_none]; exact fun x => h x.symm)]
    exact if_neg h
end

/-! ### All the jobs of the store (stage 5) -/

/-- What is left where the jobs `l` of the store were taken into their states. -/
structure State.restarted (s t : State) (l : List Job) : Prop where
  job : ∀ j ∈ l, t.job? j.tag = some (s.afterRestart j)
  others : ∀ n, (∀ j ∈ l, j.tag ≠ n) → t.job? n = s.job? n
  edition : ∀ id e, s.edition? id = some e → ∃ x, t.edition? id = some x ∧
    e.tolled x ((l.filter Job.underWay).filter fun j => j.spec.edition == some id) fun j => (s.costOf j).total
  lost : ∀ id, s.edition? id = none → t.edition? id = none
  overhead : s.tolled s.overhead t.overhead (l.filter Job.underWay)
  tables : ordered Job.tag t.jobs ∧ ordered Edition.id t.editions
  frame : s.within [.jobs, .editions, .overhead, .store] t

section
variable {s t u : State} {j : Job} {l m : List Job}

theorem State.restarted_refl (hj : ordered Job.tag s.jobs) (he : ordered Edition.id s.editions) : s.restarted s [] :=
  ⟨fun _ h => absurd h (by simp), fun _ _ => rfl, fun _ e h => ⟨e, h, Edition.tolled_refl ..⟩, fun _ h => h, s.tolled_refl _,
    ⟨hj, he⟩, s.within_refl _⟩

theorem State.restarted.alike (h : s.restarted t l) (j : Job) : s.readsAlike t j := by
  refine ⟨h.frame .lots (by decide), h.frame .rolls (by decide), h.frame .stripMode (by decide), fun id _ => ?_⟩
  cases he : s.edition? id with
  | none => rw [h.lost id he]
  | some e => obtain ⟨x, hx, -⟩ := h.edition id e he; rw [hx]; simp

theorem State.restarted.costOf (h : s.restarted t l) (j : Job) : t.costOf j = s.costOf j :=
  State.costOf_congr (h.frame .lots (by decide)) (h.frame .rolls (by decide)) (h.frame .stripMode (by decide))

theorem State.restarted.stripOverhead (h : s.restarted t l) (j : Job) : t.stripOverhead j = s.stripOverhead j :=
  State.stripOverhead_congr (h.frame .lots (by decide)) (h.frame .rolls (by decide)) (h.frame .stripMode (by decide))

theorem State.restarted.trans (h : s.restarted t l) (k : t.restarted u m) (apart : ∀ i ∈ l, ∀ j ∈ m, i.tag ≠ j.tag) :
    s.restarted u (l ++ m) := by
  have cost : (fun j => (t.costOf j).total) = fun j => (s.costOf j).total := funext fun j => by rw [h.costOf]
  have strip : t.stripOverhead = s.stripOverhead := funext fun j => h.stripOverhead j
  refine ⟨fun j hj => ?_, fun n hn => ?_, fun id e he => ?_, fun id he => k.lost id (h.lost id he), ?_, k.tables,
    h.frame.trans k.frame⟩
  · rcases List.mem_append.mp hj with hj | hj
    · exact (k.others j.tag fun i hi e => apart j hj i hi e.symm).trans (h.job j hj)
    · rw [k.job j hj, State.afterRestart_congr (h.alike j)]
  · exact (k.others n fun j hj => hn j (List.mem_append_right _ hj)).trans (h.others n fun j hj => hn j (List.mem_append_left _ hj))
  · obtain ⟨x, hx, first⟩ := h.edition id e he
    obtain ⟨y, hy, next⟩ := k.edition id x hx
    rw [cost] at next
    refine ⟨y, hy, ?_⟩
    rw [List.filter_append, List.filter_append]
    exact first.trans next
  · have next : s.tolled t.overhead u.overhead (m.filter Job.underWay) := by
      obtain ⟨h1, h2, h3, h4⟩ := k.overhead
      refine ⟨h1, h2, by rw [h3, strip], ?_⟩
      rw [h4]
      simp only [h.costOf]
    rw [List.filter_append]
    exact h.overhead.trans next

/-- One job (R27). -/
theorem State.restoreJob_restarted (hj : ordered Job.tag s.jobs) (he : ordered Edition.id s.editions)
    (here : s.job? j.tag = some j) : s.restarted (s.restoreJob j) [j] := by
  have one : ∀ {P : Job → Prop}, P j → ∀ i ∈ [j], P i := fun h i hi => by rw [List.mem_singleton.mp hi]; exact h
  have ne : ∀ {n}, (∀ i ∈ [j], i.tag ≠ n) → n ≠ j.tag := fun h e => h j (by simp) e.symm
  by_cases h : j.underWay = true
  · have now : s.afterRestart j = s.costed (s.interrupted j) := if_pos h
    have alone : [j].filter Job.underWay = [j] := List.filter_cons_of_pos h
    rw [State.restoreJob_underWay h]
    refine ⟨one (by rw [now]; exact State.costAndCarry_job (j := s.interrupted j) hj),
      fun n hn => State.costAndCarry_job_ne (j := s.interrupted j) (ne hn), fun id e hid => ?_, fun id hid => ?_, ?_, ?_,
      State.costAndCarry_still⟩
    · rw [alone]
      by_cases hi : j.spec.edition = some id
      · refine ⟨_, State.costAndCarry_edition (j := s.interrupted j) he hi hid, ?_⟩
        rw [List.filter_cons_of_pos (by rw [hi]; exact beq_self_eq_true _)]
        exact Edition.settle_tolled
      · refine ⟨e, (State.costAndCarry_edition_ne (j := s.interrupted j) hi).trans hid, ?_⟩
        rw [List.filter_cons_of_neg (by simpa using hi)]
        exact Edition.tolled_refl ..
    · by_cases hi : j.spec.edition = some id
      · rw [State.costAndCarry_lost (j := s.interrupted j) hi hid, (State.setJob_within _ _).edition (by decide),
          State.stripCharged_within.edition (by decide)]
        exact hid
      · exact (State.costAndCarry_edition_ne (j := s.interrupted j) hi).trans hid
    · rw [alone, State.costAndCarry_overhead]
      exact State.chargedOverhead_tolled
    · have kept := s.costAndCarry_keeps (j := s.interrupted j) (by simp [State.interrupted])
      exact ⟨kept.jobs hj, kept.editions he⟩
  · have none : [j].filter Job.underWay = [] := List.filter_cons_of_neg h
    by_cases ha : j.state = .admitted
    · have now : s.afterRestart j = j.deferredAgain := (if_neg h).trans (if_pos ha)
      have frame := s.setJob_within j.deferredAgain
      rw [State.restoreJob_admitted ha]
      refine ⟨one (by rw [now]; exact State.job_setJob_self (x := j.deferredAgain) hj),
        fun n hn => State.job_setJob_ne (x := j.deferredAgain) (ne hn), fun id e hid => ⟨e, ?_, ?_⟩, fun id hid => ?_, ?_, ?_,
        frame.mono (by decide)⟩
      · rw [frame.edition (by decide)]; exact hid
      · rw [none]; exact Edition.tolled_refl ..
      · rw [frame.edition (by decide)]; exact hid
      · rw [none, frame .overhead (by decide)]; exact s.tolled_refl _
      · rw [State.setJob_jobs, frame .editions (by decide)]
        exact ⟨insertBy_ordered hj, he⟩
    · have now : s.afterRestart j = j := (if_neg h).trans (if_neg ha)
      rw [State.restoreJob_same (Bool.eq_false_iff.mpr h) ha]
      refine ⟨one (by rw [now]; exact here), fun _ _ => rfl, fun id e hid => ⟨e, hid, ?_⟩, fun _ hid => hid, ?_, ⟨hj, he⟩,
        s.within_refl _⟩
      · rw [none]; exact Edition.tolled_refl ..
      · rw [none]; exact s.tolled_refl _

/-- All of them, one after the other. -/
theorem State.restoreJobs_restarted (hj : ordered Job.tag s.jobs) (he : ordered Edition.id s.editions)
    (apart : l.Pairwise fun i j => i.tag ≠ j.tag) (here : ∀ j ∈ l, s.job? j.tag = some j) :
    s.restarted (l.foldl (fun s j => s.restoreJob j) s) l := by
  induction l generalizing s with
  | nil => exact State.restarted_refl hj he
  | cons j l ih =>
    obtain ⟨first, rest⟩ := List.pairwise_cons.mp apart
    have one := State.restoreJob_restarted hj he (here j List.mem_cons_self)
    refine one.trans (ih one.tables.1 one.tables.2 rest fun i hi => ?_) fun i hi k hk => ?_
    · refine (one.others i.tag fun k hk e => ?_).trans (here i (List.mem_cons_of_mem _ hi))
      rw [List.mem_singleton.mp hk] at e
      exact first i hi e
    · rw [List.mem_singleton.mp hi]
      exact first k hk
end

end Sys2Proof.Machine
end

-- ==== Sys2Proof/Proofs/flush ====
section
/-!
The end of a restore (R207, R208): its notices, and the flush with PFAIL asserted, for O58.
-/

namespace Sys2Proof.Machine

/-! ### The flush that begins at the end of a restore (R201, R208) -/

section
variable {s : State}

/-- A group that brings no image closes at once (R193). -/
theorem State.place_nothing {id : Nat} {regions : List Region} {ws : List Write} (h : s.brings regions ws = []) :
    s.place id regions ws = { s with store := { s.store with
      count := s.store.count + 1, closed := s.store.closed ++ [s.store.count + 1], lastDone := s.store.count + 1 } } :=
  if_pos (List.isEmpty_iff.mpr h)

/-- A group that brings images is open. -/
theorem State.place_something {id : Nat} {regions : List Region} {ws : List Write} (h : s.brings regions ws ≠ []) :
    ∃ changed behind groups, s.place id regions ws = { s with store := { s.store with
      count := s.store.count + 1, changed := changed, behind := behind, groups := groups } } ∧
      ∃ g ∈ groups, id ∈ g.ids := by
  refine ⟨_, _, _, if_neg (mt List.isEmpty_iff.mp h), ?_⟩
  have mem : id ∈ (handGroup id (s.store.count + 1) (s.brings regions ws) s.store.groups).flatMap OpenGroup.ids :=
    (handGroup_ids _ _ _ _).mem_iff.mpr List.mem_cons_self
  exact List.mem_flatMap.mp mem

/-- No record has changed: a commit point takes the unsaved records of its regions alone (R199). -/
theorem State.hand_unchanged (h : s.store.changed = []) (names : List RecKey) : s.hand names =
    ({ s with store := { s.store with called := s.store.called + 1 } } : State).place (s.store.called + 1)
      (names.map regionOf) [] := by
  have keys : s.store.groupKeys names = [] := by
    unfold Store.groupKeys
    rw [h, if_neg (by simp)]
  rcases s.hand_cases names with ⟨-, e⟩ | ⟨-, ne, -⟩
  · rw [e, keys, State.calls_nil]
    rfl
  · exact absurd keys ne

/-- Where every record stands committed, the flush writes the clean marker at once (R201). -/
theorem State.startFlush_clean (hc : s.store.changed = []) (hu : s.store.unsaved = []) (hg : s.store.groups = [])
    (hb : s.store.behind = []) (hp : s.pfail = true) : s.startFlush = { s with
      phase := .flush
      store := { s.store with
        called := s.store.called + 1, count := s.store.count + 1, closed := s.store.closed ++ [s.store.count + 1]
        lastDone := s.store.count + 1, marker := true, flush := { marked := true } } } := by
  let x : State := { s with phase := .flush, store := { s.store with flush := {} } }
  have nothing : ∀ st : Store, st.unsaved = [] → ({ x with store := st } : State).brings [] [] = [] := fun st h => by
    unfold State.brings Store.takesUp
    rw [h]
    rfl
  have handed : x.hand [] = { x with store := { x.store with
      called := s.store.called + 1, count := s.store.count + 1, closed := s.store.closed ++ [s.store.count + 1]
      lastDone := s.store.count + 1 } } := by
    rw [State.hand_unchanged (s := x) hc]
    exact State.place_nothing (nothing _ hu)
  have none : (x.hand []).store.openAbove s.store.called = [] := by
    rw [handed]
    unfold Store.openAbove
    rw [hg, hb]
    rfl
  have flushed : x.handFlush [] = { x with store := { x.store with
      called := s.store.called + 1, count := s.store.count + 1, closed := s.store.closed ++ [s.store.count + 1]
      lastDone := s.store.count + 1, flush := {} } } := by
    unfold State.handFlush
    dsimp only
    rw [show x.store.called = s.store.called from rfl, none, handed]
    rfl
  have names : x.store.flushNames = [] := by
    show s.store.changed ++ s.store.unsaved.filter _ = []
    rw [hc, hu]
    rfl
  show (x.handFlush x.store.flushNames).advanceFlush = _
  rw [names, flushed]
  unfold State.advanceFlush
  rw [if_neg fun h => h.elim (fun e => e rfl) Bool.false_ne_true, if_neg, if_neg, if_pos hp]
  · unfold State.writeMarker
    rw [if_pos]
    show (s.store.unsaved.isEmpty && !false) = true
    rw [hu]
    rfl
  · show ¬ ((s.store.unsaved.isEmpty && !s.store.groups.isEmpty) || !s.store.behind.isEmpty) = true
    rw [hg, hb]
    simp
  · show ¬ (!(s.store.changed ++ s.store.unsaved.filter _).isEmpty) = true
    rw [hc, hu]
    simp

/-- Where records are unsaved, the flush hands a group of them. -/
theorem State.startFlush_left (hc : s.store.changed = []) (hu : s.store.unsaved ≠ []) :
    ∃ changed behind groups flush, s.startFlush = { s with
      phase := .flush
      store := { s.store with
        called := s.store.called + 1, count := s.store.count + 1, changed := changed, behind := behind, groups := groups
        flush := flush } } := by
  let x : State := { s with phase := .flush, store := { s.store with flush := {} } }
  have names : x.store.flushNames = s.store.unsaved := by
    show s.store.changed ++ s.store.unsaved.filter (fun k => !([] : List RecKey).contains k) = _
    rw [hc]
    simp
  obtain ⟨u, hu'⟩ := List.exists_mem_of_ne_nil _ hu
  have brings : ({ x with store := { x.store with called := s.store.called + 1 } } : State).brings
      (s.store.unsaved.map regionOf) [] ≠ [] := by
    refine List.ne_nil_of_mem (List.mem_append_right _ (List.mem_map_of_mem (a := u) ?_))
    exact Store.mem_takesUp.mpr ⟨hu', List.mem_map_of_mem hu', by simp⟩
  obtain ⟨changed, behind, groups, e, g, hg, own⟩ := State.place_something (id := s.store.called + 1) brings
  have handed : x.hand s.store.unsaved = _ := (State.hand_unchanged (s := x) hc _).trans e
  have waits : (x.hand s.store.unsaved).store.openAbove s.store.called ≠ [] := by
    refine List.ne_nil_of_mem (a := s.store.called + 1) (Store.mem_openAbove.mpr ⟨?_, Nat.lt_succ_self _⟩)
    rw [handed]
    exact List.mem_append_left _ (List.mem_flatMap.mpr ⟨g, hg, own⟩)
  have flushed : x.handFlush s.store.unsaved = { x.hand s.store.unsaved with store := { (x.hand s.store.unsaved).store with
      flush := { (x.hand s.store.unsaved).store.flush with group := some (s.store.called + 1), marked := false } } } := by
    unfold State.handFlush
    dsimp only
    rw [show x.store.called = s.store.called from rfl, if_neg (mt List.isEmpty_iff.mp waits)]
  have stays : (x.handFlush s.store.unsaved).advanceFlush = x.handFlush s.store.unsaved := by
    unfold State.advanceFlush
    exact if_pos (.inr (by rw [flushed]; rfl))
  refine ⟨changed, behind, groups, { group := some (s.store.called + 1) }, ?_⟩
  show (x.handFlush x.store.flushNames).advanceFlush = _
  rw [names, stays, flushed, handed]
end

end Sys2Proof.Machine
end

-- ==== Sys2Proof/Proofs/report ====
section
/-!
The notices of a restore, in the order of R207 (stage 7), for O58.
-/

namespace Sys2Proof.Machine

/-- Notices raised one after the other. -/
def State.raiseAll (s : State) (l : List (Subject × Detail)) : State := l.foldl (fun s n => s.raise n.1 n.2) s

/-- The notice of a failed close entry: its subject and its count are free values (log 7). -/
def RestoreReport.close (r : RestoreReport) : Option (Subject × Nat) :=
  r.closeFault.map fun n => (closeSubject n, Config.faultCount n)

/-- The notice of a failed close entry where its subject is `u`. -/
def RestoreReport.closing (r : RestoreReport) (u : Subject) : List (Subject × Detail) :=
  (r.close.filter fun x => x.1 == u).toList.map fun x => (x.1, .writeFault none x.2)

/-- The STORE_FAULT notices of one region (R205, R207). -/
def RestoreReport.faults (r : RestoreReport) (st : Store) (g : Region) : List (Subject × Detail) :=
  (if (r.lost.filter fun x => x == g).length = 0 then []
    else [(.region g, .recordsLost (r.lost.filter fun x => x == g).length)]) ++
    ((r.failed.filter fun k => regionOf k == g).map fun k => (.region g, .writeFault (some k) (st.unsavedIn g))) ++
    r.closing (.region g)

/-- The notices before those of the regions. -/
def RestoreReport.opening (r : RestoreReport) (cause : StartCause) : List (Subject × Detail) :=
  [(.num 0, .restarted cause r.markerFound r.voided r.lost.length)] ++
    (if r.lotsFlagged + r.rollsFlagged = 0 then [] else [(.num 0, .uncertainRecords r.lotsFlagged r.rollsFlagged)]) ++
    r.pricesBad.toList.map fun p => (.num 0, .pricesBad p.1 p.2)

/-- All notices of a restore. -/
def RestoreReport.raised (r : RestoreReport) (cause : StartCause) (st : Store) : List (Subject × Detail) :=
  r.opening cause ++ Region.list.flatMap (r.faults st) ++ r.closing .store

section
variable {s : State} {r : RestoreReport} {a b : List (Subject × Detail)}

theorem State.raiseAll_append : s.raiseAll (a ++ b) = (s.raiseAll a).raiseAll b := by
  unfold State.raiseAll
  exact List.foldl_append

theorem State.raiseAll_nil : s.raiseAll [] = s := rfl

theorem State.raiseAll_cons {u : Subject} {d : Detail} : s.raiseAll ((u, d) :: a) = (s.raise u d).raiseAll a := rfl

theorem State.raiseAll_within : s.within [.notices] (s.raiseAll a) := by
  induction a generalizing s with
  | nil => exact s.within_refl _
  | cons n a ih => exact (s.raise_within n.1 n.2).trans ih

theorem State.raiseAll_store : (s.raiseAll a).store = s.store := State.raiseAll_within .store (by decide)

/-- No group of the handling is open: each notice is raised at once. -/
theorem State.raiseAll_notices (h : s.awaited = []) :
    (s.raiseAll a).notices = a.foldl (fun q n => q.given n.1 n.2) s.notices := by
  induction a generalizing s with
  | nil => rfl
  | cons n a ih =>
    have one : (s.raise n.1 n.2).notices = s.notices.given n.1 n.2 := by unfold State.raise NoticeQueue.given; rw [h]
    rw [State.raiseAll_cons, ih (s := s.raise n.1 n.2) h, one, List.foldl_cons]

theorem State.raiseRestoreClose_eq (u : Subject) : s.raiseRestoreClose r u = s.raiseAll (r.closing u) := by
  unfold State.raiseRestoreClose RestoreReport.closing RestoreReport.close
  cases h : r.closeFault with
  | none => rfl
  | some n =>
    dsimp only
    rw [Option.map_some]
    by_cases e : closeSubject n = u
    · rw [if_pos e, Option.filter_some, if_pos (by simpa using e)]
      rfl
    · rw [if_neg e, Option.filter_some, if_neg (by simpa using e)]
      rfl

theorem State.raiseWriteFaults_eq {g : Region} {l : List RecKey} (h : ∀ k ∈ l, regionOf k = g) :
    l.foldl (fun s k => s.raiseWriteFault k) s =
      s.raiseAll (l.map fun k => (.region g, .writeFault (some k) (s.store.unsavedIn g))) := by
  induction l generalizing s with
  | nil => rfl
  | cons k l ih =>
    rw [List.foldl_cons, ih fun x hx => h x (List.mem_cons_of_mem _ hx)]
    unfold State.raiseWriteFault
    rw [h k List.mem_cons_self]
    rfl

theorem State.raiseRestoreFaults_eq (g : Region) : s.raiseRestoreFaults r g = s.raiseAll (r.faults s.store g) := by
  unfold State.raiseRestoreFaults RestoreReport.faults
  dsimp only
  rw [State.raiseAll_append, State.raiseAll_append, State.raiseRestoreClose_eq,
    State.raiseWriteFaults_eq fun k hk => by simpa using (List.mem_filter.mp hk).2]
  congr 1
  split
  · rfl
  · rfl

theorem State.raiseRegions_eq (l : List Region) :
    l.foldl (fun s g => s.raiseRestoreFaults r g) s = s.raiseAll (l.flatMap (r.faults s.store)) := by
  induction l generalizing s with
  | nil => rfl
  | cons g l ih =>
    rw [List.foldl_cons, ih, State.raiseRestoreFaults_eq, State.raiseAll_store, List.flatMap_cons, State.raiseAll_append]

theorem State.restoreNotices_opening : s.restoreNotices r =
    (Region.list.foldl (fun s g => s.raiseRestoreFaults r g) (s.raiseAll (r.opening s.cause))).raiseRestoreClose r .store := by
  unfold State.restoreNotices RestoreReport.opening
  rw [State.raiseAll_append, State.raiseAll_append, State.raiseAll_cons, State.raiseAll_nil]
  by_cases flagged : r.lotsFlagged + r.rollsFlagged = 0
  · simp only [if_pos flagged]
    cases r.pricesBad <;> rfl
  · simp only [if_neg flagged]
    cases r.pricesBad <;> rfl

theorem State.restoreNotices_eq : s.restoreNotices r = s.raiseAll (r.raised s.cause s.store) := by
  unfold RestoreReport.raised
  rw [State.restoreNotices_opening, State.raiseRestoreClose_eq, State.raiseRegions_eq, State.raiseAll_store,
    State.raiseAll_append, State.raiseAll_append]
end

end Sys2Proof.Machine
end

-- ==== Sys2Proof/Proofs/recommit ====
section
/-!
The commit of what a restore changed (R192, R207), for O58.
-/

namespace Sys2Proof.Machine

/-! ### Copies written (R192) -/

section
variable {r : StoredRecord} {c : Copy} {closed more : List Nat} {k n : RecKey} {l : List StoredRecord}

/-- A copy of a newer closed group stands for its record. -/
theorem StoredRecord.standing_write (sound : c.sound = true) (mem : c.group ∈ more) (old : ∀ d ∈ r.copies, d.group < c.group) :
    (r.write closed c).standing more = some c := by
  have valid : validCopy more (some c) = some c := by
    unfold validCopy Copy.valid
    rw [Option.filter_some, if_pos (by rw [sound]; simpa using mem)]
  have older : ∀ {x : Option Copy} {d : Copy}, (∀ d, x = some d → d ∈ r.copies) → validCopy more x = some d →
      d.group < c.group := fun {x d} hx h => old d (hx d (Option.filter_eq_some_iff.mp h).1)
  have inA : ∀ d, r.copyA = some d → d ∈ r.copies := fun d h => List.mem_append_left _ (by rw [h]; simp)
  have inB : ∀ d, r.copyB = some d → d ∈ r.copies := fun d h => List.mem_append_right _ (by rw [h]; simp)
  unfold StoredRecord.write
  split
  · show StoredRecord.standing more { r with copyB := some c } = _
    unfold StoredRecord.standing
    dsimp only
    rw [valid]
    cases h : validCopy more r.copyA with
    | none => rfl
    | some d => exact if_pos (older inA h)
  · show StoredRecord.standing more { r with copyA := some c } = _
    unfold StoredRecord.standing
    dsimp only
    rw [valid]
    cases h : validCopy more r.copyB with
    | none => rfl
    | some d => exact if_neg (older inB h).asymm

/-- Closing groups that wrote none of a record's copies changes nothing for it. -/
theorem StoredRecord.standing_more (h : ∀ d ∈ r.copies, d.group ∉ more) : r.standing (closed ++ more) = r.standing closed := by
  have same : ∀ x : Option Copy, (∀ d, x = some d → d ∈ r.copies) → validCopy (closed ++ more) x = validCopy closed x := by
    intro x hx
    cases x with
    | none => rfl
    | some d =>
      have out := h d (hx d rfl)
      unfold validCopy Copy.valid
      rw [Option.filter_some, Option.filter_some]
      simp [out]
  unfold StoredRecord.standing
  rw [same r.copyA fun d h => List.mem_append_left _ (by rw [h]; simp),
    same r.copyB fun d h => List.mem_append_right _ (by rw [h]; simp)]

theorem StoredRecord.write_key : (r.write closed c).key = r.key := by unfold StoredRecord.write; split <;> rfl

theorem find_writeCopy_self : (writeCopy closed k c l).find? (fun r => r.key == k) =
    some (((l.find? fun r => r.key == k).map fun r => r.write closed c).getD ⟨k, some c, none⟩) := by
  induction l with
  | nil => simp [writeCopy]
  | cons r l ih =>
    unfold writeCopy
    by_cases h : r.key = k
    · rw [if_pos h, List.find?_cons_of_pos (by rw [StoredRecord.write_key]; simpa using h), List.find?_cons_of_pos (by simpa using h)]
      rfl
    · rw [if_neg h, List.find?_cons_of_neg (by simpa using h), List.find?_cons_of_neg (by simpa using h), ih]

theorem find_writeCopy_ne (ne : n ≠ k) :
    (writeCopy closed k c l).find? (fun r => r.key == n) = l.find? fun r => r.key == n := by
  induction l with
  | nil => simp [writeCopy, Ne.symm ne]
  | cons r l ih =>
    unfold writeCopy
    by_cases h : r.key = k
    · have other : ¬ r.key = n := fun e => ne (e.symm.trans h)
      rw [if_pos h, List.find?_cons_of_neg (by rw [StoredRecord.write_key]; simpa using other),
        List.find?_cons_of_neg (by simpa using other)]
    · rw [if_neg h, List.find?_cons, List.find?_cons, ih]
end

/-- The images of these records as a group writes them. -/
def restoreWrites (image : RecKey → Image) (num : Nat) (keys : List RecKey) : List Write :=
  keys.map fun k => { key := k, image := image k, group := num, stage := .waiting }

section
variable {image : RecKey → Image} {num : Nat} {keys : List RecKey} {closed : List Nat} {sound : Write → Bool} {k : RecKey}
  {l : List StoredRecord}

theorem writeImages_cons : writeImages closed sound (restoreWrites image num (k :: keys)) l =
    writeImages closed sound (restoreWrites image num keys)
      (writeCopy closed k ⟨num, image k, sound ⟨k, image k, num, .waiting, false⟩⟩ l) := by
  unfold writeImages restoreWrites
  rw [List.map_cons, List.foldl_cons, if_neg (by simp)]
  rfl

theorem find_writeImages_ne (h : k ∉ keys) : (writeImages closed sound (restoreWrites image num keys) l).find?
    (fun r => r.key == k) = l.find? fun r => r.key == k := by
  induction keys generalizing l with
  | nil => rfl
  | cons x keys ih =>
    rw [writeImages_cons, ih fun hk => h (List.mem_cons_of_mem _ hk), find_writeCopy_ne fun e => h (by rw [e]; exact List.mem_cons_self)]

/-- A record written once: its image is that of the group. -/
theorem find_writeImages (hn : keys.Nodup) (h : k ∈ keys) :
    (writeImages closed (fun _ => true) (restoreWrites image num keys) l).find? (fun r => r.key == k) =
      some (((l.find? fun r => r.key == k).map fun r => r.write closed ⟨num, image k, true⟩).getD
        ⟨k, some ⟨num, image k, true⟩, none⟩) := by
  induction keys generalizing l with
  | nil => simp at h
  | cons x keys ih =>
    obtain ⟨out, rest⟩ := List.nodup_cons.mp hn
    rw [writeImages_cons]
    rcases List.mem_cons.mp h with rfl | h
    · rw [find_writeImages_ne out, find_writeCopy_self]
    · rw [ih rest h, find_writeCopy_ne fun e => out (by rw [← e]; exact h)]
end

/-- A record's copy stands with the group's image once the group, numbered above every group, is closed; a record that the
group did not write stands as before. -/
theorem standing_of_writes {st t : Store} {image : RecKey → Image} {keys : List RecKey} {num : Nat} {more : List Nat}
    (hn : keys.Nodup) (high : ∀ r ∈ st.records, ∀ d ∈ r.copies, d.group < num) (above : ∀ m ∈ more, num < m)
    (records : t.records = writeImages st.closed (fun _ => true) (restoreWrites image num keys) st.records)
    (closed : t.closed = st.closed ++ num :: more) (k : RecKey) :
    t.standing k = if k ∈ keys then some (image k) else st.standing k := by
  unfold Store.standing
  rw [records, closed]
  by_cases h : k ∈ keys
  · rw [if_pos h, find_writeImages hn h, Option.bind_some]
    have mem : num ∈ st.closed ++ num :: more := by simp
    cases found : st.records.find? fun r => r.key == k with
    | none =>
      have alone : StoredRecord.standing (st.closed ++ num :: more) ⟨k, some ⟨num, image k, true⟩, none⟩ =
          some ⟨num, image k, true⟩ := by
        have valid : validCopy (st.closed ++ num :: more) (some ⟨num, image k, true⟩) = some ⟨num, image k, true⟩ := by
          unfold validCopy Copy.valid
          rw [Option.filter_some, if_pos (by simp)]
        unfold StoredRecord.standing
        dsimp only
        rw [valid]
        rfl
      rw [Option.map_none, Option.getD_none, alone]
      rfl
    | some r =>
      rw [Option.map_some, Option.getD_some,
        StoredRecord.standing_write (c := ⟨num, image k, true⟩) rfl mem (high r (List.mem_of_find?_eq_some found))]
      rfl
  · rw [if_neg h, find_writeImages_ne h]
    cases found : st.records.find? fun r => r.key == k with
    | none => rfl
    | some r =>
      have below := high r (List.mem_of_find?_eq_some found)
      rw [Option.bind_some, Option.bind_some, StoredRecord.standing_more fun d hd hm => ?_]
      have := below d hd
      rcases List.mem_cons.mp hm with e | hm
      · omega
      · have := above _ hm; omega

/-! ### The commit point of a restore (stage 6) -/

theorem le_foldl_max {l : List Nat} {a n : Nat} (h : n = a ∨ n ∈ l) : n ≤ l.foldl max a := by
  induction l generalizing a n with
  | nil => exact h.elim le_of_eq (by simp)
  | cons x l ih =>
    rw [List.foldl_cons]
    rcases h with rfl | h
    · exact (le_max_left n x).trans (ih (.inl rfl))
    · rcases List.mem_cons.mp h with rfl | h
      · exact (le_max_right a n).trans (ih (.inl rfl))
      · exact ih (.inr h)

theorem Store.below_highest {st : Store} {r : StoredRecord} (hr : r ∈ st.records) {d : Copy} (hd : d ∈ r.copies) :
    d.group < st.highest + 1 :=
  Nat.lt_succ_of_le (le_foldl_max (.inr (List.mem_append_left _ (List.mem_map_of_mem (List.mem_flatMap.mpr ⟨r, hr, hd⟩)))))

theorem ordered.nodup_map {α : Type} {key : α → Nat} {f : Nat → RecKey} {l : List α} (h : ordered key l)
    (hf : Function.Injective f) : (l.map fun a => f (key a)).Nodup :=
  List.pairwise_map.mpr (List.Pairwise.imp (fun h e => h.ne (hf e)) h)

theorem State.restoreKeys_nodup {s : State} (hj : ordered Job.tag s.jobs) (hl : ordered Lot.code s.lots)
    (hr : ordered Roll.id s.rolls) (he : ordered Edition.id s.editions) : s.restoreKeys.Nodup := by
  have slots : (Chan.list.map RecKey.slots).Nodup := by decide
  have lots := hl.nodup_map (f := RecKey.lot) fun _ _ e => RecKey.lot.inj e
  have rolls := hr.nodup_map (f := RecKey.roll) fun _ _ e => RecKey.roll.inj e
  have editions := he.nodup_map (f := RecKey.edition) fun _ _ e => RecKey.edition.inj e
  have jobs := hj.nodup_map (f := RecKey.job) fun _ _ e => RecKey.job.inj e
  unfold State.restoreKeys
  refine ((((slots.append lots ?_).append rolls ?_).append editions ?_).append jobs ?_).append (List.nodup_singleton _) ?_ <;>
    · intro k hk hk'
      simp only [List.mem_append, List.mem_map, List.mem_singleton] at hk hk'
      aesop

/-- What the commit of a restore leaves: of the records that it writes, `bad` failed, or the close entry did (R197, R207). -/
structure State.recommitted (u t : State) (failed bad : List RecKey) (closeFails : Bool) (fault : Option Nat) : Prop where
  frame : u.within [.store, .fresh] t
  count : t.store.count = u.store.highest + 1
  changed : t.store.changed = []
  groups : t.store.groups = []
  behind : t.store.behind = []
  nodup : bad.Nodup
  bad_iff : ∀ k, k ∈ bad ↔ k ∈ t.store.unsaved ∧ k ∈ failed
  fault_iff : fault = none ↔ bad ≠ [] ∨ t.store.unsaved = []
  left : t.store.unsaved ≠ [] → t.store.dirty = u.store.dirty ∧ t.store.marker = u.store.marker ∧
    t.store.closed = u.store.closed ∧ t.store.lastDone = u.store.closed.foldl max 0
  succeeds : failed = [] → closeFails = false → t.store.unsaved = []
  clean : t.store.unsaved = [] → t.store.dirty = [] ∧ t.store.marker = false ∧
    t.store.closed = u.store.closed ++ [u.store.highest + 1] ∧ t.store.lastDone = u.store.highest + 1 ∧
    t.store.records = writeImages u.store.closed (fun _ => true)
      (restoreWrites u.image (u.store.highest + 1) u.restoreChanged) u.store.records

section
variable {u : State} {failed : List RecKey} {closeFails : Bool}

/-- The records of the restore's group that fail. -/
def State.restoreBad (u : State) (failed : List RecKey) : List RecKey := u.restoreChanged.filter fun k => failed.contains k

theorem State.restoreCommit_recommitted (hn : u.restoreChanged.Nodup) :
    u.recommitted (u.restoreCommit failed closeFails).state failed (u.restoreCommit failed closeFails).failed closeFails
      (u.restoreCommit failed closeFails).closeFault := by
  have keys : (restoreWrites u.image (u.store.highest + 1) u.restoreChanged).map Write.key = u.restoreChanged := by
    unfold restoreWrites; rw [List.map_map]; exact List.map_id _
  have mem : ∀ k, k ∈ u.restoreBad failed ↔ k ∈ u.restoreChanged ∧ k ∈ failed := fun k => by
    unfold State.restoreBad; rw [List.mem_filter]; simp
  have store : ∀ st n, u.within [.store, .fresh] { u with store := st, fresh := n } := fun st n f hf => by
    cases f <;> first | rfl | exact absurd (by decide) hf
  have writes : u.restoreChanged.map (fun k => (⟨k, u.image k, u.store.highest + 1, .waiting, false⟩ : Write)) =
      restoreWrites u.image (u.store.highest + 1) u.restoreChanged := rfl
  have named : u.restoreChanged.filter (fun k => failed.contains k) = u.restoreBad failed := rfl
  unfold State.restoreCommit
  dsimp only
  rw [writes, keys, named]
  by_cases bad : u.restoreBad failed = []
  · have none : ∀ k, k ∉ u.restoreBad failed := fun k h => by rw [bad] at h; simp at h
    rw [if_neg (by rw [bad]; simp)]
    by_cases close : (closeFails && !(restoreWrites u.image (u.store.highest + 1) u.restoreChanged).isEmpty) = true
    · rw [if_pos close]
      rw [Bool.and_eq_true] at close
      have some : u.restoreChanged ≠ [] := fun e => by rw [e] at close; simp [restoreWrites] at close
      exact ⟨store _ _, rfl, rfl, rfl, rfl, List.nodup_nil, fun k => ⟨fun h => absurd h (by simp), fun h => absurd ((mem k).mpr h) (none k)⟩,
        ⟨fun h => absurd h (by simp), fun h => h.elim (fun h => absurd rfl h) fun h => absurd h some⟩, fun _ => ⟨rfl, rfl, rfl, rfl⟩,
        fun _ h => absurd close.1 (by rw [h]; simp), fun h => absurd h some⟩
    · rw [if_neg close]
      refine ⟨store _ _, rfl, rfl, rfl, rfl, List.nodup_nil, fun k => ⟨fun h => absurd h (by simp), fun h => absurd h.1 (by simp)⟩,
        ⟨fun _ => .inr rfl, fun _ => rfl⟩, fun h => absurd rfl h, fun _ _ => rfl, fun _ => ⟨rfl, rfl, rfl, rfl, ?_⟩⟩
      rw [bad]
      rfl
  · rw [if_pos (by simpa using bad)]
    have some : u.restoreChanged ≠ [] := fun e => bad (by unfold State.restoreBad; rw [e]; rfl)
    refine ⟨store _ _, rfl, rfl, rfl, rfl, hn.filter _, mem, ⟨fun _ => .inl bad, fun _ => rfl⟩, fun _ => ⟨rfl, rfl, rfl, rfl⟩,
      fun h _ => absurd ?_ bad, fun h => absurd h some⟩
    unfold State.restoreBad
    rw [h]
    simp
end

end Sys2Proof.Machine
end

-- ==== Sys2Proof/Proofs/ended ====
section
/-!
The end of a restore with its notices and its flush (R207, R208), and the restore as a whole, for O58.
-/

namespace Sys2Proof.Machine

/-- The part in RUN behind the notices of a restore. -/
def State.entered (y : State) (r : RestoreReport) : State :=
  { (y.raiseAll (r.raised y.cause y.store)).send (.stopAt none) with
    phase := .run, store := { y.store with restored := none } }

/-- What the end of a restore leaves. -/
structure State.ended (y t : State) (r : RestoreReport) : Prop where
  frame : y.within [.notices, .out, .phase, .store] t
  phase : t.phase = if y.pfail then .flush else .run
  out : t.out = y.out ++ [.stopAt none]
  notices : t.notices = (y.raiseAll (r.raised y.cause y.store)).notices
  unsaved : t.store.unsaved = y.store.unsaved
  count : t.store.count = y.store.count + if y.pfail then 1 else 0
  left : y.store.unsaved ≠ [] → t.store.dirty = y.store.dirty ∧ t.store.marker = y.store.marker ∧
    t.store.closed = y.store.closed ∧ t.store.lastDone = y.store.lastDone
  clean : y.store.unsaved = [] → t.store.dirty = y.store.dirty ∧ t.store.groups = [] ∧ t.store.records = y.store.records ∧
    t.store.marker = (y.store.marker || y.pfail) ∧
    t.store.closed = y.store.closed ++ (if y.pfail then [y.store.count + 1] else []) ∧
    t.store.lastDone = if y.pfail then y.store.count + 1 else y.store.lastDone

section
variable {y : State} {r : RestoreReport}

theorem State.entered_within : y.within [.notices, .out, .phase, .store] (y.entered r) := by
  have first : y.within [.notices, .out] ((y.raiseAll (r.raised y.cause y.store)).send (.stopAt none)) :=
    State.raiseAll_within.next _ (State.send_within _ _)
  intro f hf
  have h := first f fun hf' => hf (by revert hf'; cases f <;> simp)
  cases f <;> first | exact h | exact absurd (by decide) hf

theorem State.endRestore_eq : y.endRestore r = if y.pfail then (y.entered r).startFlush else y.entered r := by
  have store : ((y.restoreNotices r).send (.stopAt none)).store = y.store := by
    rw [State.restoreNotices_eq]; exact State.raiseAll_store
  unfold State.endRestore
  dsimp only
  rw [store, State.restoreNotices_eq]
  rfl

theorem State.entered_store : (y.entered r).store = { y.store with restored := none } := rfl
theorem State.entered_phase : (y.entered r).phase = .run := rfl
theorem State.entered_notices : (y.entered r).notices = (y.raiseAll (r.raised y.cause y.store)).notices := rfl

theorem State.entered_out : (y.entered r).out = y.out ++ [.stopAt none] :=
  congrArg (· ++ [Output.stopAt none]) (State.raiseAll_within (s := y) .out (by decide))

theorem State.flushing_within {x : State} {st : Store} (h : y.within [.notices, .out, .phase, .store] x) :
    y.within [.notices, .out, .phase, .store] { x with phase := .flush, store := st } := by
  intro f hf
  have h := h f hf
  cases f <;> first | exact h | exact absurd (by decide) hf

theorem State.endRestore_ended (hc : y.store.changed = []) (hg : y.store.groups = []) (hb : y.store.behind = []) :
    y.ended (y.endRestore r) r := by
  have frame := State.entered_within (y := y) (r := r)
  have store := State.entered_store (y := y) (r := r)
  have phase := State.entered_phase (y := y) (r := r)
  have notices := State.entered_notices (y := y) (r := r)
  have out := State.entered_out (y := y) (r := r)
  rw [State.endRestore_eq]
  generalize y.entered r = x at *
  have pfail : x.pfail = y.pfail := frame .pfail (by decide)
  have changed : x.store.changed = [] := by rw [store]; exact hc
  have groups : x.store.groups = [] := by rw [store]; exact hg
  have behind : x.store.behind = [] := by rw [store]; exact hb
  have unsaved : x.store.unsaved = y.store.unsaved := by rw [store]
  by_cases p : y.pfail = true
  · rw [if_pos p]
    by_cases hu : y.store.unsaved = []
    · rw [State.startFlush_clean changed (unsaved.trans hu) groups behind (pfail.trans p)]
      refine ⟨State.flushing_within frame, (if_pos p).symm, out, notices, unsaved, ?_, fun h => absurd hu h, fun _ =>
        ⟨?_, groups, ?_, by rw [p, Bool.or_true], ?_, ?_⟩⟩ <;> dsimp only <;> rw [store]
      · rw [if_pos p]
      · rw [if_pos p]
      · rw [if_pos p]
    · obtain ⟨changed, behind, groups, flush, e⟩ := State.startFlush_left changed (by rw [unsaved]; exact hu)
      rw [e]
      refine ⟨State.flushing_within frame, (if_pos p).symm, out, notices, unsaved, ?_, fun _ => ⟨?_, ?_, ?_, ?_⟩,
        fun h => absurd h hu⟩ <;> dsimp only <;> rw [store]
      rw [if_pos p]
  · rw [if_neg p]
    have none : y.pfail = false := Bool.eq_false_iff.mpr p
    refine ⟨frame, phase.trans (if_neg p).symm, out, notices, unsaved, ?_, fun _ => ⟨?_, ?_, ?_, ?_⟩, fun _ =>
      ⟨?_, groups, ?_, ?_, ?_, ?_⟩⟩ <;> rw [store]
    · rw [if_neg p]; rfl
    · rw [none, Bool.or_false]
    · rw [if_neg p, List.append_nil]
    · rw [if_neg p]
end

/-! ### The restore as a whole -/

/-- The part once a restore has treated the jobs (stages 1 to 5). -/
def State.rejobbed (s : State) : State := s.reread.jobs.foldl (fun s j => s.restoreJob j) s.reread

/-- It, with the store as the restore found it. -/
def State.recommitting (s : State) : State := { s.rejobbed with store := s.store }

/-- The report of a restore (R207). -/
def State.reportOf (s : State) (failed : List RecKey) (fault : Option Nat) : RestoreReport :=
  { markerFound := s.store.marker, voided := s.reread.interruptedJobs.length, lost := s.store.lostRegions
    lotsFlagged := s.store.lotsFlagged, rollsFlagged := s.store.rollsFlagged
    pricesBad := if s.rejobbed.pricesBad then
      some (s.rejobbed.prices.checksum, checksumOf s.rejobbed.prices.entries) else none
    failed := failed, closeFault := fault }

section
variable {s : State} {failed : List RecKey} {closeFails : Bool}

theorem State.reread_orders : ordered Job.tag s.reread.jobs ∧ ordered Lot.code s.reread.lots ∧
    ordered Roll.id s.reread.rolls ∧ ordered Edition.id s.reread.editions := by
  have h := State.reread_rebuilt (s := s)
  rw [h.jobs, h.lots, h.rolls, h.editions]
  exact ⟨s.store.storedJobs_ordered, s.store.restoreLots_ordered, s.store.restoreRolls_ordered, s.store.restoreEditions_ordered⟩

theorem State.rejobbed_restarted : s.reread.restarted s.rejobbed s.reread.jobs := by
  obtain ⟨jobs, -, -, editions⟩ := State.reread_orders (s := s)
  exact State.restoreJobs_restarted jobs editions (jobs.imp fun h => h.ne) fun j hj => State.job_of_mem jobs hj

theorem State.recommitting_nodup : s.recommitting.restoreChanged.Nodup := by
  have h := State.rejobbed_restarted (s := s)
  obtain ⟨-, lots, rolls, -⟩ := State.reread_orders (s := s)
  refine List.Nodup.filter _ (State.restoreKeys_nodup (s := s.recommitting) h.tables.1 ?_ ?_ h.tables.2)
  · rw [show s.recommitting.lots = s.reread.lots from h.frame .lots (by decide)]; exact lots
  · rw [show s.recommitting.rolls = s.reread.rolls from h.frame .rolls (by decide)]; exact rolls

/-- The report of stages 1 to 6, put by. -/
def State.reported (y : State) (r : RestoreReport) : State := { y with store := { y.store with restored := some r } }

theorem State.rebuild_eq : s.rebuild failed closeFails =
    (s.recommitting.restoreCommit failed closeFails).state.reported
      (s.reportOf (s.recommitting.restoreCommit failed closeFails).failed
        (s.recommitting.restoreCommit failed closeFails).closeFault) := by
  unfold State.rebuild
  exact Eq.refl _

theorem State.restore_eq (hs : s.store.restored = none) {y : State} {r : RestoreReport}
    (h : s.rebuild failed closeFails = y.reported r) : s.restore failed closeFails = (y.reported r).endRestore r := by
  unfold State.restore
  rw [hs]
  dsimp only
  rw [h]
  rfl

/-- What a restore leaves in the working records and in the store. -/
theorem State.restore_ended (hs : s.store.restored = none) : ∃ (y : State) (bad : List RecKey) (fault : Option Nat),
    s.recommitting.recommitted y failed bad closeFails fault ∧
      (y.reported (s.reportOf bad fault)).ended (s.restore failed closeFails) (s.reportOf bad fault) := by
  have done := State.restoreCommit_recommitted (u := s.recommitting) (failed := failed) (closeFails := closeFails)
    State.recommitting_nodup
  rw [State.restore_eq hs State.rebuild_eq]
  generalize s.recommitting.restoreCommit failed closeFails = x at *
  exact ⟨x.state, x.failed, x.closeFault, done, State.endRestore_ended (y := x.state.reported _) done.changed done.groups
    done.behind⟩
end

end Sys2Proof.Machine
end

-- ==== Sys2Proof/Proofs/restored ====
section
/-!
O58: what the end of a restore leaves (R27, R49, R50, R100, R128, R153, R167, R172, R178, R190, R204 to R208).
-/

namespace Sys2Proof.Machine

/-! ### The working records after the restore -/

/-- A state with the working records that the restore of `s` has rebuilt. -/
def State.came (s t : State) : Prop := s.rejobbed.within [.notices, .out, .phase, .store, .fresh] t

/-- The jobs that the restore voids. -/
def Store.broken (st : Store) : List Job := (st.held Image.job?).filter Job.underWay

/-- No two jobs of the store have the same tag. -/
def Store.distinct (st : Store) : Prop := ((st.held Image.job?).map Job.tag).Nodup

section
variable {s t : State} {j : Job} {k : RecKey}

theorem State.reread_jobs : s.reread.jobs = gathered Job.tag (s.store.held Image.job?) :=
  State.reread_rebuilt.jobs.trans s.store.storedJobs_eq

theorem State.came.frame (h : s.came t) :
    s.reread.within [.jobs, .editions, .overhead, .store, .notices, .out, .phase, .fresh] t :=
  (State.rejobbed_restarted.frame.mono (by decide)).trans (h.mono (by decide))

theorem State.came.start (h : s.came t) : s.blank.within
    (storeFields ++ [.store, .notices, .out, .phase, .fresh]) t :=
  (State.reread_blank.mono (by decide)).trans (h.frame.mono (by decide))

theorem State.came.lots (h : s.came t) : t.lots = s.store.restoreLots :=
  (h.frame .lots (by decide)).trans State.reread_rebuilt.lots

theorem State.came.rolls (h : s.came t) : t.rolls = s.store.restoreRolls :=
  (h.frame .rolls (by decide)).trans State.reread_rebuilt.rolls

theorem State.came.job (h : s.came t) (hj : j ∈ s.reread.jobs) : t.job? j.tag = some (s.reread.afterRestart j) :=
  (State.within.job h (by decide) _).trans (State.rejobbed_restarted.job j hj)

/-- Every job is one of the store's, after the restart. -/
theorem State.came.mem_jobs (h : s.came t) (hj : j ∈ t.jobs) : ∃ i ∈ s.reread.jobs, j = s.reread.afterRestart i := by
  have jobs : t.jobs = s.rejobbed.jobs := h .jobs (by decide)
  have restarted := State.rejobbed_restarted (s := s)
  have here := State.job_of_mem restarted.tables.1 (jobs ▸ hj)
  by_cases known : ∀ i ∈ s.reread.jobs, i.tag ≠ j.tag
  · exact absurd rfl (known j (State.job_mem ((restarted.others j.tag known).symm.trans here)))
  · push Not at known
    obtain ⟨i, hi, tag⟩ := known
    rw [← tag, restarted.job i hi] at here
    exact ⟨i, hi, (Option.some.inj here).symm⟩

theorem State.came.held (hj : j ∈ s.reread.jobs) : ∃ k, (k, Image.job j) ∈ s.store.images :=
  (Store.mem_held Image.job?_iff).mp (mem_of_gathered (State.reread_jobs ▸ hj))

theorem State.came.kept (hk : (k, Image.job j) ∈ s.store.images)
    (one : ∀ k' i, (k', Image.job i) ∈ s.store.images → i.tag = j.tag → i = j) : j ∈ s.reread.jobs := by
  rw [State.reread_jobs]
  refine List.mem_of_find?_eq_some (gathered_of_unique ((Store.mem_held Image.job?_iff).mpr ⟨k, hk⟩) fun i hi e => ?_)
  obtain ⟨k', hk'⟩ := (Store.mem_held Image.job?_iff).mp hi
  exact one k' i hk' e

theorem State.afterRestart_state : (s.afterRestart j).state = .deferred ∨ (s.afterRestart j).state = .settled ∨
    (s.afterRestart j).state = .voided := by
  unfold State.afterRestart
  by_cases h : j.underWay = true
  · rw [if_pos h]; exact .inr (.inr rfl)
  · rw [if_neg h]
    split
    · exact .inl rfl
    · rename_i ha
      unfold Job.underWay at h
      cases e : j.state <;> simp_all

/-! ### A job voided (R27) -/

theorem State.afterRestart_underWay (h : j.underWay = true) : s.afterRestart j =
    { j with
      state := .voided, cause := some (j.cause.getD .interrupted), ink := Vec12.all 0, rollRes := 0
      cost := (s.afterRestart j).cost, number := (s.afterRestart j).number
      flags := { j.flags with uncertain := (s.afterRestart j).flags.uncertain
                              unpriced := (s.afterRestart j).flags.unpriced } } := by
  have e : s.afterRestart j = s.costed (s.interrupted j) := if_pos h
  rw [e]
  rfl

theorem State.afterRestart_number (h : j.underWay = true) (hn : j.number = none) : (s.afterRestart j).number = none := by
  have e : (s.afterRestart j).number = s.numberOf (s.interrupted j) := congrArg Job.number (if_pos h)
  rw [e, State.interrupted_number, hn, ite_self]

theorem State.afterRestart_cost (h : j.underWay = true) : (s.afterRestart j).cost = some (s.costOf j) :=
  congrArg Job.cost (if_pos h)

theorem State.came.figures (h : s.came t) (j : Job) : t.figuresOf j (s.reread.costOf j) :=
  State.figuresOf_congr (t := s.reread) (s.reread.costOf_figures j) (h.frame .lots (by decide)).symm
    (State.rateOf_congr (h.frame .rolls (by decide)).symm _) (h.frame .stripMode (by decide)).symm

theorem State.afterRestart_uncertain (h : j.underWay = true) : (s.afterRestart j).flags.uncertain = true ↔
    j.flags.uncertain = true ∨ s.uncertainIn j = true := by
  have e : (s.afterRestart j).flags.uncertain = (j.flags.uncertain || s.uncertainIn j) :=
    congrArg (fun x : Job => x.flags.uncertain) (if_pos h)
  rw [e, Bool.or_eq_true]

theorem State.afterRestart_unpriced (h : j.underWay = true) : (s.afterRestart j).flags.unpriced = true ↔
    j.flags.unpriced = true ∨ s.unpricedIn j = true := by
  have e : (s.afterRestart j).flags.unpriced = (j.flags.unpriced || s.unpricedIn j) :=
    congrArg (fun x : Job => x.flags.unpriced) (if_pos h)
  rw [e, Bool.or_eq_true]

theorem State.came.lot (h : s.came t) (n : Nat) : s.reread.lot? n = t.lot? n :=
  (h.frame.lot (by decide) n).symm

theorem State.came.roll (h : s.came t) (n : Nat) : s.reread.roll? n = t.roll? n :=
  (h.frame.roll (by decide) n).symm

/-- What becomes of a job, in the words of O58. -/
theorem State.came.job_claim (h : s.came t) (hj : j ∈ s.reread.jobs) : ∃ j', t.job? j.tag = some j' ∧
    (j.state = .admitted → j' = { j with state := .deferred, ink := Vec12.all 0, rollRes := 0, seqNo := none }) ∧
    (j.state = .deferred ∨ j.state = .settled ∨ j.state = .voided → j' = j) ∧
    (j.state = .printing ∨ j.state = .finishing →
      j' = { j with state := .voided, cause := some (j.cause.getD .interrupted), ink := Vec12.all 0, rollRes := 0
                    cost := j'.cost, number := j'.number
                    flags := { j.flags with uncertain := j'.flags.uncertain, unpriced := j'.flags.unpriced } } ∧
      (j.number = none → j'.number = none) ∧ (∃ x, j'.cost = some x ∧ t.figuresOf j x) ∧
      (j'.flags.uncertain = true ↔ j.flags.uncertain = true ∨
        (∃ d ∈ j.draws, ∃ l, t.lot? d.lot = some l ∧ l.uncertain = true) ∨
        ∃ r, t.roll? j.spec.roll = some r ∧ r.uncertain = true) ∧
      (j'.flags.unpriced = true ↔ j.flags.unpriced = true ∨
        (∃ d ∈ j.draws, ∀ l, t.lot? d.lot = some l → l.unpriced = true) ∨
        ∀ r, t.roll? j.spec.roll = some r → r.unpriced = true)) := by
  refine ⟨_, h.job hj, fun ha => ?_, fun hd => ?_, fun hp => ?_⟩
  · exact (if_neg (by unfold Job.underWay; rw [ha]; decide)).trans (if_pos ha)
  · refine (if_neg ?_).trans (if_neg ?_)
    · unfold Job.underWay; rcases hd with hd | hd | hd <;> rw [hd] <;> decide
    · rcases hd with hd | hd | hd <;> rw [hd] <;> decide
  · have way := Job.underWay_iff.mpr hp
    refine ⟨State.afterRestart_underWay way, State.afterRestart_number way, ⟨_, State.afterRestart_cost way, h.figures j⟩, ?_, ?_⟩
    · rw [State.afterRestart_uncertain way, State.uncertainIn_iff]
      simp only [h.lot, h.roll]
    · rw [State.afterRestart_unpriced way, State.unpricedIn_iff]
      simp only [h.lot, h.roll]
end

/-! ### The accounts of the jobs voided (R167, R186, R187) -/

section
variable {s t : State} {j : Job} {e : Edition} {id : Nat}

theorem addedUpTo_nil (top base : Nat) : addedUpTo top base [] = base := if_pos rfl

/-- The total of a job in the records. -/
def State.totalOf (t : State) (j : Job) : Nat := (((t.job? j.tag).bind Job.cost).map CostRecord.total).getD 0

theorem State.reread_perm (hd : s.store.distinct) : (s.reread.jobs.filter Job.underWay).Perm s.store.broken := by
  rw [State.reread_jobs]
  exact (gathered_perm hd).filter _

theorem State.reread_broken (hj : j ∈ s.reread.jobs.filter Job.underWay) : j ∈ s.store.broken := by
  obtain ⟨mem, way⟩ := List.mem_filter.mp hj
  exact List.mem_filter.mpr ⟨mem_of_gathered (State.reread_jobs ▸ mem), way⟩

theorem State.came.totalOf (h : s.came t) (hj : j ∈ s.reread.jobs.filter Job.underWay) :
    t.totalOf j = (s.reread.costOf j).total := by
  obtain ⟨mem, way⟩ := List.mem_filter.mp hj
  unfold State.totalOf
  rw [h.job mem, Option.bind_some, State.afterRestart_cost way, Option.map_some, Option.getD_some]

/-- A job voided is carried to its edition once, in whatever order the jobs are taken. -/
theorem State.came.edition (h : s.came t) (he : s.reread.edition? id = some e) (hs : e.stale = false) :
    ∃ x, t.edition? id = some x ∧ x = { e with wasteTotal := x.wasteTotal, voided := x.voided } ∧
      (s.store.broken.filter (fun j => j.spec.edition == some id) = [] → x = e) ∧
      (s.store.distinct →
        x.wasteTotal = addedUpTo 281474976710655 e.wasteTotal
          (((s.store.broken.filter fun j => j.spec.edition == some id).filter fun j => j.spec.kind != .proof).map t.totalOf) ∧
        x.voided = addedUpTo 65535 e.voided
          (((s.store.broken.filter fun j => j.spec.edition == some id).filter fun j => j.spec.kind == .edition).map
            fun _ => 1)) := by
  obtain ⟨x, hx, toll⟩ := State.rejobbed_restarted.edition id e he
  have record : x = { e with wasteTotal := x.wasteTotal, voided := x.voided } := by
    have now := toll.record
    rw [toll.stale hs, ← hs] at now
    exact now
  refine ⟨x, (State.within.edition h (by decide) id).trans hx, record, fun none => ?_, fun hd => ?_⟩
  · have nobody : (s.reread.jobs.filter Job.underWay).filter (fun j => j.spec.edition == some id) = [] := by
      refine List.filter_eq_nil_iff.mpr fun j hj => ?_
      exact List.filter_eq_nil_iff.mp none j (State.reread_broken hj)
    have waste := toll.waste
    have voided := toll.voided
    rw [nobody, List.filter_nil, List.map_nil, addedUpTo_nil] at waste voided
    rw [record, waste, voided]
  · have perm := (State.reread_perm hd).filter fun j => j.spec.edition == some id
    refine ⟨toll.waste.trans ?_, toll.voided.trans (addedUpTo_perm ((perm.filter _).map _))⟩
    refine Eq.trans (congrArg (addedUpTo _ _) (List.map_congr_left fun j hj => ?_)) (addedUpTo_perm ((perm.filter _).map t.totalOf))
    exact (h.totalOf (List.mem_of_mem_filter (List.mem_of_mem_filter hj))).symm

theorem State.came.stripOverhead (h : s.came t) (j : Job) : s.reread.stripOverhead j = t.stripOverhead j :=
  (State.stripOverhead_congr (h.frame .lots (by decide)) (h.frame .rolls (by decide)) (h.frame .stripMode (by decide))).symm

/-- The overhead account after the restore. -/
theorem State.came.overhead (h : s.came t) : t.overhead.maintenance = s.reread.overhead.maintenance ∧
    t.overhead.trims = s.reread.overhead.trims ∧ (s.store.broken = [] → t.overhead = s.reread.overhead) ∧
    (s.store.distinct →
      t.overhead.strips = addedUpTo 18446744073709551615 s.reread.overhead.strips (s.store.broken.map t.stripOverhead) ∧
      t.overhead.houseChecks = addedUpTo 18446744073709551615 s.reread.overhead.houseChecks
        ((s.store.broken.filter fun j => j.spec.kind == .check && j.spec.edition.isNone).map fun j => t.totalOf j * 1000000)) := by
  have toll := State.rejobbed_restarted (s := s) |>.overhead
  rw [show s.rejobbed.overhead = t.overhead from (h .overhead (by decide)).symm] at toll
  have strip : s.reread.stripOverhead = t.stripOverhead := funext h.stripOverhead
  refine ⟨toll.maintenance, toll.trims, fun none => ?_, fun hd => ⟨?_, ?_⟩⟩
  · have nobody : s.reread.jobs.filter Job.underWay = [] :=
      List.eq_nil_iff_forall_not_mem.mpr fun j hj => by have := State.reread_broken hj; rw [none] at this; simp at this
    obtain ⟨maintenance, trims, strips, houseChecks⟩ := toll
    rw [nobody, List.map_nil, addedUpTo_nil] at strips
    rw [nobody, List.filter_nil, List.map_nil, addedUpTo_nil] at houseChecks
    calc t.overhead = ⟨t.overhead.maintenance, t.overhead.trims, t.overhead.houseChecks, t.overhead.strips⟩ := rfl
      _ = s.reread.overhead := by rw [maintenance, trims, houseChecks, strips]
  · rw [toll.strips, strip]
    exact addedUpTo_perm ((State.reread_perm hd).map _)
  · rw [toll.houseChecks]
    refine Eq.trans (congrArg (addedUpTo _ _) (List.map_congr_left fun j hj => ?_)) (addedUpTo_perm (((State.reread_perm hd).filter _).map _))
    rw [h.totalOf (List.mem_of_mem_filter hj)]
end

end Sys2Proof.Machine
end

-- ==== Sys2Proof/Proofs/restoreEnd ====
section
/-!
O58, its parts: the records, the channels, the accounts, the notices and the store at the end of a restore.
-/

namespace Sys2Proof.Machine

/-! ### The lots, rolls and editions (R50, R128, R172, R206) -/

section
variable {s t : State} {k : RecKey} {n : Nat}

theorem Store.flags_iff {st : Store} : st.flags k = true ↔ st.marker = false ∧ k ∈ st.dirty := by
  unfold Store.flags; simp

theorem Store.flags_eq (st : Store) (k : RecKey) : decide (st.marker = false ∧ k ∈ st.dirty) = st.flags k := by
  rw [Bool.eq_iff_iff, decide_eq_true_iff, Store.flags_iff]

theorem State.came.lot_found (h : s.came t) (n : Nat) : t.lot? n = s.store.restoreLots.find? fun l => l.code == n :=
  congrArg (List.find? fun l : Lot => l.code == n) h.lots

theorem State.came.lot_back (h : s.came t) {l : Lot} (hk : (k, Image.lot l) ∈ s.store.images)
    (one : ∀ k' l', (k', Image.lot l') ∈ s.store.images → l'.code = l.code → l' = l) :
    t.lot? l.code = some (s.store.restoreLot l) := by
  rw [h.lot_found, s.store.restoreLots_eq]
  exact Store.find_restored Image.lot?_iff (fun _ => rfl) hk one

theorem State.came.roll_back (h : s.came t) {r : Roll} (hk : (k, Image.roll r) ∈ s.store.images)
    (one : ∀ k' r', (k', Image.roll r') ∈ s.store.images → r'.id = r.id → r' = r) :
    t.roll? r.id = some (s.store.restoreRoll r) := by
  refine (congrArg (List.find? fun x : Roll => x.id == r.id) (h.rolls.trans s.store.restoreRolls_eq)).trans ?_
  exact Store.find_restored Image.roll?_iff (fun _ => rfl) hk one

theorem State.came.mem_lots (h : s.came t) {x : Lot} (hx : x ∈ t.lots) :
    ∃ k l, (k, Image.lot l) ∈ s.store.images ∧ x = s.store.restoreLot l :=
  Store.mem_restored Image.lot?_iff (s.store.restoreLots_eq ▸ h.lots ▸ hx)

theorem State.came.mem_rolls (h : s.came t) {x : Roll} (hx : x ∈ t.rolls) :
    ∃ k r, (k, Image.roll r) ∈ s.store.images ∧ x = s.store.restoreRoll r :=
  Store.mem_restored Image.roll?_iff (s.store.restoreRolls_eq ▸ h.rolls ▸ hx)

theorem State.reread_editions : s.reread.editions = gathered Edition.id ((s.store.held Image.edition?).map Edition.restored) :=
  State.reread_rebuilt.editions.trans s.store.restoreEditions_eq

theorem State.came.editions (h : s.came t) : t.editions = s.rejobbed.editions := h .editions (by decide)

/-- What becomes of an edition of the store, in the words of O58. -/
def State.editionBack (s t : State) (e e' : Edition) : Prop :=
  let mine := s.store.broken.filter fun j => j.spec.edition == some e.id
  e' = { e with stale := false, wasteTotal := e'.wasteTotal, voided := e'.voided } ∧
  (mine = [] → e' = { e with stale := false }) ∧
  (s.store.distinct →
    e'.wasteTotal = addedUpTo 281474976710655 e.wasteTotal ((mine.filter fun j => j.spec.kind != .proof).map t.totalOf) ∧
    e'.voided = addedUpTo 65535 e.voided ((mine.filter fun j => j.spec.kind == .edition).map fun _ => 1))

theorem State.came.edition_restored (h : s.came t) {e : Edition} (he : s.reread.edition? e.id = some e.restored) :
    ∃ x, t.edition? e.id = some x ∧ s.editionBack t e x := h.edition he rfl

theorem State.came.edition_back (h : s.came t) {e : Edition} (hk : (k, Image.edition e) ∈ s.store.images)
    (one : ∀ k' e', (k', Image.edition e') ∈ s.store.images → e'.id = e.id → e' = e) :
    ∃ x, t.edition? e.id = some x ∧ s.editionBack t e x := by
  refine h.edition_restored ((congrArg (List.find? fun x : Edition => x.id == e.id) State.reread_editions).trans ?_)
  exact Store.find_restored Image.edition?_iff (fun _ => rfl) hk one

theorem State.came.mem_editions (h : s.came t) {x : Edition} (hx : x ∈ t.editions) :
    ∃ k e, (k, Image.edition e) ∈ s.store.images ∧ s.editionBack t e x := by
  have restarted := State.rejobbed_restarted (s := s)
  have here : s.rejobbed.edition? x.id = some x := restarted.tables.2.find_of_mem (h.editions ▸ hx)
  cases found : s.reread.edition? x.id with
  | none => exact absurd ((restarted.lost _ found).symm.trans here) (by simp)
  | some y =>
    obtain ⟨k, e, hk, rfl⟩ := Store.mem_restored Image.edition?_iff (State.reread_editions ▸ State.edition_mem found)
    have id : e.id = x.id := by simpa [Edition.restored] using List.find?_some found
    rw [← id] at found
    obtain ⟨x', hx', back⟩ := h.edition_restored found
    rw [State.within.edition h (by decide), id, here] at hx'
    obtain rfl := Option.some.inj hx'
    exact ⟨k, e, hk, back⟩

theorem State.came.fresh_editions (h : s.came t) {x : Edition} (hx : x ∈ t.editions) : x.stale = false := by
  obtain ⟨-, e, -, record, -⟩ := h.mem_editions hx
  rw [record]

theorem State.came.idle_rolls (h : s.came t) {x : Roll} (hx : x ∈ t.rolls) : x.state ≠ .active ∧ x.reserved = 0 := by
  refine ⟨s.store.restoreRolls_idle x (h.rolls ▸ hx), ?_⟩
  obtain ⟨-, r, -, rfl⟩ := h.mem_rolls hx
  rfl

theorem State.came.uncertain_lots (h : s.came t) {x : Lot} (hx : x ∈ t.lots) (f : s.store.flags (.lot x.code) = true) :
    x.uncertain = true := by
  obtain ⟨-, l, -, rfl⟩ := h.mem_lots hx
  exact (congrArg (l.uncertain || ·) f).trans (Bool.or_true _)

theorem State.came.uncertain_rolls (h : s.came t) {x : Roll} (hx : x ∈ t.rolls) (f : s.store.flags (.roll x.id) = true) :
    x.uncertain = true := by
  obtain ⟨-, r, -, rfl⟩ := h.mem_rolls hx
  exact (congrArg (r.uncertain || ·) f).trans (Bool.or_true _)

/-- With the clean marker every lot is as committed (R206). -/
theorem State.came.lots_clean (h : s.came t) (hm : s.store.marker = true) {x : Lot} (hx : x ∈ t.lots) :
    ∃ k, (k, Image.lot x) ∈ s.store.images := by
  obtain ⟨k, l, hk, rfl⟩ := h.mem_lots hx
  have off : s.store.flags (.lot l.code) = false := by unfold Store.flags; rw [hm]; rfl
  have same : s.store.restoreLot l = l := by unfold Store.restoreLot; rw [off, Bool.or_false]
  exact ⟨k, same.symm ▸ hk⟩
end

/-! ### The channels (R49, R100, R205) -/

section
variable {s t : State} {c : Chan}

theorem State.came.chan (h : s.came t) (c : Chan) : t.chan c = s.reread.chan c := h.frame.chan (by decide) c

theorem State.came.chan_eq (h : s.came t) (c : Chan) : t.chan c =
    { s.store.channelBase c with
      slots := (s.store.channel c).slots.restore s.store.restoreLots
      state := (t.chan c).state, expired := (t.chan c).expired } := by
  rw [h.chan, State.reread_chan, Store.channel_eq]

theorem State.came.slots (h : s.came t) {r : SlotRecord}
    (hr : s.store.standing (.slots c) = some (.slots r) ∨ (s.store.standing (.slots c) = none ∧ r = ⟨none, none, none⟩)) :
    (t.chan c).slots = r.restore s.store.restoreLots := by
  rw [h.chan_eq, Store.channel_slots hr]

/-- The slot fields of a channel, in the words of O58. -/
theorem State.came.slots_claim (h : s.came t) {r : SlotRecord}
    (hr : s.store.standing (.slots c) = some (.slots r) ∨ (s.store.standing (.slots c) = none ∧ r = ⟨none, none, none⟩)) :
    (∀ p n, (t.chan c).slots.at p = some n ↔ r.at p = some n ∧ t.lot? n ≠ none) ∧
    (r.active = none → (t.chan c).slots.active = none) ∧
    ∀ p, r.active = some p →
      ((t.chan c).slots.at p ≠ none → (t.chan c).slots.active = some p) ∧
      ((t.chan c).slots.at p = none → (t.chan c).slots.active =
        if (t.lotIn c p.other).map Lot.state = some .loaded then some p.other else none) := by
  have found : t.lot? = fun n => s.store.restoreLots.find? fun l => l.code == n := funext h.lot_found
  unfold State.lotIn
  rw [h.slots hr, found]
  refine ⟨fun p n => SlotRecord.restore_at, fun none => by rw [SlotRecord.restore_none none]; exact none, fun p hp =>
    ⟨SlotRecord.restore_stays hp, fun empty => ?_⟩⟩
  rw [SlotRecord.restore_moves hp empty]
  exact if_congr (holdsLoaded_iff s.store.restoreLots_ordered) rfl rfl

theorem State.came.channel_some (h : s.came t) {cfg : ChannelConfig} {segs : Vector SegmentImage 4}
    (hc : s.store.standing (.channel c) = some (.channel cfg segs)) : (t.chan c).cfg = cfg ∧
      ∀ i, (t.chan c).segments.get i = (segs.get i).restore := by
  rw [h.chan_eq]
  exact Store.channelBase_some hc

theorem State.came.channel_none (h : s.came t) (hc : s.store.standing (.channel c) = none) :
    (t.chan c).cfg = ({} : Channel).cfg ∧ (t.chan c).segments = ({} : Channel).segments := by
  rw [h.chan_eq, Store.channelBase_none hc]
  exact ⟨rfl, rfl⟩

theorem State.reset_chan (c : Chan) : State.reset.chan c = {} := by unfold State.chan; exact Vector.get_replicate ..

theorem State.came.channel_idle (h : s.came t) (c : Chan) : (t.chan c).reserved = 0 ∧ (t.chan c).residue = 0 ∧
    (t.chan c).state = channelStateOf (t.remainingTotal c) (t.chan c).cfg.reserve ∧
    (t.chan c).expired = ((t.activeLot c).map Lot.expired).getD false ∧
    ∀ i, ((t.chan c).segments.get i).fault = .ok ∧ ((t.chan c).segments.get i).spare ≠ .soft := by
  obtain ⟨reserved, residue, -, segments⟩ := s.store.channelBase_idle c
  obtain ⟨state, expired⟩ := State.reread_state (s := s) c
  have chan := h.chan c
  have lotIn : ∀ p, t.lotIn c p = s.reread.lotIn c p := fun p => by
    unfold State.lotIn; rw [chan, funext h.lot]
  have total : t.remainingTotal c = s.reread.remainingTotal c := by
    unfold State.remainingTotal State.slotVolume; rw [lotIn, lotIn]
  have active : t.activeLot c = s.reread.activeLot c := by unfold State.activeLot; rw [chan]; simp only [lotIn]
  refine ⟨?_, ?_, ?_, ?_, fun i => ?_⟩
  · rw [h.chan_eq]; exact reserved
  · rw [h.chan_eq]; exact residue
  · rw [total, chan]; exact state
  · rw [active, chan]; exact expired
  · rw [h.chan_eq]; exact segments i
end

/-! ### The fixed records (R153, R178, R190, R213) -/

section
variable {s t : State}

theorem State.came.check (h : s.came t) : t.check = s.reread.check := h.frame .check (by decide)
theorem State.came.media (h : s.came t) : t.media = s.reread.media := h.frame .media (by decide)
theorem State.came.stripMode (h : s.came t) : t.stripMode = s.reread.stripMode := h.frame .stripMode (by decide)
theorem State.came.prices (h : s.came t) : t.prices = s.reread.prices := h.frame .prices (by decide)
theorem State.came.pricesBad (h : s.came t) : t.pricesBad = s.reread.pricesBad := h.frame .pricesBad (by decide)
theorem State.came.seqCounter (h : s.came t) : t.seqCounter = s.reread.seqCounter := h.frame .seqCounter (by decide)
theorem State.came.day (h : s.came t) : t.day = s.reread.day := h.frame .day (by decide)

theorem State.came.prices_none (h : s.came t) (hp : s.store.standing .prices = none) : t.prices = State.reset.prices :=
  h.prices.trans (State.reread_prices_other fun p e => absurd (hp.symm.trans e) (by simp)).1

theorem State.came.pricesBad_eq (h : s.came t) :
    t.pricesBad = decide (checksumOf t.prices.entries ≠ t.prices.checksum) := by
  rw [h.pricesBad, h.prices]; exact State.reread_pricesBad

/-- The overhead account, in the words of O58. -/
theorem State.came.overhead_claim (h : s.came t) {n d : Nat} {o : Overhead}
    (ho : s.store.standing .counters = some (.counters n d o) ∨ (s.store.standing .counters = none ∧ o = ⟨0, 0, 0, 0⟩)) :
    t.overhead.maintenance = o.maintenance ∧ t.overhead.trims = o.trims ∧ (s.store.broken = [] → t.overhead = o) ∧
    (s.store.distinct →
      t.overhead.strips = addedUpTo 18446744073709551615 o.strips (s.store.broken.map fun j =>
        if t.stripMode = .overhead ∧ j.spec.kind ≠ .check then
          (j.draws.map fun d => d.strip * t.priceOf d.lot).sum * 100 + j.stripPiece * t.rateOf j.spec.roll
        else 0) ∧
      t.overhead.houseChecks = addedUpTo 18446744073709551615 o.houseChecks
        ((s.store.broken.filter fun j => j.spec.kind == .check && j.spec.edition.isNone).map fun j =>
          t.totalOf j * 1000000)) := by
  have start : s.reread.overhead = o := by
    rcases ho with ho | ⟨ho, rfl⟩
    · exact (State.reread_counters ho).2.2
    · exact (State.reread_counters_none ho).2.2
  have strip : (fun j : Job => if t.stripMode = .overhead ∧ j.spec.kind ≠ .check then
      (j.draws.map fun d => d.strip * t.priceOf d.lot).sum * 100 + j.stripPiece * t.rateOf j.spec.roll else 0) =
      t.stripOverhead := funext fun j =>
    (t.stripOverhead_eq j (aside := t.stripMode = .overhead ∧ j.spec.kind ≠ .check) Iff.rfl).symm
  rw [strip, ← start]
  exact h.overhead
end

end Sys2Proof.Machine
end

-- ==== Sys2Proof/Proofs/restoreClaim ====
section
/-!
O58: what the end of a restore leaves (R27, R49, R50, R100, R128, R153, R167, R172, R178, R190, R204 to R208).
-/

namespace Sys2Proof.Machine

/-! ### The notices (R207) -/

section
variable {s t y : State} {bad failed : List RecKey} {fault : Option Nat} {closeFails : Bool}

theorem Store.lostRegions_length (st : Store) : st.lostRegions.length = (Region.list.map st.lostIn).sum := by
  unfold Store.lostRegions
  rw [List.length_flatMap]
  simp only [List.length_replicate]

theorem Store.lostRegions_filter (st : Store) (g : Region) : (st.lostRegions.filter fun x => x == g).length = st.lostIn g := by
  have one : ∀ h : Region, ((List.replicate (st.lostIn h) h).filter fun x => x == g) =
      if h = g then List.replicate (st.lostIn h) h else [] := fun h => by
    rw [List.filter_replicate]
    by_cases e : h = g <;> simp [e]
  unfold Store.lostRegions
  rw [List.filter_flatMap, funext one]
  cases g <;> simp [Region.list]

/-- The notices of a restore, in the words of O58. -/
def State.restoreRaised (s t : State) (bad : List RecKey) (close : Option (Subject × Nat)) : List (Subject × Detail) :=
  let lots := (t.lots.filter fun l => s.store.flags (.lot l.code)).length
  let rolls := (t.rolls.filter fun r => s.store.flags (.roll r.id)).length
  let closing (u : Subject) : List (Subject × Detail) :=
    (close.filter fun x => x.1 == u).toList.map fun x => (x.1, .writeFault none x.2)
  let faults (g : Region) : List (Subject × Detail) :=
    (if s.store.lostIn g = 0 then [] else [(.region g, .recordsLost (s.store.lostIn g))]) ++
      ((bad.filter fun k => regionOf k == g).map fun k =>
        (.region g, .writeFault (some k) (t.store.unsaved.filter fun u => regionOf u == g).length)) ++
      closing (.region g)
  [(.num 0, .restarted s.cause s.store.marker s.store.broken.length (Region.list.map s.store.lostIn).sum)] ++
    (if lots + rolls = 0 then [] else [(.num 0, .uncertainRecords lots rolls)]) ++
    (if t.pricesBad then [(.num 0, .pricesBad t.prices.checksum (checksumOf t.prices.entries))] else []) ++
    Region.list.flatMap faults ++ closing .store

/-- The report of the restore gives these notices. -/
theorem State.came.raised (h : s.came t) (hd : s.store.distinct) (hu : t.store.unsaved = y.store.unsaved) :
    (s.reportOf bad fault).raised s.cause y.store = s.restoreRaised t bad (s.reportOf bad fault).close := by
  have voided : s.reread.interruptedJobs.length = s.store.broken.length := (State.reread_perm hd).length_eq
  have prices : s.rejobbed.prices = t.prices := (h .prices (by decide)).symm
  have pricesBad : s.rejobbed.pricesBad = t.pricesBad := (h .pricesBad (by decide)).symm
  have lots : s.store.lotsFlagged = (t.lots.filter fun l => s.store.flags (.lot l.code)).length := by rw [h.lots]; rfl
  have rolls : s.store.rollsFlagged = (t.rolls.filter fun r => s.store.flags (.roll r.id)).length := by rw [h.rolls]; rfl
  have wrong : ((if t.pricesBad then some (t.prices.checksum, checksumOf t.prices.entries) else none).toList.map
      fun p => ((.num 0, .pricesBad p.1 p.2) : Subject × Detail)) =
      if t.pricesBad then [(.num 0, .pricesBad t.prices.checksum (checksumOf t.prices.entries))] else [] := by
    split <;> rfl
  have faults : (s.reportOf bad fault).faults y.store = fun g =>
      (if s.store.lostIn g = 0 then [] else [(.region g, .recordsLost (s.store.lostIn g))]) ++
        ((bad.filter fun k => regionOf k == g).map fun k =>
          (.region g, .writeFault (some k) (t.store.unsaved.filter fun u => regionOf u == g).length)) ++
        (s.reportOf bad fault).closing (.region g) := funext fun g => by
    unfold RestoreReport.faults Store.unsavedIn State.reportOf
    dsimp only
    rw [s.store.lostRegions_filter g, hu]
  unfold RestoreReport.raised
  rw [faults]
  unfold RestoreReport.opening State.reportOf State.restoreRaised
  dsimp only
  rw [voided, prices, pricesBad, lots, rolls, s.store.lostRegions_length, wrong]
  rfl
end

/-! ### The whole -/

section
variable {s t y : State} {bad failed : List RecKey} {fault : Option Nat} {closeFails : Bool} {r : RestoreReport}

theorem State.recommitted.came (h : s.recommitting.recommitted y failed bad closeFails fault) (k : (y.reported r).ended t r) :
    s.came t := by
  have start : s.rejobbed.within [.store] s.recommitting := fun f hf => by
    cases f <;> first | rfl | exact absurd (by decide) hf
  have put : y.within [.store] (y.reported r) := fun f hf => by cases f <;> first | rfl | exact absurd (by decide) hf
  exact (((start.mono (by decide)).trans (h.frame.mono (by decide))).trans (put.mono (by decide))).trans
    (k.frame.mono (by decide))

/-- What the restore had before its notices. -/
theorem State.recommitted.before (h : s.recommitting.recommitted y failed bad closeFails fault) :
    s.blank.within (storeFields ++ [.store, .fresh]) y := by
  have jobs : s.reread.within (storeFields ++ [.store, .fresh]) s.rejobbed :=
    State.rejobbed_restarted.frame.mono (by decide)
  have start : s.rejobbed.within (storeFields ++ [.store, .fresh]) s.recommitting := fun f hf => by
    cases f <;> first | rfl | exact absurd (by decide) hf
  exact ((((State.reread_blank (s := s)).mono (by decide)).trans jobs).trans start).trans (h.frame.mono (by decide))

/-- The notices that a restore leaves, and what they tell of. -/
theorem State.recommitted.notices (h : s.recommitting.recommitted y failed bad closeFails fault)
    (k : (y.reported (s.reportOf bad fault)).ended t (s.reportOf bad fault)) (hd : s.store.distinct) :
    ∃ (bad : List RecKey) (close : Option (Subject × Nat)),
      bad.Nodup ∧ (∀ k, k ∈ bad ↔ k ∈ t.store.unsaved ∧ k ∈ failed) ∧
      (close = none ↔ bad ≠ [] ∨ t.store.unsaved = []) ∧
      t.notices = (s.restoreRaised t bad close).foldl (fun q n => q.given n.1 n.2) {} := by
  have before := h.before
  have unsaved : t.store.unsaved = y.store.unsaved := k.unsaved
  have alone : (y.reported (s.reportOf bad fault)).awaited = [] := by
    have idle : y.handling = {} := before .handling (by decide)
    unfold State.awaited State.reported
    dsimp only
    rw [idle]
    rfl
  have cause : (y.reported (s.reportOf bad fault)).cause = s.cause := before .cause (by decide)
  have empty : (y.reported (s.reportOf bad fault)).notices = {} := before .notices (by decide)
  refine ⟨bad, (s.reportOf bad fault).close, h.nodup, fun k => unsaved ▸ h.bad_iff k, ?_, ?_⟩
  · rw [unsaved]
    refine Iff.trans ?_ h.fault_iff
    exact Option.map_eq_none_iff
  · rw [k.notices, State.raiseAll_notices alone, cause, empty, (h.came k).raised (y := y.reported _) hd unsaved]

/-- What stands of a record that the restore may change, once its group is complete. -/
theorem State.recommitted.standing (h : s.recommitting.recommitted y failed bad closeFails fault) (k : (y.reported r).ended t r)
    (hu : y.store.unsaved = []) {key : RecKey} (mem : key ∈ s.recommitting.restoreKeys)
    (here : s.recommitting.image key ≠ ({} : State).image key) :
    t.store.standing key = some (s.recommitting.image key) := by
  obtain ⟨-, -, closed, -, records⟩ := h.clean hu
  obtain ⟨-, -, records', -, closed', -⟩ := k.clean hu
  have more : ∀ m ∈ (if (y.reported r).pfail then [y.store.count + 1] else []), s.store.highest + 1 < m := fun m hm => by
    have : m = y.store.count + 1 := by split at hm <;> simp_all
    rw [this, h.count]
    exact Nat.lt_succ_self _
  have now := standing_of_writes (st := s.store) (t := t.store) State.recommitting_nodup
    (fun _ hr _ hd => Store.below_highest hr hd) more (records'.trans records)
    (closed'.trans (by rw [show (y.reported r).store.closed = _ from closed, List.append_assoc]; rfl)) key
  rw [now]
  by_cases changed : key ∈ s.recommitting.restoreChanged
  · rw [if_pos changed]
  · rw [if_neg changed]
    have same : s.recommitting.image key = s.store.fixed key (({} : State).image key) := by
      by_contra ne
      exact changed (List.mem_filter.mpr ⟨mem, bne_iff_ne.mpr ne⟩)
    rw [same]
    unfold Store.fixed at same ⊢
    cases found : s.store.standing key with
    | none => rw [found] at same; exact absurd same here
    | some i => rfl

/-- Every record stands as it is once the group of the restore is complete. -/
theorem State.recommitted.all_standing (h : s.recommitting.recommitted y failed bad closeFails fault)
    (k : (y.reported r).ended t r) (hu : y.store.unsaved = []) :
    (∀ j ∈ t.jobs, t.store.standing (.job j.tag) = some (.job j)) ∧
    (∀ l ∈ t.lots, t.store.standing (.lot l.code) = some (.lot l)) ∧
    (∀ r ∈ t.rolls, t.store.standing (.roll r.id) = some (.roll r)) ∧
    ∀ e ∈ t.editions, t.store.standing (.edition e.id) = some (.edition e) := by
  have came := h.came k
  have restarted := State.rejobbed_restarted (s := s)
  obtain ⟨-, lotsOrdered, rollsOrdered, -⟩ := State.reread_orders (s := s)
  have jobs : t.jobs = s.recommitting.jobs := came .jobs (by decide)
  have lots : t.lots = s.recommitting.lots := came .lots (by decide)
  have rolls : t.rolls = s.recommitting.rolls := came .rolls (by decide)
  have editions : t.editions = s.recommitting.editions := came .editions (by decide)
  have jobsOrder : ordered Job.tag s.recommitting.jobs := restarted.tables.1
  have lotsOrder : ordered Lot.code s.recommitting.lots := by
    rw [show s.recommitting.lots = s.reread.lots from restarted.frame .lots (by decide)]; exact lotsOrdered
  have rollsOrder : ordered Roll.id s.recommitting.rolls := by
    rw [show s.recommitting.rolls = s.reread.rolls from restarted.frame .rolls (by decide)]; exact rollsOrdered
  have editionsOrder : ordered Edition.id s.recommitting.editions := restarted.tables.2
  have stands : ∀ {key i}, key ∈ s.recommitting.restoreKeys → s.recommitting.image key = i →
      i ≠ ({} : State).image key → t.store.standing key = some i := fun mem image ne => by
    rw [h.standing k hu mem (image ▸ ne), image]
  have key : ∀ {x}, (x ∈ s.recommitting.lots.map (fun l => RecKey.lot l.code) ∨
      x ∈ s.recommitting.rolls.map (fun r => RecKey.roll r.id) ∨ x ∈ s.recommitting.editions.map (fun e => RecKey.edition e.id) ∨
      x ∈ s.recommitting.jobs.map fun j => RecKey.job j.tag) → x ∈ s.recommitting.restoreKeys := fun hx => by
    unfold State.restoreKeys
    simp only [List.mem_append]
    tauto
  refine ⟨fun j hj => ?_, fun l hl => ?_, fun r hr => ?_, fun e he => ?_⟩
  · rw [jobs] at hj
    exact stands (key (.inr (.inr (.inr (List.mem_map_of_mem hj)))))
      (congrArg (fun o => (Option.map Image.job o).getD .removed) (jobsOrder.find_of_mem hj)) (by simp [State.image, State.job?])
  · rw [lots] at hl
    exact stands (key (.inl (List.mem_map_of_mem hl)))
      (congrArg (fun o => (Option.map Image.lot o).getD .removed) (lotsOrder.find_of_mem hl)) (by simp [State.image, State.lot?])
  · have idle : r.image = .roll r := congrArg Image.roll (by rw [← (came.idle_rolls hr).2])
    rw [rolls] at hr
    exact stands (key (.inr (.inl (List.mem_map_of_mem hr))))
      ((congrArg (fun o => (Option.map Roll.image o).getD .removed) (rollsOrder.find_of_mem hr)).trans idle)
      (by simp [State.image, State.roll?])
  · rw [editions] at he
    exact stands (key (.inr (.inr (.inl (List.mem_map_of_mem he)))))
      (congrArg (fun o => (Option.map Image.edition o).getD .removed) (editionsOrder.find_of_mem he))
      (by simp [State.image, State.edition?])

/-- The store at the end of a restore, in the words of O58. -/
theorem State.recommitted.store (h : s.recommitting.recommitted y failed bad closeFails fault)
    (k : (y.reported r).ended t r) :
    t.store.count = s.store.highest + 1 + (if s.pfail then 1 else 0) ∧
    (failed = [] → closeFails = false →
      t.store.dirty = [] ∧ t.store.unsaved = [] ∧ t.store.marker = s.pfail ∧ t.store.groups = [] ∧
      t.store.lastDone = t.store.count ∧
      (∀ j ∈ t.jobs, t.store.standing (.job j.tag) = some (.job j)) ∧
      (∀ l ∈ t.lots, t.store.standing (.lot l.code) = some (.lot l)) ∧
      (∀ r ∈ t.rolls, t.store.standing (.roll r.id) = some (.roll r)) ∧
      ∀ e ∈ t.editions, t.store.standing (.edition e.id) = some (.edition e)) ∧
    (t.store.unsaved ≠ [] → t.store.dirty = s.store.dirty ∧ t.store.marker = s.store.marker ∧
      t.store.closed = s.store.closed ∧ t.store.lastDone = s.store.closed.foldl max 0) := by
  have pfail : (y.reported r).pfail = s.pfail := h.before .pfail (by decide)
  have unsaved : t.store.unsaved = y.store.unsaved := k.unsaved
  have count : t.store.count = s.store.highest + 1 + (if s.pfail then 1 else 0) := by
    rw [k.count, pfail]
    exact congrArg (· + _) h.count
  refine ⟨count, fun hf hc => ?_, fun left => ?_⟩
  · have hu := h.succeeds hf hc
    obtain ⟨dirty, marker, -, lastDone, -⟩ := h.clean hu
    obtain ⟨dirty', groups, -, marker', -, lastDone'⟩ := k.clean hu
    refine ⟨dirty'.trans dirty, unsaved.trans hu, ?_, groups, ?_, h.all_standing k hu⟩
    · rw [marker', pfail, show (y.reported r).store.marker = false from marker, Bool.false_or]
    · rw [lastDone', count, pfail]
      split
      · exact congrArg (· + 1) h.count
      · exact lastDone
  · rw [unsaved] at left
    obtain ⟨dirty, marker, closed, lastDone⟩ := h.left left
    obtain ⟨dirty', marker', closed', lastDone'⟩ := k.left left
    exact ⟨dirty'.trans dirty, marker'.trans marker, closed'.trans closed, lastDone'.trans lastDone⟩
end

end Sys2Proof.Machine
end

-- ==== Sys2Proof/Proofs/restoreEnds ====
section
/-!
O58: what the end of a restore leaves (R27, R49, R50, R100, R128, R153, R167, R172, R178, R190, R204 to R208).
-/

namespace Sys2Proof.Machine

section
variable {s t : State}

theorem State.came.mem_stored (h : s.came t) {j' : Job} (hj : j' ∈ t.jobs) :
    ∃ k j, (k, Image.job j) ∈ s.store.images ∧ j.tag = j'.tag := by
  obtain ⟨i, hi, rfl⟩ := h.mem_jobs hj
  obtain ⟨k, hk⟩ := State.came.held hi
  exact ⟨k, i, hk, State.afterRestart_tag.symm⟩

theorem State.came.job_states (h : s.came t) {j : Job} (hj : j ∈ t.jobs) :
    j.state = .deferred ∨ j.state = .settled ∨ j.state = .voided := by
  obtain ⟨i, -, rfl⟩ := h.mem_jobs hj
  exact State.afterRestart_state

theorem State.came.counters (h : s.came t) {n d : Nat} {o : Overhead}
    (hc : s.store.standing .counters = some (.counters n d o)) : t.seqCounter = n ∧ t.day = d := by
  obtain ⟨seq, day, -⟩ := State.reread_counters hc
  exact ⟨h.seqCounter.trans seq, h.day.trans day⟩

theorem State.came.counters_none (h : s.came t) (hc : s.store.standing .counters = none) : t.seqCounter = 0 ∧ t.day = 0 := by
  obtain ⟨seq, day, -⟩ := State.reread_counters_none hc
  exact ⟨h.seqCounter.trans seq, h.day.trans day⟩
end

theorem exec_restoreEnd (failed : FailedRestore) (s : State) : exec (.restoreEnd failed) s =
    .next (if s.phase = .restore then s.quiet.restore failed.images failed.close else s.quiet) := rfl

/-- Settles O58: stages 1 to 5 give the working records, whatever order the jobs are taken in, stage 6 commits what differs
from the store in a group above every group of it, and the notices follow while nothing is open. -/
theorem restoreEndRebuildsTheWorkingRecords : Obligations.RestoreEndRebuildsTheWorkingRecords := by
  intro s failed closeFails
  refine ⟨fun off => (exec_restoreEnd _ s).trans (congrArg _ (if_neg off)), fun on hs => ?_⟩
  obtain ⟨y, bad, fault, done, ended⟩ := State.restore_ended (s := s.quiet) (failed := failed) (closeFails := closeFails) hs
  refine ⟨_, (exec_restoreEnd _ s).trans (congrArg _ (if_pos on)), ?_⟩
  generalize s.quiet.restore failed closeFails = t at ended
  have before := done.before
  have came := done.came ended
  have start := came.start
  have pfail : (y.reported (s.quiet.reportOf bad fault)).pfail = s.pfail := before .pfail (by decide)
  have out : (y.reported (s.quiet.reportOf bad fault)).out = [] := before .out (by decide)
  refine ⟨ended.phase.trans (by rw [pfail]), start .pfail (by decide), start .port (by decide), start .pending (by decide),
    ended.out.trans (by rw [out]; rfl), ?_⟩
  intro stored broken totalOf distinct
  refine ⟨fun j => came.job_states, fun k j hk one => came.job_claim (State.came.kept hk one), fun j => came.mem_stored,
    start .merged (by decide), ?_, fun c r => came.slots_claim, fun c => ⟨fun cfg segs => came.channel_some, fun none => ?_⟩,
    fun p hp => ?_, fun hp => ?_, fun g hg => ?_, fun hg => ?_, fun m hm => ?_, fun hm => ?_, came.counters_none,
    came.prices_none, fun n d o => came.overhead_claim, fun e => came.fresh_editions, fun r => came.idle_rolls,
    came.channel_idle, ?_, ?_, ?_, fun n d o => came.counters, fun p hp => ?_, came.pricesBad_eq,
    fun l hl hm hd => came.uncertain_lots hl (Store.flags_iff.mpr ⟨hm, hd⟩),
    fun r hr hm hd => came.uncertain_rolls hr (Store.flags_iff.mpr ⟨hm, hd⟩), fun l hl hm => came.lots_clean hm hl, ?_⟩
  · intro flagged lotBack rollBack editionBack
    have lots : lotBack = s.store.restoreLot := funext fun l =>
      congrArg (fun b => ({ l with uncertain := l.uncertain || b } : Lot)) (s.store.flags_eq _)
    have rolls : rollBack = s.store.restoreRoll := funext fun r =>
      congrArg (fun b => ({ r with state := if r.state = .active then .loaded else r.state, reserved := 0
                                   uncertain := r.uncertain || b } : Roll)) (s.store.flags_eq _)
    rw [lots, rolls]
    exact ⟨fun k l => came.lot_back, fun k r => came.roll_back, fun k e => came.edition_back, fun x => came.mem_lots,
      fun x => came.mem_rolls, fun x => came.mem_editions⟩
  · rw [State.reset_chan]
    exact came.channel_none none
  · rw [came.check]; exact State.reread_plan_some hp
  · rw [came.check]; exact State.reread_plan_none hp
  · rw [came.media]; exact State.reread_geometry_some hg
  · rw [came.media]; exact State.reread_geometry_none hg
  · rw [came.stripMode]; exact State.reread_stripMode hm
  · rw [came.stripMode]; exact State.reread_stripMode_none hm
  · rw [came.check]; exact State.reread_check
  · rw [came.media]; exact State.reread_media
  · exact congrArg HeadLink.purgeToggle (start .head (by decide))
  · exact came.prices.trans (State.reread_prices_some (s := s.quiet) hp).1
  · intro copies lost marked lots rolls highest
    have losses : lost = s.store.lostIn := funext fun g =>
      congrArg (fun f : StoredRecord → Bool => (s.store.records.filter f).length) (funext fun r => Bool.and_assoc ..)
    rw [losses]
    exact ⟨done.notices ended, done.store ended⟩

end Sys2Proof.Machine
end

-- ==== Sys2Proof/Proofs/drawlist ====
section
/-!
The draw list of a job that a swath's draws are entered in (R59, R61, R62), for O31.
-/

namespace Sys2Proof.Machine

/-! ### One part entered -/

/-- The entries of one channel once a part of it is entered (R61, R62). -/
def entered (k : SwathKind) (c : Chan) (p : Part) (own : List DrawEntry) : List DrawEntry :=
  if ∃ d ∈ own, d.lot = p.1 then own.map fun d => if d.lot = p.1 then d.plus k p.2 else d
  else if own.length < 3 then own ++ [(⟨c, p.1, 0, 0⟩ : DrawEntry).plus k p.2]
  else match own.getLast? with
    | some e => own.map fun d => if d.lot = e.lot then d.plus k p.2 else d
    | none => own

section
variable {k : SwathKind} {c e : Chan} {p : Part} {l own : List DrawEntry} {d : DrawEntry} {v n : Nat}

theorem DrawEntry.add_eq (d : DrawEntry) (k : SwathKind) (v : Nat) : d.add k v = d.plus k v := by
  cases k
  · exact congrArg (fun n => { d with image := n }) (Nat.min_comm _ _)
  · exact congrArg (fun n => { d with strip := n }) (Nat.min_comm _ _)

theorem DrawEntry.plus_channel : (d.plus k v).channel = d.channel := by cases k <;> rfl

theorem DrawEntry.plus_lot : (d.plus k v).lot = d.lot := by cases k <;> rfl

theorem mem_entriesOn : d ∈ entriesOn l c ↔ d ∈ l ∧ d.channel = c := by
  unfold entriesOn; simp

theorem addToEntry_eq : addToEntry k c n v l = l.map fun d => if d.channel = c ∧ d.lot = n then d.plus k v else d :=
  List.map_congr_left fun d _ => by rw [DrawEntry.add_eq]

theorem entriesOn_addToEntry : entriesOn (addToEntry k c n v l) c =
    (entriesOn l c).map fun d => if d.lot = n then d.plus k v else d := by
  rw [addToEntry_eq]
  unfold entriesOn
  rw [List.filter_map]
  refine Eq.trans (congrArg (List.map _) (List.filter_congr fun d _ => ?_)) (List.map_congr_left fun d hd => ?_)
  · show ((if _ then _ else _ : DrawEntry).channel == c) = _
    split
    · rw [DrawEntry.plus_channel]
    · rfl
  · have on : d.channel = c := by simpa using (List.mem_filter.mp hd).2
    simp only [on, true_and]

theorem entriesOn_addToEntry_ne (h : e ≠ c) : entriesOn (addToEntry k c n v l) e = entriesOn l e := by
  rw [addToEntry_eq]
  unfold entriesOn
  rw [List.filter_map]
  refine Eq.trans (congrArg (List.map _) (List.filter_congr (q := fun d => d.channel == e) fun d _ => ?_)) ?_
  · show ((if _ then _ else _ : DrawEntry).channel == e) = _
    split
    · rw [DrawEntry.plus_channel]
    · rfl
  · refine (List.map_congr_left fun d hd => if_neg ?_).trans (List.map_id _)
    have on : d.channel = e := by simpa using (List.mem_filter.mp hd).2
    exact fun both => h (on.symm.trans both.1)

theorem any_lot_iff : ((l.filter fun d => d.channel == c).any fun d => d.lot == n) = true ↔ ∃ d ∈ entriesOn l c, d.lot = n := by
  rw [List.any_eq_true]
  exact exists_congr fun d => and_congr_right fun _ => beq_iff_eq

/-- The entries of the channel behind the entry of a part. -/
theorem entriesOn_enterPart : entriesOn (enterPart k c p l).1 c = entered k c p (entriesOn l c) := by
  unfold enterPart entered
  dsimp only
  by_cases own : ∃ d ∈ entriesOn l c, d.lot = p.1
  · rw [if_pos own, if_pos (any_lot_iff.mpr own)]
    exact entriesOn_addToEntry
  rw [if_neg own, if_neg (mt any_lot_iff.mp own)]
  by_cases room : (entriesOn l c).length < 3
  · rw [if_pos room, if_pos (show (l.filter fun d => d.channel == c).length < 3 from room)]
    unfold entriesOn
    rw [List.filter_append, DrawEntry.add_eq, List.filter_cons_of_pos (by rw [DrawEntry.plus_channel]; simp), List.filter_nil]
  · rw [if_neg room, if_neg (show ¬ (l.filter fun d => d.channel == c).length < 3 from room)]
    show entriesOn (match (entriesOn l c).getLast? with
      | some d => (addToEntry k c d.lot p.2 l, true)
      | none => (l, false)).1 c = _
    cases (entriesOn l c).getLast? with
    | none => rfl
    | some e => exact entriesOn_addToEntry

/-- The entries of another channel stay. -/
theorem entriesOn_enterPart_ne (h : e ≠ c) : entriesOn (enterPart k c p l).1 e = entriesOn l e := by
  unfold enterPart
  dsimp only
  split
  · exact entriesOn_addToEntry_ne h
  split
  · unfold entriesOn
    rw [List.filter_append, DrawEntry.add_eq, List.filter_cons_of_neg (by rw [DrawEntry.plus_channel]; simpa using h.symm),
      List.filter_nil, List.append_nil]
  split
  · exact entriesOn_addToEntry_ne h
  · rfl

/-- A part is merged where its lot has no entry and the channel has three (R62). -/
theorem enterPart_merges : (enterPart k c p l).2 = true ↔
    ¬ (∃ d ∈ entriesOn l c, d.lot = p.1) ∧ 3 ≤ (entriesOn l c).length := by
  unfold enterPart
  dsimp only
  by_cases own : ∃ d ∈ entriesOn l c, d.lot = p.1
  · rw [if_pos (any_lot_iff.mpr own)]
    simp [own]
  rw [if_neg (mt any_lot_iff.mp own)]
  by_cases room : (entriesOn l c).length < 3
  · rw [if_pos (show (l.filter fun d => d.channel == c).length < 3 from room)]
    simp only [Bool.false_eq_true, false_iff]
    omega
  · rw [if_neg (show ¬ (l.filter fun d => d.channel == c).length < 3 from room)]
    refine iff_of_true ?_ ⟨own, by omega⟩
    show (match (entriesOn l c).getLast? with
      | some d => (addToEntry k c d.lot p.2 l, true)
      | none => (l, false)).2 = true
    cases last : (entriesOn l c).getLast? with
    | none => rw [List.getLast?_eq_none_iff.mp last] at room; exact absurd (by simp) room
    | some e => rfl

/-- A merged part brings its lot no entry. -/
theorem entered_merged (none : ¬ ∃ d ∈ own, d.lot = p.1) (full : 3 ≤ own.length) : ¬ ∃ d ∈ entered k c p own, d.lot = p.1 := by
  unfold entered
  rw [if_neg none, if_neg (by omega)]
  split
  · rintro ⟨d, hd, e⟩
    obtain ⟨x, hx, rfl⟩ := List.mem_map.mp hd
    refine none ⟨x, hx, Eq.trans ?_ e⟩
    split
    · rw [DrawEntry.plus_lot]
    · rfl
  · exact none
end

/-! ### The draws of a swath -/

/-- A job with one channel's draw entered and set against its reservation (R59, R61). -/
def Job.drew (k : SwathKind) (v code : Chan → Nat) (j : Job) (c : Chan) : Job :=
  if v c = 0 then j else (Job.enter k c j (code c, v c)).against c (v c)

/-- The job `i` is the job `j` with the draws of the channels `l`. -/
structure Job.drawn (k : SwathKind) (v code : Chan → Nat) (l : List Chan) (j i : Job) : Prop where
  record : i = { j with
    draws := i.draws, ink := i.ink
    flags := { j.flags with priceMerged := i.flags.priceMerged, overrunInk := i.flags.overrunInk } }
  entries : ∀ c, entriesOn i.draws c =
    if c ∈ l ∧ v c ≠ 0 then entered k c (code c, v c) (entriesOn j.draws c) else entriesOn j.draws c
  merged : i.flags.priceMerged = true ↔ j.flags.priceMerged = true ∨ ∃ c ∈ l, v c ≠ 0 ∧
    ¬ (∃ d ∈ entriesOn j.draws c, d.lot = code c) ∧ 3 ≤ (entriesOn j.draws c).length
  ink : ∀ c, i.ink.get c = if c ∈ l then j.ink.get c - v c else j.ink.get c
  overrun : i.flags.overrunInk = true ↔ j.flags.overrunInk = true ∨ ∃ c ∈ l, v c ≠ 0 ∧ j.ink.get c < v c

section
variable {k : SwathKind} {v code : Chan → Nat} {l : List Chan} {j i : Job} {c : Chan}

theorem Job.drawn_refl : Job.drawn k v code [] j j :=
  ⟨rfl, fun c => (if_neg (by simp)).symm, by simp, fun c => (if_neg (by simp)).symm, by simp⟩

theorem Job.drew_against (h : v c ≠ 0) (j : Job) : Job.drew k v code j c = { j with
    draws := (enterPart k c (code c, v c) j.draws).1, ink := j.ink.set c (j.ink.get c - v c)
    flags := { j.flags with
      priceMerged := j.flags.priceMerged || (enterPart k c (code c, v c) j.draws).2
      overrunInk := j.flags.overrunInk || Decidable.decide (j.ink.get c < v c) } } := if_neg h

theorem Vec12.get_set (a : Vec12) (c d : Chan) (n : Nat) : (a.set c n).get d = if d = c then n else a.get d := by
  by_cases h : d = c
  · subst h; simp [get_getElem]
  · have : c.val ≠ d.val := fun e => h (Fin.ext e.symm)
    simp [get_getElem, this, h]

/-- The draw of one more channel. -/
theorem Job.drawn.next (h : Job.drawn k v code l j i) (hc : c ∉ l) : Job.drawn k v code (l ++ [c]) j (Job.drew k v code i c) := by
  have entries := (h.entries c).trans (if_neg fun both => hc both.1)
  have ink := (h.ink c).trans (if_neg hc)
  have mem : ∀ d, d ∈ l ++ [c] ↔ d = c ∨ d ∈ l := by simp [or_comm]
  by_cases zero : v c = 0
  · rw [show Job.drew k v code i c = i from if_pos zero]
    refine ⟨h.record, fun d => ?_, h.merged.trans (or_congr_right ?_), fun d => ?_, h.overrun.trans (or_congr_right ?_)⟩
    · rw [h.entries]
      refine if_congr ?_ rfl rfl
      rw [mem]
      exact ⟨fun ⟨a, b⟩ => ⟨.inr a, b⟩, fun ⟨a, b⟩ => ⟨a.resolve_left fun e => b (e ▸ zero), b⟩⟩
    · refine exists_congr fun d => ?_
      rw [mem]
      exact ⟨fun ⟨a, b⟩ => ⟨.inr a, b⟩, fun ⟨a, b⟩ => ⟨a.resolve_left fun e => b.1 (e ▸ zero), b⟩⟩
    · rw [h.ink]
      by_cases e : d = c
      · subst e; rw [if_neg hc, if_pos ((mem d).mpr (.inl rfl)), zero, Nat.sub_zero]
      · exact if_congr (by rw [mem]; simp [e]) rfl rfl
    · refine exists_congr fun d => ?_
      rw [mem]
      exact ⟨fun ⟨a, b⟩ => ⟨.inr a, b⟩, fun ⟨a, b⟩ => ⟨a.resolve_left fun e => b.1 (e ▸ zero), b⟩⟩
  · have split : ∀ p : Chan → Prop, (∃ d ∈ l ++ [c], p d) ↔ p c ∨ ∃ d ∈ l, p d := fun p => by
      constructor
      · rintro ⟨d, hd, hp⟩
        exact ((mem d).mp hd).elim (fun e => .inl (e ▸ hp)) fun m => .inr ⟨d, m, hp⟩
      · rintro (hp | ⟨d, hd, hp⟩)
        · exact ⟨c, (mem c).mpr (.inl rfl), hp⟩
        · exact ⟨d, (mem d).mpr (.inr hd), hp⟩
    rw [Job.drew_against zero]
    refine ⟨?_, fun d => ?_, ?_, fun d => ?_, ?_⟩
    · conv_lhs => rw [h.record]
    · dsimp only
      by_cases e : d = c
      · subst e
        rw [entriesOn_enterPart, entries, if_pos ⟨(mem d).mpr (.inl rfl), zero⟩]
      · rw [entriesOn_enterPart_ne e, h.entries]
        exact if_congr (by rw [mem]; simp [e]) rfl rfl
    · dsimp only
      rw [Bool.or_eq_true, enterPart_merges, h.merged, entries, split, or_assoc, or_comm (a := ∃ d ∈ l, _)]
      simp only [zero, ne_eq, not_false_eq_true, true_and]
    · dsimp only
      rw [Vec12.get_set]
      by_cases e : d = c
      · subst e
        rw [if_pos rfl, ink, if_pos ((mem d).mpr (.inl rfl))]
      · rw [if_neg e, h.ink]
        exact if_congr (by rw [mem]; simp [e]) rfl rfl
    · dsimp only
      rw [Bool.or_eq_true, decide_eq_true_iff, h.overrun, ink, split, or_assoc, or_comm (a := ∃ d ∈ l, _)]
      simp only [zero, ne_eq, not_false_eq_true, true_and]
end

end Sys2Proof.Machine
end

-- ==== Sys2Proof/Proofs/metering ====
section
/-!
The draws of an accepted swath, channel by channel, where none of them exhausts a lot (R53, R56 to R59, R195), for O31.
-/

namespace Sys2Proof.Machine

/-! ### One channel -/

/-- A draw of `v` of channel `c` from lot `l`, charged to job `j`, and the residue `r` written. -/
structure State.drewFrom (s t : State) (j : Job) (k : SwathKind) (c : Chan) (l : Lot) (v r : Nat) : Prop where
  job : t.job? j.tag = some ((Job.enter k c j (l.code, v)).against c v)
  others : ∀ n, n ≠ j.tag → t.job? n = s.job? n
  chan : t.chan c =
    { s.chan c with reserved := (s.chan c).reserved + (j.ink.get c - v) - j.ink.get c, residue := r }
  chans : ∀ d, d ≠ c → t.chan d = s.chan d
  lot : t.lot? l.code = some (l.take (some k) v)
  lots : ∀ n, n ≠ l.code → t.lot? n = s.lot? n
  kept : ∀ p ∈ s.merged, p ∈ t.merged
  merged : (¬ ∃ d ∈ entriesOn (enterPart k c (l.code, v) j.draws).1 c, d.lot = l.code) → (j.tag, l.code) ∈ t.merged
  dirty : ∀ x, x ∈ t.store.dirty ↔ x ∈ s.store.dirty ∨ x = .lot l.code
  called : t.store.called = s.store.called
  frame : s.within [.channels, .lots, .jobs, .merged, .store] t

section
variable {s : State} {j : Job} {k : SwathKind} {c : Chan} {l : Lot} {v r : Nat}

theorem Lot.take_code : (l.take (some k) v).code = l.code := by cases k <;> rfl

/-- A draw below the remaining volume of the active lot is one part. -/
theorem State.drawChannel_part (ha : s.activeLot c = some l) (hv : v ≠ 0) (lt : v < l.remaining) :
    s.drawChannel (some k) c v = (s.book (some k) l v, [(l.code, v)]) := by
  obtain ⟨p, hp, -⟩ := Option.bind_eq_some_iff.mp ha
  have first : s.drawActive (some k) c v = (s.book (some k) l v, [(l.code, v)]) := by
    unfold State.drawActive
    rw [hp, ha]
    dsimp only
    rw [Nat.min_eq_left lt.le, if_neg hv, if_neg lt.ne]
  have again : ∀ u : State, u.drawActive (some k) c 0 = (u, []) := fun u => by
    unfold State.drawActive
    split
    · exact if_pos (Nat.zero_min _)
    · rfl
  unfold State.drawChannel
  dsimp only
  rw [first]
  dsimp only
  rw [show v - ([(l.code, v)].map Prod.snd).sum = 0 by simp, again]
  rfl

theorem State.book_lot (ho : ordered Lot.code s.lots) : (s.book (some k) l v).lot? l.code = some (l.take (some k) v) := by
  have here := State.lot_setLot_self (s := s.markDirty (.lot l.code)) (x := l.take (some k) v) (by simpa using ho)
  rwa [Lot.take_code] at here

theorem State.book_lot_ne {n : Nat} (h : n ≠ l.code) : (s.book (some k) l v).lot? n = s.lot? n :=
  (State.lot_setLot_ne (s := s.markDirty (.lot l.code)) (by rw [Lot.take_code]; exact h)).trans
    ((s.markDirty_within _).lot (by decide) n)

theorem State.mem_markDirty {x y : RecKey} : x ∈ (s.markDirty y).store.dirty ↔ x ∈ s.store.dirty ∨ x = y := by
  unfold State.markDirty
  split
  · rename_i h
    have mem : y ∈ s.store.dirty := by simpa using h
    exact ⟨.inl, fun o => o.elim id fun e => e ▸ mem⟩
  · simp

theorem State.markDirty_called {y : RecKey} : (s.markDirty y).store.called = s.store.called := by
  unfold State.markDirty; split <;> rfl

/-- What a step that makes no commit point leaves of the dirty marks and the commit points called for. -/
theorem Store.hands.still {a b : Store} (h : a.hands b 0) : b.dirty = a.dirty ∧ b.called = a.called := by
  obtain ⟨e, -⟩ := h
  rw [e]
  exact ⟨rfl, rfl⟩

theorem State.book_store : (∀ x, x ∈ (s.book (some k) l v).store.dirty ↔ x ∈ s.store.dirty ∨ x = .lot l.code) ∧
    (s.book (some k) l v).store.called = s.store.called := by
  obtain ⟨dirty, called⟩ := Store.hands.still (State.setLot_hands (s := s.markDirty (.lot l.code))
    (Store.hands_refl _) (l.take (some k) v))
  refine ⟨fun x => ?_, called.trans State.markDirty_called⟩
  rw [show (s.book (some k) l v).store.dirty = _ from dirty]
  exact State.mem_markDirty

theorem State.setResidue_store : (s.setResidue c r).store = s.store := State.modChan_store rfl rfl

theorem State.setResidue_chan : (s.setResidue c r).chan c = { s.chan c with residue := r } := s.chan_modChan_self c _

theorem State.setResidue_chan_ne {d : Chan} (h : d ≠ c) : (s.setResidue c r).chan d = s.chan d := s.chan_modChan_ne h _

theorem State.moveChanInk_chan (a b : Nat) : (s.moveChanInk c a b).chan c =
    { s.chan c with reserved := (s.chan c).reserved + b - a } := s.chan_modChan_self c _

theorem State.moveChanInk_chan_ne {d : Chan} (h : d ≠ c) (a b : Nat) : (s.moveChanInk c a b).chan d = s.chan d :=
  s.chan_modChan_ne h _

/-- The draw of a channel charged to a job. -/
theorem State.applyChannel_drewFrom (hs : s.tables) (hj : s.job? j.tag = some j) (ha : s.activeLot c = some l) (hv : v ≠ 0)
    (lt : v < l.remaining) : s.drewFrom (s.applyChannel (some (j.tag, k)) c v r) j k c l v r := by
  obtain ⟨b, hb⟩ : ∃ b, b = s.book (some k) l v := ⟨_, rfl⟩
  obtain ⟨i, hi⟩ : ∃ i, i = (Job.enter k c j (l.code, v)).against c v := ⟨_, rfl⟩
  obtain ⟨m, hm⟩ : ∃ m, m = b.moveChanInk c (j.ink.get c) (j.ink.get c - v) := ⟨_, rfl⟩
  obtain ⟨w, hw⟩ : ∃ w, w = m.setJob i := ⟨_, rfl⟩
  obtain ⟨q, hq⟩ : ∃ q, q = w.noteMerged i c [(l.code, v)] := ⟨_, rfl⟩
  have booked : s.within [.lots, .store] b := hb ▸ s.book_within _ _ _
  have charged : b.chargeJob j.tag k c v [(l.code, v)] = q := by
    unfold State.chargeJob
    rw [booked.job (by decide), hj]
    dsimp only
    rw [List.foldl_cons, List.foldl_nil, ← hi, ← hm, ← hw, ← hq]
  have e : s.applyChannel (some (j.tag, k)) c v r = q.setResidue c r := by
    unfold State.applyChannel
    rw [if_neg hv, show Option.map Prod.snd (some (j.tag, k)) = some k from rfl, State.drawChannel_part ha hv lt, ← hb]
    dsimp only
    rw [charged]
  have moved : b.within [.channels, .store] m := hm ▸ b.moveChanInk_within _ _ _
  have wrote : m.within [.jobs, .store] w := hw ▸ m.setJob_within i
  have noted : w.within [.merged] q := hq ▸ State.noteMerged_within _ _ _ _
  have put : q.within [.channels, .store] (q.setResidue c r) := State.modChan_within _ _ _
  have tag : i.tag = j.tag := by rw [hi]; rfl
  have draws : i.draws = (enterPart k c (l.code, v) j.draws).1 := by rw [hi]; rfl
  have jobsOrdered : ordered Job.tag m.jobs := by
    rw [show m.jobs = s.jobs from (moved .jobs (by decide)).trans (booked .jobs (by decide))]; exact hs.jobs
  have hands : b.store.hands (q.setResidue c r).store 0 := by
    rw [State.setResidue_store, show q.store = w.store from noted .store (by decide), hw]
    exact State.setJob_store_hands (hm ▸ State.moveChanInk_store _ _) i
  have chans : ∀ d, q.chan d = m.chan d := fun d => (noted.chan (by decide) d).trans (wrote.chan (by decide) d)
  have same : ∀ d, b.chan d = s.chan d := booked.chan (by decide)
  obtain ⟨dirty, called⟩ := State.book_store (s := s) (k := k) (l := l) (v := v)
  obtain ⟨dirty', called'⟩ := hands.still
  rw [← hb] at dirty called
  rw [e]
  refine ⟨?_, fun n hn => ?_, ?_, fun d hd => ?_, ?_, fun n hn => ?_, fun p hp => ?_, fun none => ?_, fun x => ?_, ?_, ?_⟩
  · rw [put.job (by decide), noted.job (by decide), hw, ← hi, ← tag]
    exact State.job_setJob_self jobsOrdered
  · rw [put.job (by decide), noted.job (by decide), hw, State.job_setJob_ne (by rw [tag]; exact hn), moved.job (by decide),
      booked.job (by decide)]
  · rw [State.setResidue_chan, chans, hm, State.moveChanInk_chan, same]
  · rw [State.setResidue_chan_ne hd, chans, hm, State.moveChanInk_chan_ne hd, same]
  · rw [put.lot (by decide), noted.lot (by decide), wrote.lot (by decide), moved.lot (by decide), hb]
    exact State.book_lot hs.lots
  · rw [put.lot (by decide), noted.lot (by decide), wrote.lot (by decide), moved.lot (by decide), hb]
    exact State.book_lot_ne hn
  · rw [show (q.setResidue c r).merged = q.merged from put .merged (by decide), hq]
    refine List.mem_dedup.mpr (List.mem_append_left _ ?_)
    rw [show w.merged = s.merged from
      (wrote .merged (by decide)).trans ((moved .merged (by decide)).trans (booked .merged (by decide)))]
    exact hp
  · rw [show (q.setResidue c r).merged = q.merged from put .merged (by decide), hq, ← tag]
    refine List.mem_dedup.mpr (List.mem_append_right _ ?_)
    have out : (i.draws.any fun d => d.channel == c && d.lot == l.code) = false := by
      rw [List.any_eq_false]
      intro d hd both
      rw [Bool.and_eq_true, beq_iff_eq, beq_iff_eq] at both
      exact none ⟨d, mem_entriesOn.mpr ⟨draws ▸ hd, both.1⟩, both.2⟩
    rw [List.filter_cons_of_pos (by rw [out]; rfl)]
    exact List.mem_cons_self
  · rw [dirty']; exact dirty x
  · rw [called', called]
  · exact (((booked.next [.channels, .lots, .jobs, .merged, .store] moved).next [.channels, .lots, .jobs, .merged, .store] wrote).next
      [.channels, .lots, .jobs, .merged, .store] noted).next _ put
end

/-! ### The channels in turn -/

/-- What is left where the channels `l` were drawn on. -/
structure State.metered (s t : State) (j : Job) (k : SwathKind) (v r : Chan → Nat) (lot : Chan → Lot) (l : List Chan) :
    Prop where
  job : ∃ i, t.job? j.tag = some i ∧ Job.drawn k v (fun c => (lot c).code) l j i
  others : ∀ n, n ≠ j.tag → t.job? n = s.job? n
  chan : ∀ c ∈ l, t.chan c =
    { s.chan c with reserved := (s.chan c).reserved + (j.ink.get c - v c) - j.ink.get c, residue := r c }
  chans : ∀ c, c ∉ l → t.chan c = s.chan c
  taken : ∀ c ∈ l, v c ≠ 0 → t.lot? (lot c).code = some ((lot c).take (some k) (v c))
  spared : ∀ n, (∀ c ∈ l, v c ≠ 0 → n ≠ (lot c).code) → t.lot? n = s.lot? n
  merged : ∀ c ∈ l, v c ≠ 0 → ¬ (∃ d ∈ entriesOn j.draws c, d.lot = (lot c).code) → 3 ≤ (entriesOn j.draws c).length →
    (j.tag, (lot c).code) ∈ t.merged
  dirty : ∀ x, x ∈ t.store.dirty ↔ x ∈ s.store.dirty ∨ ∃ c ∈ l, v c ≠ 0 ∧ x = .lot (lot c).code
  called : t.store.called = s.store.called
  tables : t.tables
  mind : s.minds t
  frame : s.within [.channels, .lots, .jobs, .merged, .store] t

/-- The draws find their lots, each its own. -/
structure State.fits (s : State) (v : Chan → Nat) (lot : Chan → Lot) : Prop where
  active : ∀ c, v c ≠ 0 → s.activeLot c = some (lot c)
  less : ∀ c, v c ≠ 0 → v c < (lot c).remaining
  apart : ∀ c d, c ≠ d → v c ≠ 0 → v d ≠ 0 → (lot c).code ≠ (lot d).code

section
variable {s t : State} {j : Job} {k : SwathKind} {v r : Chan → Nat} {lot : Chan → Lot} {l : List Chan} {c : Chan}

theorem State.metered_refl (hs : s.tables) (hj : s.job? j.tag = some j) : s.metered s j k v r lot [] :=
  ⟨⟨j, hj, Job.drawn_refl⟩, fun _ _ => rfl, by simp, fun _ _ => rfl, by simp, fun _ _ => rfl, by simp, by simp, rfl, hs,
    s.minds_refl, s.within_refl _⟩

theorem State.activeLot_found {x : Lot} (h : s.activeLot c = some x) :
    ∃ p n, (s.chan c).slots.active = some p ∧ (s.chan c).slots.at p = some n ∧ s.lot? n = some x := by
  obtain ⟨p, hp, h⟩ := Option.bind_eq_some_iff.mp h
  obtain ⟨n, hn, h⟩ := Option.bind_eq_some_iff.mp h
  exact ⟨p, n, hp, hn, h⟩

theorem State.activeLot_congr {x : Lot} (h : s.activeLot c = some x) (hc : (t.chan c).slots = (s.chan c).slots)
    (hl : t.lot? x.code = s.lot? x.code) : t.activeLot c = some x := by
  obtain ⟨p, n, active, at_, found⟩ := State.activeLot_found h
  obtain rfl : x.code = n := State.lot_key found
  unfold State.activeLot State.lotIn
  rw [hc, active, Option.bind_some, at_, Option.bind_some, hl, found]

/-- The active lot of a channel not drawn on yet is the one at the start. -/
theorem State.metered.active (h : s.metered t j k v r lot l) (fit : s.fits v lot) (hc : c ∉ l) (hv : v c ≠ 0) :
    t.activeLot c = some (lot c) :=
  State.activeLot_congr (fit.active c hv) (by rw [h.chans c hc])
    (h.spared _ fun d hd hv' => fit.apart c d (fun e => hc (e ▸ hd)) hv hv')

theorem State.metered.nextZero (h : s.metered t j k v r lot l) (hc : c ∉ l) (zero : v c = 0) :
    s.metered (t.applyChannel (some (j.tag, k)) c (v c) (r c)) j k v r lot (l ++ [c]) := by
  have e : t.applyChannel (some (j.tag, k)) c (v c) (r c) = t.setResidue c (r c) := if_pos zero
  have put : t.within [.channels, .store] (t.setResidue c (r c)) := t.modChan_within _ _
  have store : (t.setResidue c (r c)).store = t.store := State.setResidue_store
  have mem : ∀ {d}, d ∈ l ++ [c] → v d ≠ 0 → d ∈ l := fun {d} hd hv =>
    (List.mem_append.mp hd).resolve_right fun e => hv (by rw [List.mem_singleton.mp e]; exact zero)
  obtain ⟨i, here, drawn⟩ := h.job
  have tables := (t.applyChannel_keeps (some (j.tag, k)) c (v c) (r c)).tables h.tables
  have mind := h.mind.trans (t.applyChannel_minds (some (j.tag, k)) c (v c) (r c))
  rw [e] at tables mind ⊢
  refine ⟨⟨i, (put.job (by decide) _).trans here, ?_⟩, fun n hn => (put.job (by decide) n).trans (h.others n hn),
    fun d hd => ?_, fun d hd => ?_, fun d hd hv => (put.lot (by decide) _).trans (h.taken d (mem hd hv) hv),
    fun n hn => (put.lot (by decide) n).trans (h.spared n fun d hd => hn d (List.mem_append_left _ hd)),
    fun d hd hv none full => ?_, fun x => ?_, (congrArg Store.called store).trans h.called, tables, mind,
    h.frame.next _ put⟩
  · have next := drawn.next hc
    rwa [show Job.drew k v (fun c => (lot c).code) i c = i from if_pos zero] at next
  · rcases List.mem_append.mp hd with hd | hd
    · rw [State.setResidue_chan_ne (ne_of_mem_of_not_mem hd hc), h.chan d hd]
    · obtain rfl := List.mem_singleton.mp hd
      rw [State.setResidue_chan, h.chans d hc, zero, Nat.sub_zero, Nat.add_sub_cancel]
  · have ne : d ≠ c := fun e => hd (by simp [e])
    rw [State.setResidue_chan_ne ne]
    exact h.chans d fun hd' => hd (List.mem_append_left _ hd')
  · rw [show (t.setResidue c (r c)).merged = t.merged from put .merged (by decide)]
    exact h.merged d (mem hd hv) hv none full
  · rw [store, h.dirty]
    refine or_congr_right (exists_congr fun d => ?_)
    exact ⟨fun ⟨a, b⟩ => ⟨List.mem_append_left _ a, b⟩, fun ⟨a, b⟩ => ⟨mem a b.1, b⟩⟩

theorem State.metered.nextDraw (h : s.metered t j k v r lot l) (fit : s.fits v lot) (hc : c ∉ l) (hv : v c ≠ 0) :
    s.metered (t.applyChannel (some (j.tag, k)) c (v c) (r c)) j k v r lot (l ++ [c]) := by
  obtain ⟨i, here, drawn⟩ := h.job
  have tag : i.tag = j.tag := State.job_key here
  have ink : i.ink.get c = j.ink.get c := (drawn.ink c).trans (if_neg hc)
  have own : entriesOn i.draws c = entriesOn j.draws c := (drawn.entries c).trans (if_neg fun both => hc both.1)
  have drew := State.applyChannel_drewFrom (r := r c) (k := k) h.tables (tag ▸ here) (h.active fit hc hv) hv (fit.less c hv)
  have tables := (t.applyChannel_keeps (some (j.tag, k)) c (v c) (r c)).tables h.tables
  have mind := h.mind.trans (t.applyChannel_minds (some (j.tag, k)) c (v c) (r c))
  have next := drawn.next hc
  rw [show Job.drew k v (fun c => (lot c).code) i c = _ from if_neg hv] at next
  rw [tag] at drew
  generalize t.applyChannel (some (j.tag, k)) c (v c) (r c) = u at *
  have job := drew.job
  rw [tag] at job
  have others := drew.others
  rw [tag] at others
  have apart : ∀ d ∈ l, v d ≠ 0 → (lot d).code ≠ (lot c).code := fun d hd hv' => fit.apart d c (fun e => hc (e ▸ hd)) hv' hv
  refine ⟨⟨_, job, next⟩, fun n hn => (others n hn).trans (h.others n hn), fun d hd => ?_, fun d hd => ?_,
    fun d hd hv' => ?_, fun n hn => ?_, fun d hd hv' none full => ?_, fun x => ?_, drew.called.trans h.called, tables, mind,
    h.frame.next _ drew.frame⟩
  · rcases List.mem_append.mp hd with hd | hd
    · rw [drew.chans d (ne_of_mem_of_not_mem hd hc), h.chan d hd]
    · obtain rfl := List.mem_singleton.mp hd
      rw [drew.chan, h.chans d hc, ink]
  · rw [drew.chans d fun e => hd (by simp [e])]
    exact h.chans d fun hd' => hd (List.mem_append_left _ hd')
  · rcases List.mem_append.mp hd with hd | hd
    · rw [drew.lots _ (apart d hd hv')]; exact h.taken d hd hv'
    · obtain rfl := List.mem_singleton.mp hd
      exact drew.lot
  · rw [drew.lots n (hn c (by simp) hv)]
    exact h.spared n fun d hd => hn d (List.mem_append_left _ hd)
  · rcases List.mem_append.mp hd with hd | hd
    · exact drew.kept _ (h.merged d hd hv' none full)
    · obtain rfl := List.mem_singleton.mp hd
      have now := drew.merged
      rw [entriesOn_enterPart, own, tag] at now
      exact now (entered_merged none full)
  · rw [drew.dirty, h.dirty, or_assoc]
    refine or_congr_right ⟨fun o => ?_, fun ⟨d, hd, hv', e⟩ => ?_⟩
    · rcases o with ⟨d, hd, both⟩ | e
      · exact ⟨d, List.mem_append_left _ hd, both⟩
      · exact ⟨c, by simp, hv, e⟩
    · rcases List.mem_append.mp hd with hd | hd
      · exact .inl ⟨d, hd, hv', e⟩
      · obtain rfl := List.mem_singleton.mp hd
        exact .inr e

theorem State.metered.next (h : s.metered t j k v r lot l) (fit : s.fits v lot) (hc : c ∉ l) :
    s.metered (t.applyChannel (some (j.tag, k)) c (v c) (r c)) j k v r lot (l ++ [c]) := by
  by_cases zero : v c = 0
  · exact h.nextZero hc zero
  · exact h.nextDraw fit hc zero

theorem State.metered.all (fit : s.fits v lot) {m : List Chan} (hn : (l ++ m).Nodup) (h : s.metered t j k v r lot l) :
    s.metered (m.foldl (fun s c => s.applyChannel (some (j.tag, k)) c (v c) (r c)) t) j k v r lot (l ++ m) := by
  induction m generalizing t l with
  | nil => rwa [List.append_nil]
  | cons c m ih =>
    have out : c ∉ l := fun hc => (List.nodup_append.mp hn).2.2 c hc c List.mem_cons_self rfl
    have next := ih (l := l ++ [c]) (by rwa [List.append_assoc]) (h.next fit out)
    rwa [List.append_assoc] at next
end

end Sys2Proof.Machine
end

-- ==== Sys2Proof/Proofs/evaluated ====
section
/-!
The evaluation of the channels behind the draws of a frame, in a handling that gathers its commit points (R60, R80), for O31.
-/

namespace Sys2Proof.Machine

/-! ### Notices raised on the way -/

/-- What a handling has heard at `s` it has heard at `t`, and what was raised in between behind it. -/
structure State.hears (s t : State) : Prop where
  mind : s.minds t
  more : s.store.sound → ∀ (b : State) l, b.heard s l → ∃ m, b.heard t (l ++ m) ∧ ∀ n ∈ m, s.store.called ≤ n.1

section
variable {s t u : State}

theorem State.hears_of_quiet (h : s.minds t) (hn : t.notices = s.notices) : s.hears t :=
  ⟨h, fun hs b l hb => ⟨[], by rw [List.append_nil]; exact hb.minds h hs hn, by simp⟩⟩

theorem State.hears_refl (s : State) : s.hears s := State.hears_of_quiet s.minds_refl rfl

theorem State.hears.trans (h : s.hears t) (k : t.hears u) : s.hears u where
  mind := h.mind.trans k.mind
  more hs b l hb := by
    obtain ⟨m, hm, low⟩ := h.more hs b l hb
    obtain ⟨n, hn, low'⟩ := k.more (h.mind.sound hs) b _ hm
    refine ⟨m ++ n, by rwa [← List.append_assoc], fun x hx => ?_⟩
    rcases List.mem_append.mp hx with hx | hx
    · exact low x hx
    · exact h.mind.called.trans (low' x hx)

theorem State.hears_raise (s : State) (u : Subject) (d : Detail) : s.hears (s.raise u d) :=
  ⟨s.raise_minds u d, fun hs _ _ hb => ⟨_, hb.raise hs u d, by simp⟩⟩

theorem State.hears_withdraw {j : Job} (why : Resource) (hr : ordered Roll.id s.rolls) : s.hears (s.withdraw j why) :=
  ⟨s.withdraw_minds j why, fun hs _ _ hb => ⟨_, hb.withdraw why hs hr, by simp⟩⟩

theorem State.hears_withdrawAll (why : Resource) {w : List Job} (hr : ordered Roll.id s.rolls) : s.hears (s.withdrawAll w why) := by
  induction w generalizing s with
  | nil => exact s.hears_refl
  | cons j w ih => exact (State.hears_withdraw why hr).trans (ih ((s.withdraw_keeps j why).rolls hr))

theorem State.hears_evalChannel (c : Chan) : s.hears (s.evalChannel c) := by
  have first : s.hears (s.modChan c fun ch => { ch with state := channelStateOf (s.remainingTotal c) (s.chan c).cfg.reserve }) :=
    State.hears_of_quiet (s.modChan_minds c _) (s.modChan_within c _ .notices (by decide))
  unfold State.evalChannel
  dsimp only
  split
  · exact first
  split
  · exact first
  · exact first.trans (State.hears_raise _ _ _)
  · exact first.trans (State.hears_raise _ _ _)
end

/-! ### One channel evaluated -/

/-- What the evaluation of the channels leaves where commit points are gathered. -/
structure State.evaluated (s t : State) : Prop where
  job : ∀ n j, s.job? n = some j → j.state = .printing →
    ∃ ink risk, t.job? n = some { j with ink := ink, flags := { j.flags with inkAtRisk := risk } }
  chan : ∀ c, t.chan c = { s.chan c with reserved := (t.chan c).reserved, state := (t.chan c).state }
  roll : ∀ id x, s.roll? id = some x → ∃ n, t.roll? id = some { x with reserved := n }
  hands : s.store.hands t.store 0
  gathered : ∀ g, s.handling.gathered = some g →
    ∃ p, t.handling = { s.handling with gathered := some { g with points := p } }
  keep : s.keeps t
  hear : s.hears t
  frame : s.within lawFields t

section
variable {s t u : State} {c : Chan} {g : Gathered}

theorem State.evaluated_refl (s : State) : s.evaluated s :=
  ⟨fun _ j h _ => ⟨j.ink, j.flags.inkAtRisk, h⟩, fun _ => rfl, fun _ x h => ⟨x.reserved, h⟩, s.store.hands_refl,
    fun g h => ⟨g.points, by rw [← h]⟩, s.keeps_refl, s.hears_refl, s.within_refl _⟩

theorem State.evaluated.trans (h : s.evaluated t) (k : t.evaluated u) : s.evaluated u where
  job n j hj hp := by
    obtain ⟨ink, risk, e⟩ := h.job n j hj hp
    obtain ⟨ink', risk', e'⟩ := k.job n _ e hp
    exact ⟨ink', risk', e'⟩
  chan c := by rw [k.chan c, h.chan c]
  roll id x hx := by
    obtain ⟨n, e⟩ := h.roll id x hx
    obtain ⟨m, e'⟩ := k.roll id _ e
    exact ⟨m, e'⟩
  hands := Store.hands.trans h.hands k.hands
  gathered g hg := by
    obtain ⟨p, e⟩ := h.gathered g hg
    obtain ⟨q, e'⟩ := k.gathered _ (congrArg Handling.gathered e)
    exact ⟨q, by rw [e', e]⟩
  keep := h.keep.trans k.keep
  hear := h.hear.trans k.hear
  frame := h.frame.trans k.frame

theorem State.evalChannel_store : (s.evalChannel c).store = s.store := by
  have first : (s.modChan c fun ch => { ch with state := channelStateOf (s.remainingTotal c) (s.chan c).cfg.reserve }).store =
      s.store := State.modChan_store rfl rfl
  unfold State.evalChannel
  dsimp only
  split
  · exact first
  split
  · exact first
  · exact (State.raise_within _ _ _ .store (by decide)).trans first
  · exact (State.raise_within _ _ _ .store (by decide)).trans first

theorem State.chan_evalChannel_ne {d : Chan} (h : d ≠ c) : (s.evalChannel c).chan d = s.chan d := by
  have first := s.chan_modChan_ne h fun ch => { ch with state := channelStateOf (s.remainingTotal c) (s.chan c).cfg.reserve }
  unfold State.evalChannel
  dsimp only
  split
  · exact first
  split
  · exact first
  · exact ((State.raise_within _ _ _).chan (by decide) d).trans first
  · exact ((State.raise_within _ _ _).chan (by decide) d).trans first

theorem State.evalChannel_chan (d : Chan) : (s.evalChannel c).chan d =
    { s.chan d with state := ((s.evalChannel c).chan d).state } := by
  by_cases h : d = c
  · subst h; rw [State.chan_evalChannel_self]
  · rw [State.chan_evalChannel_ne h]

theorem State.evalChannel_evaluated (c : Chan) : s.evaluated (s.evalChannel c) where
  job n j hj _ := ⟨j.ink, j.flags.inkAtRisk, ((s.evalChannel_within c).job (by decide) n).trans hj⟩
  chan d := by rw [State.evalChannel_chan d]
  roll id x hx := ⟨x.reserved, ((s.evalChannel_within c).roll (by decide) id).trans hx⟩
  hands := by rw [State.evalChannel_store]; exact s.store.hands_refl
  gathered g hg := ⟨g.points, by
    rw [show (s.evalChannel c).handling = s.handling from s.evalChannel_within c .handling (by decide), ← hg]⟩
  keep := s.evalChannel_keeps c
  hear := State.hears_evalChannel c
  frame := (s.evalChannel_within c).mono (by decide)

/-- The withdrawals of the ink law leave the printing jobs. -/
theorem State.withdrawAll_evaluated (hs : s.tables) (hg : s.handling.gathered = some g) {q : Job → Bool} {w : List Job}
    (h : s.turns q w) (why : Resource) : s.evaluated (s.withdrawAll w why) where
  job n j hj hp := by
    refine ⟨j.ink, j.flags.inkAtRisk, (State.withdrawAll_job_ne why fun i hi e => ?_).trans hj⟩
    obtain ⟨mem, admitted⟩ := h.mem i hi
    rw [hs.jobs.eq_of_key mem (State.job_mem hj) (e.trans (State.job_key hj).symm), hp] at admitted
    cases admitted
  chan d := by rw [State.withdrawAll_chan]
  roll id x hx := ⟨_, State.withdrawAll_roll why hs hx⟩
  hands := (State.withdrawAll_later why s.store.hands_refl hg).1
  gathered l hl := ⟨_, (State.withdrawAll_later why s.store.hands_refl hl).2⟩
  keep := s.withdrawAll_keeps w why
  hear := State.hears_withdrawAll why hs.rolls
  frame := s.withdrawAll_within w why

/-- The trim of the printing job. -/
theorem State.trimInk_evaluated (hs : s.tables) (hg : s.handling.gathered = some g) : s.evaluated (s.trimInk c) := by
  cases hp : s.printing? with
  | none => rw [State.trimInk_none hp]; exact s.evaluated_refl
  | some i =>
    by_cases zero : min (i.ink.get c) ((s.chan c).reserved - s.remainingTotal c) = 0
    · rw [State.trimInk_zero hp zero]; exact s.evaluated_refl
    have keep := s.trimInk_keeps c
    have mind := s.trimInk_minds c
    have frame := s.trimInk_within c
    rw [State.trimInk_some hp zero] at keep mind frame ⊢
    have le : min (i.ink.get c) ((s.chan c).reserved - s.remainingTotal c) ≤ i.ink.get c := Nat.min_le_left _ _
    generalize min (i.ink.get c) ((s.chan c).reserved - s.remainingTotal c) = cut at *
    have mem := State.job_of_mem hs.jobs (State.printing_mem hp).1
    have job := State.cutInk_job (s := s) (c := c) (j := i) (cut := cut) hs.jobs
    have jobs := fun n (hn : n ≠ i.tag) => State.cutInk_job_ne (s := s) (c := c) (j := i) (cut := cut) hn
    have chan := State.cutInk_chan (s := s) le
    have chans := fun d (hd : d ≠ c) => State.cutInk_chan_ne (s := s) (j := i) (cut := cut) hd
    have cutting : s.within [.jobs, .channels, .store] (s.cutInk c i cut) := State.cutInk_within
    have hands : s.store.hands (s.cutInk c i cut).store 0 := State.setJob_store_hands (State.moveChanInk_store _ _) _
    generalize s.cutInk c i cut = u at *
    have made : u.within [.store, .handling] (u.commit [.job i.tag]) := State.commit_within _ _
    have same : u.handling = s.handling := cutting .handling (by decide)
    have later := fun l (hl : s.handling.gathered = some l) =>
      State.commit_later (s := u) (l := l) (by rw [same]; exact hl) [.job i.tag]
    refine ⟨fun n j hj _ => ?_, fun d => ?_, fun id x hx => ⟨x.reserved, ?_⟩, ?_,
      fun l hl => ⟨l.points ++ [[.job i.tag]], ?_⟩, keep,
      State.hears_of_quiet mind ((made .notices (by decide)).trans (cutting .notices (by decide))), frame⟩
    · by_cases e : n = i.tag
      · subst e
        obtain rfl : i = j := Option.some.inj (mem.symm.trans hj)
        exact ⟨_, _, (made.job (by decide) _).trans job⟩
      · exact ⟨j.ink, j.flags.inkAtRisk, (made.job (by decide) _).trans ((jobs n e).trans hj)⟩
    · rw [made.chan (by decide)]
      by_cases e : d = c
      · subst e; rw [chan]
      · rw [chans d e]
    · rw [made.roll (by decide), cutting.roll (by decide)]; exact hx
    · rw [later g hg]; exact hands
    · rw [later l hl, same]

theorem State.enforceInk_evaluated (hs : s.tables) (hg : s.handling.gathered = some g) : s.evaluated (s.enforceInk c) := by
  obtain ⟨w, turns, -, e⟩ := s.enforceInk_eq c hs
  have first := State.withdrawAll_evaluated hs hg turns (.channel c)
  obtain ⟨p, now⟩ := first.gathered g hg
  rw [e]
  exact first.trans (State.trimInk_evaluated (first.keep.tables hs) (congrArg Handling.gathered now))

/-- Where the ink law holds its restoration changes nothing (R30). -/
theorem State.enforceInk_holds (h : (s.chan c).reserved ≤ s.remainingTotal c) : s.enforceInk c = s := by
  have law : s.inkLawFails c = false := by unfold State.inkLawFails; simpa using h
  have none : ∀ n, withdrawWhile (fun s => s.inkLawFails c) (fun j => j.ink.get c != 0) (.channel c) n s = s := fun n => by
    cases n with
    | zero => rfl
    | succ n => unfold withdrawWhile; rw [law]; rfl
  unfold State.enforceInk
  rw [none]
  cases hp : s.printing? with
  | none => exact State.trimInk_none hp
  | some j => exact State.trimInk_zero hp (by rw [Nat.sub_eq_zero_of_le h, Nat.min_zero])

/-! ### The channels in turn (R60) -/

/-- One channel drawn on, evaluated. -/
def State.judge (s : State) (v : Vec12) (c : Chan) : State := if v.get c = 0 then s else (s.evalChannel c).enforceInk c

theorem State.afterDraws_eq (v : Vec12) : s.afterDraws v = Chan.list.foldl (fun s c => s.judge v c) s := rfl

theorem State.judge_evaluated {v : Vec12} (hs : s.tables) (hg : s.handling.gathered = some g) : s.evaluated (s.judge v c) := by
  unfold State.judge
  split
  · exact s.evaluated_refl
  · have first := State.evalChannel_evaluated (s := s) c
    obtain ⟨p, now⟩ := first.gathered g hg
    exact first.trans (State.enforceInk_evaluated (first.keep.tables hs) (congrArg Handling.gathered now))

theorem State.afterDraws_evaluated {v : Vec12} (hs : s.tables) (hg : s.handling.gathered = some g) :
    s.evaluated (s.afterDraws v) := by
  rw [State.afterDraws_eq]
  generalize Chan.list = l
  induction l generalizing s g with
  | nil => exact s.evaluated_refl
  | cons c l ih =>
    have first := State.judge_evaluated (c := c) (v := v) hs hg
    obtain ⟨p, now⟩ := first.gathered g hg
    exact first.trans (ih (first.keep.tables hs) (congrArg Handling.gathered now))

theorem State.evaluated.remaining (h : s.evaluated t) (c : Chan) : t.remainingTotal c = s.remainingTotal c :=
  State.remainingTotal_congr (by rw [h.chan c]) (h.frame .lots (by decide))

/-- Where the ink law holds on every channel drawn on, no job and no reserved total changes. -/
theorem State.afterDraws_lawful {v : Vec12} (h : ∀ c, v.get c ≠ 0 → (s.chan c).reserved ≤ s.remainingTotal c) :
    (s.afterDraws v).jobs = s.jobs ∧ ∀ c, ((s.afterDraws v).chan c).reserved = (s.chan c).reserved := by
  rw [State.afterDraws_eq]
  generalize Chan.list = l
  induction l generalizing s with
  | nil => exact ⟨rfl, fun _ => rfl⟩
  | cons c l ih =>
    by_cases zero : v.get c = 0
    · rw [List.foldl_cons, show s.judge v c = s from if_pos zero]
      exact ih h
    have first := State.evalChannel_evaluated (s := s) c
    have reserved : ∀ d, ((s.evalChannel c).chan d).reserved = (s.chan d).reserved := fun d => by rw [State.evalChannel_chan d]
    have law : ∀ d, v.get d ≠ 0 → ((s.evalChannel c).chan d).reserved ≤ (s.evalChannel c).remainingTotal d := fun d hd => by
      rw [reserved, first.remaining]; exact h d hd
    have e : s.judge v c = s.evalChannel c := (if_neg zero).trans (State.enforceInk_holds (law c zero))
    obtain ⟨jobs, chans⟩ := ih law
    rw [List.foldl_cons, e]
    exact ⟨jobs.trans (s.evalChannel_within c .jobs (by decide)), fun d => (chans d).trans (reserved d)⟩
end

end Sys2Proof.Machine
end

-- ==== Sys2Proof/Proofs/advance ====
section
/-!
The job advanced by an accepted swath, its cuts planned and its printing ended (R14, R15, R77, R80, R115), for O31.
-/

namespace Sys2Proof.Machine

/-! ### The printing ends, its commit called for (R15, R80) -/

/-- A commit of the job and the notice behind it, called for. -/
def Gathered.finishing (g : Gathered) (j : Job) : Gathered :=
  { points := g.points ++ [[.job j.tag]], notices := g.notices ++ [(.num j.tag, .jobState .finishing j.cause j.flags)] }

/-- What is left where a job moved to FINISHING while commit points are gathered. -/
structure State.endsLater (s t : State) (j : Job) (g : Gathered) : Prop where
  job : t.job? j.tag = some j.finished
  others : ∀ n, n ≠ j.tag → t.job? n = s.job? n
  chan : ∀ c, t.chan c = { s.chan c with reserved := (s.chan c).reserved - j.ink.get c }
  roll : ∀ id x, s.roll? id = some x → ∃ n, t.roll? id = some { x with reserved := n }
  handling : t.handling = { s.handling with gathered := some (g.finishing j) }
  hands : s.store.hands t.store 0
  hear : s.hears t
  frame : s.within [.jobs, .channels, .rolls, .store, .handling] t

section
variable {s t : State} {j : Job} {g : Gathered}

theorem State.raiseJobState_later {n : Nat} (hj : s.job? n = some j) (hg : s.handling.gathered = some g) :
    s.raiseJobState n = s.endHandling { s.handling with
      gathered := some { g with notices := g.notices ++ [(.num n, .jobState j.state j.cause j.flags)] } } := by
  unfold State.raiseJobState State.raiseBehind
  rw [hj]
  dsimp only
  rw [hg]
  rfl

theorem State.finish_later (hs : s.tables) (hj : s.job? j.tag = some j) (hg : s.handling.gathered = some g) :
    s.finish j.tag = (s.freed j).endHandling { s.handling with gathered := some (g.finishing j) } := by
  have here := State.freed_job (j := j) hs.jobs
  have same : (s.freed j).handling = s.handling := State.freed_within .handling (by decide)
  have e : s.finish j.tag = ((s.freed j).commit [.job j.tag]).raiseJobState j.tag := by
    unfold State.finish
    rw [hj]
    rfl
  have later : (s.freed j).commit [.job j.tag] = (s.freed j).endHandling
      { s.handling with gathered := some { g with points := g.points ++ [[.job j.tag]] } } := by
    rw [State.commit_later (l := g) (by rw [same]; exact hg), same]
    rfl
  rw [e, later]
  generalize s.freed j = f at *
  exact State.raiseJobState_later (g := { g with points := g.points ++ [[.job j.tag]] })
    (s := f.endHandling { s.handling with gathered := some { g with points := g.points ++ [[.job j.tag]] } }) here rfl

theorem State.finish_endsLater (hs : s.tables) (hj : s.job? j.tag = some j) (hg : s.handling.gathered = some g) :
    s.endsLater (s.finish j.tag) j g := by
  have wrote := (s.release j).setJob_within j.finished
  have job := State.freed_job (j := j) hs.jobs
  have others : ∀ n, n ≠ j.tag → (s.freed j).job? n = s.job? n := fun n hn =>
    (State.job_setJob_ne (s := s.release j) (x := j.finished) hn).trans ((s.release_within j).job (by decide) n)
  have chan : ∀ c, (s.freed j).chan c = { s.chan c with reserved := (s.chan c).reserved - j.ink.get c } := fun c =>
    (wrote.chan (by decide) c).trans (State.chan_release s j c)
  have roll : ∀ id x, s.roll? id = some x → ∃ n, (s.freed j).roll? id = some { x with reserved := n } := fun id x hx => by
    have same : (s.freed j).roll? id = (s.release j).roll? id := wrote.roll (by decide) id
    rw [same]
    by_cases e : j.spec.roll = id
    · exact ⟨_, e ▸ State.roll_release_self hs.rolls (e ▸ hx)⟩
    · exact ⟨x.reserved, (State.roll_release_ne (Ne.symm e)).trans hx⟩
  have hands : s.store.hands (s.freed j).store 0 := State.setJob_store_hands (State.release_store hs.rolls) _
  have frame : s.within [.jobs, .channels, .rolls, .store] (s.freed j) := State.freed_within
  have mind := s.finish_minds j.tag
  rw [State.finish_later hs hj hg] at mind ⊢
  generalize s.freed j = f at *
  have all := frame.next [.jobs, .channels, .rolls, .store, .handling]
    (f.endHandling_within { s.handling with gathered := some (g.finishing j) })
  exact ⟨job, others, chan, roll, rfl, hands, State.hears_of_quiet mind (all .notices (by decide)), all⟩

/-- A job that finishes with its cut or its strip ahead does not settle yet (R21). -/
theorem State.finishAndTest_later (hs : s.tables) (hj : s.job? j.tag = some j) (hg : s.handling.gathered = some g)
    (ahead : ¬ ((j.cut = .done ∨ j.cut = .uncut) ∧ (j.strip = .resolved ∨ j.strip = .none))) :
    s.finishAndTest j.tag = s.finish j.tag := by
  have settles : j.finished.settles = true ↔ (j.cut = .done ∨ j.cut = .uncut) ∧ (j.strip = .resolved ∨ j.strip = .none) :=
    Job.settles_iff.trans (and_iff_right rfl)
  exact State.settleTest_stays (State.finish_endsLater hs hj hg).job (Bool.eq_false_iff.mpr (mt settles.mp ahead))
end

/-! ### The job advanced (R14, R77) -/

/-- What is left where the record of job `j` became `i` in a swath, before its printing ends. -/
structure State.strode (s t : State) (j i : Job) : Prop where
  job : t.job? j.tag = some i
  others : ∀ n, n ≠ j.tag → t.job? n = s.job? n
  marker : t.store.marker = false
  hands : s.store.hands t.store 0
  keep : s.keeps t
  hear : s.hears t
  frame : s.within [.jobs, .media, .rolls, .check, .store, .out] t

section
variable {s t : State} {j : Job} {k : SwathKind} {r : Roll}

/-- The toggle of the record changes, and with it its image: the clean marker is erased (R196). -/
theorem State.setJob_marker (ho : ordered Job.tag s.jobs) (hj : s.job? j.tag = some j) {i : Job} (ht : i.tag = j.tag)
    (ne : i ≠ j) : (s.setJob i).store.marker = false := by
  have here := State.job_setJob_self (s := s) (x := i) ho
  obtain ⟨-, -, noted, -⟩ := s.noting_notes { s with jobs := insertBy Job.tag i s.jobs } (.job i.tag)
  refine (noted fun e => ne ?_).2
  have e' : (((s.setJob i).job? i.tag).map Image.job).getD .removed = ((s.job? i.tag).map Image.job).getD .removed :=
    (State.noting_image _ _ _ _).trans e
  rw [here, ht, hj] at e'
  exact Image.job.inj e'

theorem State.setJob_strode (hs : s.tables) (hj : s.job? j.tag = some j) {i : Job} (ht : i.tag = j.tag)
    (toggled : i.toggle = !j.toggle) (state : i.state = j.state) : s.strode (s.setJob i) j i where
  job := ht ▸ State.job_setJob_self hs.jobs
  others n hn := State.job_setJob_ne (by rw [ht]; exact hn)
  marker := State.setJob_marker hs.jobs hj ht fun e => by rw [e] at toggled; simp at toggled
  hands := State.setJob_hands s.store.hands_refl i
  keep := State.setJob_keeps_of_mem j (State.job_mem hj) ht.symm fun h => state.symm.trans h
  hear := State.hears_of_quiet (s.setJob_minds i) (s.setJob_within i .notices (by decide))
  frame := (s.setJob_within i).mono (by decide)

/-- The record is written again. -/
theorem State.strode.rewrite {i x : Job} (h : s.strode t j i) (hs : s.tables) (ht : x.tag = j.tag) (state : x.state = i.state) :
    s.strode (t.setJob x) j x where
  job := ht ▸ State.job_setJob_self (h.keep.tables hs).jobs
  others n hn := (State.job_setJob_ne (by rw [ht]; exact hn)).trans (h.others n hn)
  marker := Bool.eq_false_iff.mpr fun e => by
    have hands : t.store.hands (t.setJob x).store 0 := State.setJob_hands t.store.hands_refl x
    have := hands.2.2 e
    rw [h.marker] at this
    cases this
  hands := State.setJob_hands h.hands x
  keep := h.keep.trans (State.setJob_keeps_of_mem i (State.job_mem h.job) ((State.job_key h.job).trans ht.symm)
    fun e => state.symm.trans e)
  hear := h.hear.trans (State.hears_of_quiet (t.setJob_minds x) (t.setJob_within x .notices (by decide)))
  frame := h.frame.trans ((t.setJob_within x).mono (by decide))

/-- A step that changes no job. -/
theorem State.strode.step {i : Job} {u : State} (h : s.strode t j i) (stays : t.within [.media, .rolls, .check, .store, .out] u)
    (hands : t.store.hands u.store 0) (keep : t.keeps u) (mind : t.minds u) : s.strode u j i where
  job := (stays.job (by decide) _).trans h.job
  others n hn := (stays.job (by decide) n).trans (h.others n hn)
  marker := Bool.eq_false_iff.mpr fun e => by
    have := hands.2.2 e
    rw [h.marker] at this
    cases this
  hands := Store.hands.trans h.hands hands
  keep := h.keep.trans keep
  hear := h.hear.trans (State.hears_of_quiet mind (stays .notices (by decide)))
  frame := h.frame.trans (stays.mono (by decide))

/-! ### The last image swath (R80, R115, R135) -/

/-- The record of a job behind its last image swath. -/
def Job.atLast (j : Job) (yes : Bool) (swaths : Nat) : Job := { ((j.advance .image).decide yes swaths) with cut := .pending }

theorem Job.atLast_tag {yes : Bool} {n : Nat} : (j.atLast yes n).tag = j.tag := by cases yes <;> rfl

theorem Job.atLast_state {yes : Bool} {n : Nat} : (j.atLast yes n).state = j.state := by cases yes <;> rfl

/-- The state in which the cuts of the job are planned. -/
def State.decided (s : State) (j : Job) (yes : Bool) : State :=
  (((s.setJob (j.advance .image)).setJob ((j.advance .image).decide yes s.check.plan.stripSwaths)).countPrint yes).setJob
    (j.atLast yes s.check.plan.stripSwaths)

theorem State.countPrint_within (yes : Bool) : s.within [.check] (s.countPrint yes) := by
  unfold State.countPrint
  refine within_ite (s.within_refl _) fun f hf => ?_
  cases f <;> first | rfl | exact absurd (by decide) hf

theorem State.countPrint_minds (yes : Bool) : s.minds (s.countPrint yes) := by
  unfold State.countPrint
  split
  · exact s.minds_refl
  · exact State.minds_same (State.image_congr rfl rfl rfl rfl rfl rfl rfl rfl rfl rfl rfl rfl) rfl rfl

theorem State.decided_strode (hs : s.tables) (hj : s.job? j.tag = some j) (yes : Bool) :
    s.strode (s.decided j yes) j (j.atLast yes s.check.plan.stripSwaths) := by
  have first := State.setJob_strode hs hj (i := j.advance .image) rfl rfl rfl
  have second := first.rewrite hs (x := (j.advance .image).decide yes s.check.plan.stripSwaths) (Job.decide_tag _ _ _)
    (by cases yes <;> rfl)
  have third := second.step ((State.countPrint_within yes).mono (by decide))
    (by rw [(State.countPrint_within yes) .store (by decide)]; exact Store.hands_refl _) (State.countPrint_keeps _ yes)
    (State.countPrint_minds yes)
  exact third.rewrite hs Job.atLast_tag (Job.atLast_state.trans (by cases yes <;> rfl))

theorem State.decided_check (yes : Bool) : (s.decided j yes).check =
    if yes then s.check else { s.check with counter := satAdd 255 s.check.counter 1 } := by
  have wrote : ((s.setJob (j.advance .image)).setJob ((j.advance .image).decide yes s.check.plan.stripSwaths)).check = s.check :=
    ((State.setJob_within _ _) .check (by decide)).trans ((s.setJob_within _) .check (by decide))
  rw [show (s.decided j yes).check = _ from (State.setJob_within _ _) .check (by decide)]
  generalize (s.setJob (j.advance .image)).setJob _ = u at *
  unfold State.countPrint
  cases yes
  · rw [if_neg (by simp), if_neg (by simp), ← wrote]
  · rw [if_pos rfl, if_pos rfl, wrote]

theorem State.decided_within (yes : Bool) : s.within [.jobs, .check, .store] (s.decided j yes) :=
  ((((s.setJob_within _).trans (State.setJob_within _ _)).next [.jobs, .check, .store] (State.countPrint_within yes)).next _
    (State.setJob_within _ _))

/-- The state behind the last image swath, before the printing ends. -/
def State.lastPlanned (s : State) (j : Job) (yes : Bool) : State := (s.decided j yes).planCuts (imageCuts s.media.geometry j yes)

theorem State.advanceSwath_last (hs : s.tables) (hj : s.job? j.tag = some j) (last : j.swathsLeft - 1 = 0) :
    s.advanceSwath j.tag .image = if s.stripWanted j then (s.lastPlanned j true, .accept .yes)
      else ((s.lastPlanned j false).finishAndTest j.tag, .accept .no) := by
  have want : (s.setJob (j.advance .image)).stripWanted (j.advance .image) = s.stripWanted j := by
    have wrote := s.setJob_within (j.advance .image)
    unfold State.stripWanted State.edition?
    rw [show (s.setJob _).check = s.check from wrote .check (by decide),
      show (s.setJob _).editions = s.editions from wrote .editions (by decide)]
    rfl
  have check : (s.setJob (j.advance .image)).check = s.check := s.setJob_within _ .check (by decide)
  have media : (s.setJob (j.advance .image)).media = s.media := s.setJob_within _ .media (by decide)
  have planned : ∀ yes, (((s.setJob (j.advance .image)).setJob
      ((j.advance .image).decide yes s.check.plan.stripSwaths)).countPrint yes).planJobCuts j.tag
        (imageCuts s.media.geometry (j.advance .image) yes) = s.lastPlanned j yes := fun yes => by
    have first := State.setJob_strode hs hj (i := j.advance .image) rfl rfl rfl
    have second := first.rewrite hs (x := (j.advance .image).decide yes s.check.plan.stripSwaths) (Job.decide_tag _ _ _)
      (by cases yes <;> rfl)
    rw [State.planJobCuts_eq (((State.countPrint_within yes).job (by decide) _).trans second.job)]
    rfl
  unfold State.advanceSwath
  rw [hj]
  dsimp only
  rw [if_pos (show (j.advance .image).swathsLeft = 0 from last)]
  unfold State.lastImage
  dsimp only
  rw [want, check, media, Job.advance_tag, planned]
  split
  · rename_i yes; rw [yes]
  · rename_i no; rw [Bool.not_eq_true] at no; rw [no]

theorem State.advanceSwath_image (hj : s.job? j.tag = some j) (more : j.swathsLeft - 1 ≠ 0) :
    s.advanceSwath j.tag .image = (s.setJob (j.advance .image), .accept .none) := by
  unfold State.advanceSwath
  rw [hj]
  exact if_neg more

theorem State.advanceSwath_strip (hj : s.job? j.tag = some j) : s.advanceSwath j.tag .strip =
    if j.stripLeft - 1 = 0 then ((s.setJob (j.advance .strip)).finishAndTest j.tag, .accept .none)
    else (s.setJob (j.advance .strip), .accept .none) := by
  unfold State.advanceSwath
  rw [hj]
  rfl

theorem State.planCuts_idle {es : List CutEntry} (h : s.activeRoll = none) : s.planCuts es = s := by
  unfold State.planCuts
  rw [h]
  cases es.getLast? <;> rfl

theorem State.planCuts_hands {es : List CutEntry} (ho : ordered Roll.id s.rolls) : s.store.hands (s.planCuts es).store 0 := by
  cases hr : s.activeRoll with
  | none => rw [State.planCuts_idle hr]; exact s.store.hands_refl
  | some r =>
    cases es with
    | nil => exact s.store.hands_refl
    | cons e es => exact (State.planCuts_planned ho hr (List.getLast?_eq_some_getLast (by simp))).hands _ _ s.store.hands_refl

theorem State.lastPlanned_strode (hs : s.tables) (hj : s.job? j.tag = some j) (yes : Bool) :
    s.strode (s.lastPlanned j yes) j (j.atLast yes s.check.plan.stripSwaths) := by
  have first := State.decided_strode hs hj yes
  have tables := first.keep.tables hs
  exact first.step ((State.planCuts_within _ _).mono (by decide)) (State.planCuts_hands tables.rolls) (State.planCuts_keeps _ _)
    (State.planCuts_minds _ _)
end

end Sys2Proof.Machine
end

-- ==== Sys2Proof/Proofs/outcome ====
section
/-!
An accepted swath behind its draws, case by case of its kind and of the strip decision (R14, R77, R80, R135), for O31.
-/

namespace Sys2Proof.Machine

/-- What every accepted swath leaves of the job's record. -/
structure Job.swathed (k : SwathKind) (i x : Job) : Prop where
  toggle : x.toggle = !i.toggle
  kind : x.lastKind = some k
  spec : x.spec = i.spec
  gains : x.gains = i.gains
  left : x.swathsLeft = if k = .image then i.swathsLeft - 1 else i.swathsLeft
  flags : x.flags = i.flags
  draws : x.draws = i.draws
  cause : x.cause = i.cause

/-- This is the job's last image swath. -/
def Job.lastSwath (j : Job) (k : SwathKind) : Prop := k = .image ∧ j.swathsLeft = 1

/-- The swath ends the printing of the job. -/
def Job.endsWith (j : Job) (k : SwathKind) (yes : Bool) : Prop := (j.lastSwath k ∧ yes = false) ∨ (k = .strip ∧ j.stripLeft = 1)

/-- The media point of the last cut planned at the last image swath. -/
def lastPoint (g : Geometry) (j : Job) (yes : Bool) : Nat :=
  let sep := fit32 (j.pLead.getD 0 + j.spec.lead + j.spec.image + j.spec.tail)
  if yes then fit32 (sep + g.stripGap + g.stripLength) else sep

/-- What is left of the swath's step from `s` to `t`, the record of job `i` being `x`, before the printing ends where it
does. -/
structure State.advances (s t : State) (i x : Job) (k : SwathKind) (yes : Bool) (a : StripInd) : Prop where
  ends : i.endsWith k yes → s.advanceSwath i.tag k = (t.finishAndTest i.tag, .accept a)
  stays : ¬ i.endsWith k yes → s.advanceSwath i.tag k = (t, .accept a)
  stride : s.strode t i x
  record : Job.swathed k i x
  state : x.state = i.state
  ink : x.ink = i.ink
  ahead : i.endsWith k yes → ¬ ((x.cut = .done ∨ x.cut = .uncut) ∧ (x.strip = .resolved ∨ x.strip = .none))
  lastYes : i.lastSwath k → yes = true → a = .yes ∧ x.lastStrip = some true ∧ x.strip = .planned ∧
    x.stripLeft = s.check.plan.stripSwaths ∧ t.check = s.check
  lastNo : i.lastSwath k → yes = false → a = .no ∧ x.lastStrip = some false ∧ x.strip = i.strip ∧
    t.check = { s.check with counter := min (s.check.counter + 1) 255 }
  other : ¬ i.lastSwath k → a = .none ∧ x.lastStrip = i.lastStrip ∧ t.check = s.check ∧ t.media = s.media ∧ x.cut = i.cut ∧
    t.out = s.out ∧ t.rolls = s.rolls
  cut : i.lastSwath k → x.cut = .pending
  image : ¬ i.lastSwath k → k = .image → x.strip = i.strip ∧ x.stripLeft = i.stripLeft
  strip : k = .strip → x.stripLeft = i.stripLeft - 1 ∧ x.strip = if i.stripLeft = 1 then .printed else i.strip
  plan : ∀ r, i.lastSwath k → s.activeRoll = some r → ∃ e es, imageCuts s.media.geometry i yes = e :: es ∧
    (s.decided i yes).planned t r e es (lastPoint s.media.geometry i yes)

section
variable {s : State} {i : Job} {yes : Bool}

theorem Job.swathed_advance {k : SwathKind} : Job.swathed k i (i.advance k) := by cases k <;> exact ⟨rfl, rfl, rfl, rfl, rfl, rfl, rfl, rfl⟩

theorem Job.swathed_atLast {n : Nat} : Job.swathed .image i (i.atLast yes n) := by
  cases yes <;> exact ⟨rfl, rfl, rfl, rfl, rfl, rfl, rfl, rfl⟩

theorem imageCuts_cons (g : Geometry) (i : Job) (yes : Bool) :
    ∃ e es last, imageCuts g i yes = e :: es ∧ (e :: es).getLast? = some last ∧ last.point = lastPoint g i yes := by
  cases yes <;> exact ⟨_, _, _, rfl, rfl, rfl⟩

/-- An image swath with more to come. -/
theorem State.advances_image (hs : s.tables) (hj : s.job? i.tag = some i) (some : i.swathsLeft ≠ 0) (more : i.swathsLeft ≠ 1) :
    s.advances (s.setJob (i.advance .image)) i (i.advance .image) .image yes .none := by
  have stays := s.setJob_within (i.advance .image)
  have not : ¬ i.lastSwath .image := fun h => more h.2
  have goes : ¬ i.endsWith .image yes := fun h => h.elim (fun h => not h.1) fun h => (nomatch h.1)
  exact ⟨fun h => absurd h goes, fun _ => State.advanceSwath_image hj (by omega), State.setJob_strode hs hj rfl rfl rfl,
    Job.swathed_advance, rfl, rfl, fun h => absurd h goes, fun h => absurd h not, fun h => absurd h not,
    fun _ => ⟨rfl, rfl, stays .check (by decide), stays .media (by decide), rfl, stays .out (by decide), stays .rolls (by decide)⟩,
    fun h => absurd h not, fun _ _ => ⟨rfl, rfl⟩, fun h => (nomatch h), fun _ h => absurd h not⟩

/-- A strip swath. -/
theorem State.advances_strip (hs : s.tables) (hj : s.job? i.tag = some i) (some : i.stripLeft ≠ 0) :
    s.advances (s.setJob (i.advance .strip)) i (i.advance .strip) .strip yes .none := by
  have stays := s.setJob_within (i.advance .strip)
  have not : ¬ i.lastSwath .strip := fun h => (nomatch h.1)
  have last : i.endsWith .strip yes ↔ i.stripLeft = 1 := ⟨fun h => h.elim (fun h => absurd h.1 not) And.right, fun h => .inr ⟨rfl, h⟩⟩
  have one : i.stripLeft - 1 = 0 ↔ i.stripLeft = 1 := by omega
  have strip : (i.advance .strip).strip = if i.stripLeft = 1 then .printed else i.strip := if_congr one rfl rfl
  refine ⟨fun h => (State.advanceSwath_strip hj).trans (if_pos (one.mpr (last.mp h))),
    fun h => (State.advanceSwath_strip hj).trans (if_neg (mt (last.mpr ∘ one.mp) h)), State.setJob_strode hs hj rfl rfl rfl,
    Job.swathed_advance, rfl, rfl, fun h => ?_, fun h => absurd h not, fun h => absurd h not,
    fun _ => ⟨rfl, rfl, stays .check (by decide), stays .media (by decide), rfl, stays .out (by decide), stays .rolls (by decide)⟩,
    fun h => absurd h not, fun _ h => (nomatch h), fun _ => ⟨rfl, strip⟩, fun _ h => absurd h not⟩
  rw [strip, if_pos (last.mp h)]
  rintro ⟨-, h | h⟩ <;> cases h

/-- The last image swath. -/
theorem State.advances_last (hs : s.tables) (hj : s.job? i.tag = some i) (one : i.swathsLeft = 1) :
    s.advances (s.lastPlanned i (s.stripWanted i)) i (i.atLast (s.stripWanted i) s.check.plan.stripSwaths) .image
      (s.stripWanted i) (if s.stripWanted i then .yes else .no) := by
  have last : i.lastSwath .image := ⟨rfl, one⟩
  have goes : i.endsWith .image (s.stripWanted i) ↔ s.stripWanted i = false :=
    ⟨fun h => h.elim And.right fun h => (nomatch h.1), fun h => .inl ⟨last, h⟩⟩
  have eq := State.advanceSwath_last hs hj (by omega)
  have check : (s.lastPlanned i (s.stripWanted i)).check = (s.decided i (s.stripWanted i)).check :=
    State.planCuts_within _ _ .check (by decide)
  rw [State.decided_check] at check
  have stride := State.lastPlanned_strode hs hj (s.stripWanted i)
  have plan : ∀ r, s.activeRoll = some r → ∃ e es, imageCuts s.media.geometry i (s.stripWanted i) = e :: es ∧
      (s.decided i (s.stripWanted i)).planned (s.lastPlanned i (s.stripWanted i)) r e es
        (lastPoint s.media.geometry i (s.stripWanted i)) := fun r hr => by
    obtain ⟨e, es, x, cuts, hx, point⟩ := imageCuts_cons s.media.geometry i (s.stripWanted i)
    have tables := (State.decided_strode hs hj (s.stripWanted i)).keep.tables hs
    have active := ((State.decided_within (s := s) (j := i) (s.stripWanted i)).activeRoll (by decide)).trans hr
    refine ⟨e, es, cuts, ?_⟩
    unfold State.lastPlanned
    rw [cuts, ← point]
    exact State.planCuts_planned tables.rolls active hx
  have cut : (i.atLast (s.stripWanted i) s.check.plan.stripSwaths).cut = .pending := rfl
  generalize s.stripWanted i = b at *
  refine ⟨fun h => ?_, fun h => ?_, stride, Job.swathed_atLast, Job.atLast_state, ?_, fun _ => ?_, fun _ h => ?_, fun _ h => ?_,
    fun h => absurd last h, fun _ => rfl, fun h => absurd last h, fun h => (nomatch h), fun r _ => plan r⟩
  · rw [eq, goes.mp h]; rfl
  · rw [goes, Bool.not_eq_false] at h; rw [eq, h]; rfl
  · cases b <;> rfl
  · rw [cut]; rintro ⟨h | h, -⟩ <;> cases h
  · subst h; exact ⟨rfl, rfl, rfl, rfl, check⟩
  · subst h; exact ⟨rfl, rfl, rfl, check⟩

/-- An accepted swath, whatever its kind. -/
theorem State.advanceSwath_advances (hs : s.tables) (hj : s.job? i.tag = some i) (k : SwathKind)
    (image : k = .image → i.swathsLeft ≠ 0) (strip : k = .strip → i.stripLeft ≠ 0) :
    ∃ t x a, s.advances t i x k (s.stripWanted i) a := by
  cases k with
  | strip => exact ⟨_, _, _, State.advances_strip hs hj (strip rfl)⟩
  | image =>
    by_cases one : i.swathsLeft = 1
    · exact ⟨_, _, _, State.advances_last hs hj one⟩
    · exact ⟨_, _, _, State.advances_image hs hj (image rfl) one⟩
end

/-! ### The gathered commit points made (R80, R193, R194) -/

section
variable {s b : State} {g : Gathered} {l : List (Nat × Subject × Detail)} {u : Subject} {d : Detail}

/-- The one notice behind the gathered commit points is raised behind them all. -/
theorem State.handGathered_heard (hs : s.store.sound) (hg : s.handling.gathered = some g) (hn : g.notices = [(u, d)])
    (h : b.heard s l) : b.heard s.handGathered (l ++ [(s.handGathered.store.called, u, d)]) := by
  let o : State := { s with handling := { s.handling with gathered := none } }
  have opens : s.minds o := State.minds_same (fun k => State.image_congr rfl rfl rfl rfl rfl rfl rfl rfl rfl rfl rfl rfl k) rfl rfl
  obtain ⟨c, hc⟩ : ∃ c, c = (joinPoints g.points).foldl State.commit o := ⟨_, rfl⟩
  have mind : s.minds c := hc ▸ opens.trans (minds_foldl _ (fun s a => s.commit_minds a) _ o)
  have quiet : c.notices = s.notices := hc ▸ within_foldl _ (fun s a => s.commit_within a) (joinPoints g.points) o .notices (by decide)
  have e : s.handGathered = c.raise u d := by
    unfold State.handGathered
    rw [hg]
    dsimp only [Option.getD_some]
    rw [hn, hc]
    rfl
  rw [e]
  exact (h.minds mind hs quiet).raise (mind.sound hs) u d
end

end Sys2Proof.Machine
end

-- ==== Sys2Proof/Proofs/tapped ====
section
/-!
The draws of an accepted swath with the evaluation behind them, as one step (R56, R60), for O31.
-/

namespace Sys2Proof.Machine

/-- What the draws of a swath leave: the job `j` has become `i`. -/
structure State.tapped (s e : State) (j i : Job) (k : SwathKind) (v r : Chan → Nat) (lot : Chan → Lot) : Prop where
  job : e.job? j.tag = some i
  drawn : ∃ i₀ ink risk, Job.drawn k v (fun c => (lot c).code) Chan.list j i₀ ∧
    i = { i₀ with ink := ink, flags := { i₀.flags with inkAtRisk := risk } }
  chan : ∀ c, e.chan c = { s.chan c with residue := r c, reserved := (e.chan c).reserved, state := (e.chan c).state }
  taken : ∀ c, v c ≠ 0 → e.lot? (lot c).code = some ((lot c).take (some k) (v c))
  spared : ∀ n, (∀ c, v c ≠ 0 → n ≠ (lot c).code) → e.lot? n = s.lot? n
  merged : ∀ c, v c ≠ 0 → ¬ (∃ d ∈ entriesOn j.draws c, d.lot = (lot c).code) → 3 ≤ (entriesOn j.draws c).length →
    (j.tag, (lot c).code) ∈ e.merged
  dirty : ∀ x, x ∈ e.store.dirty ↔ x ∈ s.store.dirty ∨ ∃ c, v c ≠ 0 ∧ x = .lot (lot c).code
  called : e.store.called = s.store.called
  handling : ∃ p, e.handling = { since := some s.store.called, gathered := some { points := p } }
  roll : ∀ id x, s.roll? id = some x → ∃ n, e.roll? id = some { x with reserved := n }
  tables : e.tables
  hear : s.opened.gather.hears e
  lawful : (∀ c, v c ≠ 0 → (s.chan c).reserved + (j.ink.get c - v c) - j.ink.get c ≤ e.remainingTotal c) →
    (∀ n, n ≠ j.tag → e.job? n = s.job? n) ∧ (∀ c, i.ink.get c = j.ink.get c - v c) ∧
      i.flags.inkAtRisk = j.flags.inkAtRisk ∧
      ∀ c, (e.chan c).reserved = (s.chan c).reserved + (j.ink.get c - v c) - j.ink.get c
  frame : s.opened.within [.jobs, .channels, .rolls, .lots, .merged, .notices, .store, .handling] e

section
variable {s : State} {j : Job} {k : SwathKind} {v r : Chan → Nat} {lot : Chan → Lot} {V R : Vec12}

theorem Chan.mem_list (c : Chan) : c ∈ Chan.list := List.mem_finRange c

theorem Chan.list_nodup : Chan.list.Nodup := List.nodup_finRange 12

theorem State.applyFrame_tapped (hs : s.tables) (hj : s.job? j.tag = some j) (hp : j.state = .printing) (fit : s.fits v lot)
    (hv : ∀ c, V.get c = v c) (hr : ∀ c, R.get c = r c) :
    ∃ i, s.tapped (s.opened.gather.applyFrame (some (j.tag, k)) V R) j i k v r lot := by
  obtain rfl : (fun c => V.get c) = v := funext hv
  obtain rfl : (fun c => R.get c) = r := funext hr
  have fit' : s.opened.gather.fits (fun c => V.get c) lot := ⟨fit.active, fit.less, fit.apart⟩
  have tables : s.opened.gather.tables := ⟨hs.jobs, hs.lots, hs.rolls, hs.editions, hs.active, hs.store⟩
  have metered := (State.metered_refl (k := k) (v := fun c => V.get c) (r := fun c => R.get c) (lot := lot) tables hj).all fit'
    (l := []) (m := Chan.list) Chan.list_nodup
  have e : s.opened.gather.applyFrame (some (j.tag, k)) V R =
      (Chan.list.foldl (fun s c => s.applyChannel (some (j.tag, k)) c (V.get c) (R.get c)) s.opened.gather).afterDraws V := rfl
  rw [e]
  rw [List.nil_append] at metered
  generalize Chan.list.foldl (fun s c => s.applyChannel (some (j.tag, k)) c (V.get c) (R.get c)) s.opened.gather = m at *
  have begin_ : m.handling = { since := some s.store.called, gathered := some {} } := metered.frame .handling (by decide)
  have gathered : m.handling.gathered = some {} := congrArg Handling.gathered begin_
  have judged := State.afterDraws_evaluated (v := V) metered.tables gathered
  have lawful := State.afterDraws_lawful (s := m) (v := V)
  generalize m.afterDraws V = t at *
  obtain ⟨i₀, here, drawn⟩ := metered.job
  have printing : i₀.state = .printing := by rw [drawn.record]; exact hp
  obtain ⟨ink, risk, job⟩ := judged.job _ _ here printing
  obtain ⟨p, handling⟩ := judged.gathered _ gathered
  obtain ⟨dirty, called⟩ := judged.hands.still
  have mem : ∀ q : Chan → Prop, (∃ c ∈ Chan.list, q c) ↔ ∃ c, q c := fun q =>
    exists_congr fun c => and_iff_right (Chan.mem_list c)
  have lot_ : ∀ n, t.lot? n = m.lot? n := judged.frame.lot (by decide)
  have merged : t.merged = m.merged := judged.frame .merged (by decide)
  have start : s.opened.within [.handling] s.opened.gather := s.opened.gather_within
  refine ⟨_, job, ⟨i₀, ink, risk, drawn, rfl⟩, fun c => ?_, fun c hc => (lot_ _).trans (metered.taken c (Chan.mem_list c) hc),
    fun n hn => (lot_ n).trans (metered.spared n fun c _ => hn c), fun c hc none full => ?_, fun x => ?_, called.trans metered.called,
    ⟨p, ?_⟩, fun id x hx => ?_, judged.keep.tables metered.tables, (State.hears_of_quiet metered.mind
      (metered.frame .notices (by decide))).trans judged.hear, fun law => ?_, ?_⟩
  · rw [judged.chan c, metered.chan c (Chan.mem_list c)]; rfl
  · rw [merged]; exact metered.merged c (Chan.mem_list c) hc none full
  · rw [dirty, metered.dirty, mem]; rfl
  · rw [handling, begin_]
  · exact judged.roll id x ((metered.frame.roll (by decide) id).trans hx)
  · have holds : ∀ c, V.get c ≠ 0 → (m.chan c).reserved ≤ m.remainingTotal c := fun c hc => by
      rw [metered.chan c (Chan.mem_list c), ← judged.remaining]
      exact law c hc
    obtain ⟨jobs, chans⟩ := lawful holds
    have same : ∀ n, t.job? n = m.job? n := fun n => congrArg (List.find? fun j : Job => j.tag == n) jobs
    have i : i₀ = { i₀ with ink := ink, flags := { i₀.flags with inkAtRisk := risk } } :=
      Option.some.inj ((here.symm.trans (same _).symm).trans job)
    refine ⟨fun n hn => (same n).trans (metered.others n hn), fun c => ?_, ?_, fun c => ?_⟩
    · rw [← i, drawn.ink c, if_pos (Chan.mem_list c)]
    · rw [← i, drawn.record]
    · rw [chans c, metered.chan c (Chan.mem_list c)]; rfl
  · exact (start.next _ (metered.frame.mono (m := [.jobs, .channels, .rolls, .lots, .merged, .notices, .store, .handling])
      (by decide))).trans (judged.frame.mono (by decide))
end

end Sys2Proof.Machine
end

-- ==== Sys2Proof/Proofs/swath ====
section
/-!
O31: an accepted swath of the printing job.
-/

namespace Sys2Proof.Machine

/-! ### The verdict and the answer (R71, R74, R80) -/

section
variable {s u : State} {j : Job} {k : SwathKind} {tag : Nat} {toggle : Bool} {counts : DropCounts} {a : HeadAnswer}

theorem Job.sequenceVerdict_go {i : Job} (h : i.sequenceVerdict k toggle = .go j) : i = j ∧ (k = .image → i.swathsLeft ≠ 0) ∧
    (k = .strip → i.stripLeft ≠ 0) := by
  unfold Job.sequenceVerdict at h
  split at h
  · cases h
  split at h
  · cases h
  split at h
  · cases h
  split at h
  · cases h
  split at h
  · cases h
  · rename_i image
    split at h
    · cases h
    · rename_i strip
      refine ⟨SwathVerdict.go.inj h, fun e z => image ⟨e, z⟩, fun e z => strip ⟨e, ?_⟩⟩
      unfold Job.stripDue
      rw [z]
      simp

theorem State.swathVerdict_go (h : s.swathVerdict tag k toggle = .go j) : s.job? tag = some j ∧
    (k = .image → j.swathsLeft ≠ 0) ∧ (k = .strip → j.stripLeft ≠ 0) := by
  unfold State.swathVerdict at h
  cases hj : s.job? tag with
  | none => rw [hj] at h; cases h
  | some i =>
    rw [hj] at h
    dsimp only at h
    split at h
    · cases h
    · cases h
    · split at h <;> cases h
    · cases h
    · obtain ⟨rfl, image, strip⟩ := Job.sequenceVerdict_go h
      exact ⟨rfl, image, strip⟩
    · obtain ⟨rfl, image, strip⟩ := Job.sequenceVerdict_go h
      exact ⟨rfl, image, strip⟩

theorem State.takeGo_run (hp : s.phase = .run) (hc : s.media.cutter ≠ .jammed) (covered : s.uncovered (s.draws counts) = []) :
    s.takeGo tag k counts =
      (((s.gather.applyFrame (some (tag, k)) (s.draws counts) (s.candidates counts)).advanceSwath tag k).1.handGathered,
        ((s.gather.applyFrame (some (tag, k)) (s.draws counts) (s.candidates counts)).advanceSwath tag k).2) := by
  unfold State.takeGo
  dsimp only
  rw [if_neg (show ¬ (s.phase = .flush) by rw [hp]; decide), if_neg hc, covered]

/-- What a frame leaves on the Head Link: its answer sent, or held for the groups it handed (R71, R194). -/
def State.headed (u s : State) (a : HeadAnswer) : State :=
  if (u.store.openAbove s.store.called).isEmpty then (u.endHandling s.handling).send (.head a)
  else
    { u.endHandling s.handling with head := { u.head with forming := some ⟨a, u.store.openAbove s.store.called⟩ } }

theorem State.headed_within : u.within [.handling, .out, .head] (u.headed s a) := by
  unfold State.headed
  split
  · exact (u.endHandling_within _).next _ (State.send_within _ _)
  · intro f hf
    cases f <;> first | rfl | exact absurd (by decide) hf

theorem State.headed_handling : (u.headed s a).handling = s.handling := by
  unfold State.headed; split <;> rfl

theorem State.headed_out : (u.headed s a).out = u.out ++ [.head a] ∨ (u.headed s a).out = u.out := by
  unfold State.headed
  split
  · exact .inl rfl
  · exact .inr rfl

theorem State.headed_answered (hf : u.head.forming = none) : s.headAnswered (u.headed s a) a := by
  have store : (u.headed s a).store = u.store := State.headed_within .store (by decide)
  unfold State.headAnswered
  rw [store]
  unfold State.headed
  by_cases h : u.store.openAbove s.store.called = []
  · rw [if_pos h, if_pos (List.isEmpty_iff.mpr h)]
    exact ⟨hf, List.getLast?_concat⟩
  · rw [if_neg h, if_neg (mt List.isEmpty_iff.mp h)]

theorem State.headFrame_headed {f : State → State × HeadAnswer} (h : s.takesFrame) (e : f s.opened = (u, a))
    (hp : u.phase = .run) : s.headFrame f = u.headed s a := by
  have off : ¬ (s.quiet.phase = .off ∨ s.quiet.head.forming.isSome = true) := by
    rintro (o | o)
    · exact h.1 o
    · rw [show s.quiet.head.forming = none from h.2] at o; cases o
  have still : ∀ v : State, v.phase = .run → v.advanceFlush = v := fun v hv => by
    unfold State.advanceFlush; exact if_pos (.inl (by rw [hv]; decide))
  have phase : (u.headed s a).phase = .run := (State.headed_within .phase (by decide)).trans hp
  rw [← still _ phase]
  unfold State.headFrame
  dsimp only
  rw [if_neg off, show f s.quiet.beginHandling = (u, a) from e]
  rfl
end

/-! ### The end of the step -/

/-- The state in which the gathered commit points are made, the record of job `i` being `y`. -/
structure State.concluded (e w z : State) (i x y : Job) (k : SwathKind) (yes : Bool) (g : Gathered) : Prop where
  job : z.job? i.tag = some y
  others : ∀ n, n ≠ i.tag → z.job? n = e.job? n
  ends : i.endsWith k yes → y = x.finished ∧ z.handling = { e.handling with gathered := some (g.finishing x) } ∧
    ∀ c, z.chan c = { e.chan c with reserved := (e.chan c).reserved - i.ink.get c }
  stays : ¬ i.endsWith k yes → y = x ∧ ∀ c, z.chan c = e.chan c
  roll : ∀ id r, w.roll? id = some r → ∃ n, z.roll? id = some { r with reserved := n }
  after : w.within [.jobs, .channels, .rolls, .store, .handling] z
  marker : z.store.marker = false
  hands : e.store.hands z.store 0
  gathered : ∃ g', z.handling.gathered = some g'
  hear : e.hears z
  frame : e.within [.jobs, .media, .rolls, .check, .store, .out, .channels, .handling] z

section
variable {e w : State} {i x : Job} {k : SwathKind} {yes : Bool} {a : StripInd} {g : Gathered}

theorem State.advances.concludes (h : e.advances w i x k yes a) (hs : e.tables) (hg : e.handling.gathered = some g) :
    ∃ z y, e.advanceSwath i.tag k = (z, .accept a) ∧ e.concluded w z i x y k yes g := by
  have same : w.handling = e.handling := h.stride.frame .handling (by decide)
  have chan : ∀ c, w.chan c = e.chan c := h.stride.frame.chan (by decide)
  by_cases ends : i.endsWith k yes
  · have tag : x.tag = i.tag := State.job_key h.stride.job
    have job := h.stride.job
    rw [← tag] at job
    have gathered : w.handling.gathered = some g := by rw [same]; exact hg
    have tables := h.stride.keep.tables hs
    have later := State.finish_endsLater tables job gathered
    have test := State.finishAndTest_later tables job gathered (h.ahead ends)
    rw [tag] at later test
    refine ⟨w.finish i.tag, x.finished, (h.ends ends).trans (by rw [test]), ?_⟩
    have gone := later.handling
    rw [same] at gone
    refine ⟨tag ▸ later.job, fun n hn => (later.others n (tag ▸ hn)).trans (h.stride.others n hn), fun _ => ⟨rfl, gone, fun c => ?_⟩,
      fun no => absurd ends no, later.roll, later.frame, ?_, Store.hands.trans h.stride.hands later.hands,
      ⟨_, congrArg Handling.gathered gone⟩, h.stride.hear.trans later.hear,
      (h.stride.frame.mono (by decide)).trans (later.frame.mono (by decide))⟩
    · rw [later.chan, chan, h.ink]
    · refine Bool.eq_false_iff.mpr fun m => ?_
      have := later.hands.2.2 m
      rw [h.stride.marker] at this
      cases this
  · refine ⟨w, x, h.stays ends, h.stride.job, h.stride.others, fun yes => absurd yes ends, fun _ => ⟨rfl, chan⟩,
      fun id r hr => ⟨r.reserved, hr⟩, w.within_refl _, h.stride.marker, h.stride.hands, ⟨g, by rw [same]; exact hg⟩,
      h.stride.hear, h.stride.frame.mono (by decide)⟩
end

end Sys2Proof.Machine
end

-- ==== Sys2Proof/Proofs/accepted ====
section
/-!
O31: an accepted swath meters its draws, enters and reserves them, and advances its job (R14, R15, R53, R56, R58, R61, R62, R66,
R77, R80, R81, R114, R115).
-/

namespace Sys2Proof.Machine

/-- An accepted swath from `s` to `t`: the draws leave `e` and the record `i`, the job's step `w` and `x`, the end of its
printing `z` and `y`. -/
structure State.swathRun (s t e w z : State) (j i x y : Job) (k : SwathKind) (v r : Chan → Nat) (lot : Chan → Lot) (yes : Bool)
    (a : StripInd) (p : List (List RecKey)) : Prop where
  tapped : s.tapped e j i k v r lot
  advances : e.advances w i x k yes a
  concluded : e.concluded w z i x y k yes { points := p }
  handling : e.handling = { since := some s.store.called, gathered := some { points := p } }
  answered : t = z.handGathered.headed s (.accept a)
  sound : s.sound

section
variable {s t e w z : State} {j i x y : Job} {k : SwathKind} {v r : Chan → Nat} {lot : Chan → Lot} {yes : Bool} {a : StripInd}
  {p : List (List RecKey)}

theorem State.swathRun.tag (h : s.swathRun t e w z j i x y k v r lot yes a p) : i.tag = j.tag := State.job_key h.tapped.job

/-- The record of the job behind the draws. -/
theorem State.swathRun.record (h : s.swathRun t e w z j i x y k v r lot yes a p) : i = { j with
    draws := i.draws, ink := i.ink
    flags := { j.flags with priceMerged := i.flags.priceMerged, overrunInk := i.flags.overrunInk
                            inkAtRisk := i.flags.inkAtRisk } } := by
  obtain ⟨i₀, ink, risk, drawn, e⟩ := h.tapped.drawn
  rw [e]
  dsimp only
  conv_lhs => rw [drawn.record]

theorem State.swathRun.drawn (h : s.swathRun t e w z j i x y k v r lot yes a p) :
    (∀ c, entriesOn i.draws c = if v c ≠ 0 then Machine.entered k c ((lot c).code, v c) (entriesOn j.draws c) else entriesOn j.draws c) ∧
    (i.flags.priceMerged = true ↔ j.flags.priceMerged = true ∨ ∃ c, v c ≠ 0 ∧
      ¬ (∃ d ∈ entriesOn j.draws c, d.lot = (lot c).code) ∧ 3 ≤ (entriesOn j.draws c).length) ∧
    (i.flags.overrunInk = true ↔ j.flags.overrunInk = true ∨ ∃ c, v c ≠ 0 ∧ j.ink.get c < v c) := by
  obtain ⟨i₀, ink, risk, drawn, e⟩ := h.tapped.drawn
  have mem : ∀ q : Chan → Prop, (∃ c ∈ Chan.list, q c) ↔ ∃ c, q c := fun q => exists_congr fun c => and_iff_right (Chan.mem_list c)
  have entries := drawn.entries
  have merged := drawn.merged
  have overrun := drawn.overrun
  rw [mem] at merged overrun
  rw [e]
  exact ⟨fun c => (entries c).trans (if_congr (and_iff_right (Chan.mem_list c)) rfl rfl), merged, overrun⟩

/-- The end of the printing leaves what the swath has made of the record. -/
theorem State.swathRun.printed (h : s.swathRun t e w z j i x y k v r lot yes a p) : Job.swathed k i y ∧
    y.lastStrip = x.lastStrip ∧ y.strip = x.strip ∧ y.stripLeft = x.stripLeft ∧ y.cut = x.cut := by
  by_cases ends : i.endsWith k yes
  · obtain ⟨e, -, -⟩ := h.concluded.ends ends
    rw [e]
    obtain ⟨h1, h2, h3, h4, h5, h6, h7, h8⟩ := h.advances.record
    exact ⟨⟨h1, h2, h3, h4, h5, h6, h7, h8⟩, rfl, rfl, rfl, rfl⟩
  · rw [(h.concluded.stays ends).1]
    exact ⟨h.advances.record, rfl, rfl, rfl, rfl⟩

theorem State.swathRun.within_end (h : s.swathRun t e w z j i x y k v r lot yes a p) :
    z.within [.notices, .store, .handling, .out, .head] t := by
  rw [h.answered]
  exact (z.handGathered_within).next _ State.headed_within

theorem State.swathRun.store (h : s.swathRun t e w z j i x y k v r lot yes a p) : t.store = z.handGathered.store := by
  rw [h.answered]
  exact State.headed_within .store (by decide)

theorem State.swathRun.chan (h : s.swathRun t e w z j i x y k v r lot yes a p) (c : Chan) : t.chan c =
    { s.chan c with residue := r c, reserved := (t.chan c).reserved, state := (t.chan c).state } := by
  have last : t.chan c = { e.chan c with reserved := (t.chan c).reserved } := by
    rw [h.within_end.chan (by decide)]
    by_cases ends : i.endsWith k yes
    · rw [(h.concluded.ends ends).2.2 c]
    · rw [(h.concluded.stays ends).2 c]
  rw [last, h.tapped.chan c]

theorem State.swathRun.lotFound (h : s.swathRun t e w z j i x y k v r lot yes a p) (n : Nat) : t.lot? n = e.lot? n :=
  (h.within_end.lot (by decide) n).trans (h.concluded.frame.lot (by decide) n)

theorem State.swathRun.dirty (h : s.swathRun t e w z j i x y k v r lot yes a p) (n : RecKey) :
    n ∈ t.store.dirty ↔ n ∈ s.store.dirty ∨ ∃ c, v c ≠ 0 ∧ n = .lot (lot c).code := by
  have made := State.handGathered_hands (s := z) z.store.hands_refl
  have same : t.store.dirty = e.store.dirty := by
    rw [h.store, made.1]
    exact h.concluded.hands.still.1
  rw [same, h.tapped.dirty]

theorem State.swathRun.marker (h : s.swathRun t e w z j i x y k v r lot yes a p) : t.store.marker = false := by
  rw [h.store]
  refine Bool.eq_false_iff.mpr fun m => ?_
  have := (State.handGathered_hands (s := z) z.store.hands_refl).2.2 m
  rw [h.concluded.marker] at this
  cases this

theorem State.swathRun.remaining (h : s.swathRun t e w z j i x y k v r lot yes a p) (c : Chan) :
    t.remainingTotal c = e.remainingTotal c := by
  refine State.remainingTotal_congr ?_ ?_
  · rw [h.chan c, h.tapped.chan c]
  · exact (h.within_end .lots (by decide)).trans (h.concluded.frame .lots (by decide))

/-- The reservations, where the ink law still holds (R59, R66). -/
theorem State.swathRun.reserved (h : s.swathRun t e w z j i x y k v r lot yes a p)
    (law : ∀ c, v c ≠ 0 → (s.chan c).reserved + (j.ink.get c - v c) - j.ink.get c ≤ t.remainingTotal c) :
    (∀ n, n ≠ j.tag → t.job? n = s.job? n) ∧ i.flags.inkAtRisk = j.flags.inkAtRisk ∧
    (¬ i.endsWith k yes → ∀ c, y.ink.get c = j.ink.get c - v c ∧
      (t.chan c).reserved = (s.chan c).reserved + (j.ink.get c - v c) - j.ink.get c) ∧
    (i.endsWith k yes → ∀ c, (t.chan c).reserved =
      (s.chan c).reserved + (j.ink.get c - v c) - j.ink.get c - (j.ink.get c - v c)) := by
  obtain ⟨jobs, ink, risk, reserved⟩ := h.tapped.lawful fun c hc => by rw [← h.remaining]; exact law c hc
  refine ⟨fun n hn => ?_, risk, fun no c => ?_, fun ends c => ?_⟩
  · rw [h.within_end.job (by decide), h.concluded.others n (by rw [h.tag]; exact hn), jobs n hn]
  · obtain ⟨same, chan⟩ := h.concluded.stays no
    rw [same, h.advances.ink, ink, h.within_end.chan (by decide), chan, reserved]
    exact ⟨rfl, rfl⟩
  · rw [h.within_end.chan (by decide), (h.concluded.ends ends).2.2 c, reserved, ink]

/-- The notices of the swath, with that of the end of its printing last (R15, R80, R194). -/
theorem State.swathRun.noticed (h : s.swathRun t e w z j i x y k v r lot yes a p) (ends : i.endsWith k yes) :
    ∃ before, s.noticed t (before ++
      [(t.store.called - s.store.called, .num j.tag, .jobState .finishing y.cause y.flags)]) := by
  obtain ⟨record, gathered, -⟩ := h.concluded.ends ends
  have sound : s.opened.gather.store.sound := (State.sound_iff s).mp h.sound |>.1.store
  have tag : x.tag = j.tag := (State.job_key h.advances.stride.job).trans h.tag
  obtain ⟨m, first, low⟩ := h.tapped.hear.more sound s.opened.gather [] (State.heard_refl _)
  obtain ⟨n, second, low'⟩ := h.concluded.hear.more (h.tapped.hear.mind.sound sound) _ _ first
  have mind := (h.tapped.hear.mind.trans h.concluded.hear.mind).trans z.handGathered_minds
  have heard := State.handGathered_heard (h.concluded.hear.mind.sound (h.tapped.hear.mind.sound sound))
    (congrArg Handling.gathered gathered) rfl second
  rw [← h.store, tag] at heard
  have called : ∀ q ∈ m ++ n, s.store.called ≤ q.1 := fun q hq =>
    (List.mem_append.mp hq).elim (low q) fun hq => (h.tapped.called ▸ low' q hq : _)
  have above : s.store.called ≤ t.store.called := by rw [h.store]; exact mind.called
  refine ⟨(m ++ n).map fun q => (q.1 - s.store.called, q.2), heard.noticed (s := s) rfl mind.since ?_ h.store ?_⟩
  · rw [h.answered]; exact State.headed_within .notices (by decide)
  · rw [record, List.map_append, List.map_map, List.map_singleton]
    refine congr (congrArg _ ?_) ?_
    · refine (List.map_id _).symm.trans (List.map_congr_left fun q hq => ?_)
      have := called q hq
      exact Prod.ext (by simp only [id, Function.comp]; omega) rfl
    · rw [Nat.add_sub_cancel' above]
      rfl
end

end Sys2Proof.Machine
end

-- ==== Sys2Proof/Proofs/swathCuts ====
section
/-!
O31: the cuts of an accepted swath (R114, R115, R117), and the whole.
-/

namespace Sys2Proof.Machine

/-- What the last image swath leaves of the cutter, with the cuts `c` and `es` planned, the last at `point`. -/
structure State.cutsLaid (s t : State) (r : Roll) (c : CutEntry) (es : List CutEntry) (point : Nat) : Prop where
  queue : t.media.queue = s.media.queue ++ c :: es
  roll : ∃ n, t.roll? r.id = some { r with boundary := point, reserved := n }
  media : t.media = { s.media with queue := t.media.queue, cutter := t.media.cutter, timer := t.media.timer }
  behind : s.media.queue ≠ [] → t.media.cutter = s.media.cutter ∧ t.media.timer = s.media.timer ∧ t.out.length ≤ 1
  first : s.media.queue = [] → t.out.head? = some (.stopAt (some c.target))
  cuts : s.media.queue = [] → s.media.cutter = .idle → c.target ≤ r.fed →
    t.media.cutter = .cutting ∧ t.media.timer = some s.media.geometry.cutTimeout ∧ .cut c.kind c.target ∈ t.out
  waits : s.media.queue = [] → s.media.cutter ≠ .idle ∨ r.fed < c.target →
    t.media.cutter = s.media.cutter ∧ t.media.timer = s.media.timer

section
variable {s t e w z : State} {j i x y : Job} {k : SwathKind} {v r : Chan → Nat} {lot : Chan → Lot} {yes : Bool} {a : StripInd}
  {p : List (List RecKey)}

theorem State.swathRun.media (h : s.swathRun t e w z j i x y k v r lot yes a p) : t.media = w.media :=
  (h.within_end .media (by decide)).trans (h.concluded.after .media (by decide))

theorem State.swathRun.check (h : s.swathRun t e w z j i x y k v r lot yes a p) : t.check = w.check :=
  (h.within_end .check (by decide)).trans (h.concluded.after .check (by decide))

theorem State.swathRun.media_before (h : s.swathRun t e w z j i x y k v r lot yes a p) : e.media = s.media :=
  h.tapped.frame .media (by decide)

theorem State.swathRun.check_before (h : s.swathRun t e w z j i x y k v r lot yes a p) : e.check = s.check :=
  h.tapped.frame .check (by decide)

theorem State.swathRun.out (h : s.swathRun t e w z j i x y k v r lot yes a p) :
    t.out = w.out ++ [.head (.accept a)] ∨ t.out = w.out := by
  have same : z.handGathered.out = w.out :=
    (z.handGathered_within .out (by decide)).trans (h.concluded.after .out (by decide))
  rw [h.answered, ← same]
  exact State.headed_out

/-- The cuts of the job planned at its last image swath (R115). -/
theorem State.swathRun.laid (h : s.swathRun t e w z j i x y k v r lot yes a p) {q : Roll} (hq : s.activeRoll = some q)
    (last : i.lastSwath k) : ∃ c es, imageCuts s.media.geometry j yes = c :: es ∧
      s.cutsLaid t q c es (lastPoint s.media.geometry j yes) := by
  have active : q.state = .active := by simpa using List.find?_some hq
  obtain ⟨n, hn⟩ := h.tapped.roll q.id q (State.roll_of_mem ((State.sound_iff s).mp h.sound).1.rolls (State.activeRoll_mem hq).1)
  obtain ⟨c, es, cuts, plan⟩ := h.advances.plan _ last (State.activeRoll_of_roll h.tapped.tables hn active)
  have media : (e.decided i yes).media = s.media := (State.decided_within yes .media (by decide)).trans h.media_before
  have out : (e.decided i yes).out = [] := (State.decided_within yes .out (by decide)).trans (h.tapped.frame .out (by decide))
  have queue := plan.queue
  have kept := plan.media
  have fires := plan.cuts
  have waits := plan.waits
  have behind := plan.behind
  rw [media] at queue kept fires waits behind
  rw [out] at fires waits behind
  rw [h.media_before] at cuts plan
  have same : imageCuts s.media.geometry i yes = imageCuts s.media.geometry j yes := by rw [h.record]; rfl
  have point : lastPoint s.media.geometry i yes = lastPoint s.media.geometry j yes := by rw [h.record]; rfl
  have sent : ∀ {l : List Output}, w.out = l → l <+: t.out := fun {l} hl =>
    h.out.elim (fun o => ⟨_, (hl ▸ o).symm⟩) fun o => ⟨[], by rw [List.append_nil, o, hl]⟩
  refine ⟨c, es, same ▸ cuts, ?_, ?_, ?_, fun some => ?_, fun none => ?_, fun none idle reached => ?_, fun none late => ?_⟩
  · rw [h.media]; exact queue
  · obtain ⟨m, hm⟩ := h.concluded.roll _ _ plan.roll
    rw [point] at hm
    exact ⟨m, (h.within_end.roll (by decide) _).trans hm⟩
  · rw [h.media]; exact kept
  · obtain ⟨cutter, timer, quiet⟩ := behind some
    rw [h.media]
    refine ⟨cutter, timer, ?_⟩
    rcases h.out with o | o <;> rw [o, quiet] <;> simp
  · by_cases starts : s.media.cutter = .idle ∧ c.target ≤ q.fed
    · obtain ⟨rest, hrest⟩ := sent (fires none starts.1 starts.2).2.2
      rw [← hrest]; rfl
    · obtain ⟨rest, hrest⟩ := sent (waits none starts).2.2
      rw [← hrest]; rfl
  · obtain ⟨cutter, timer, said⟩ := fires none idle reached
    rw [h.media]
    exact ⟨cutter, timer, (sent said).subset (by simp)⟩
  · obtain ⟨cutter, timer, -⟩ := waits none fun both => late.elim (fun ne => ne both.1) fun lt =>
      absurd (show c.target ≤ q.fed from both.2) (by omega)
    rw [h.media]
    exact ⟨cutter, timer⟩

/-- What the swath leaves as it was. -/
theorem State.swathRun.frame (h : s.swathRun t e w z j i x y k v r lot yes a p) :
    s.within [.channels, .lots, .jobs, .rolls, .media, .check, .merged, .notices, .head, .store, .out] t := by
  intro f hf
  by_cases own : f = .handling
  · rw [own]
    show t.handling = s.handling
    rw [h.answered]
    exact State.headed_handling
  · have opened : s.within [.out, .handling] s.opened := fun f hf => by cases f <;> first | rfl | exact absurd (by decide) hf
    have all : s.within
        (.handling :: [.channels, .lots, .jobs, .rolls, .media, .check, .merged, .notices, .head, .store, .out]) t :=
      (((opened.mono (by decide)).trans (h.tapped.frame.mono (by decide))).trans (h.concluded.frame.mono (by decide))).trans
        (h.within_end.mono (by decide))
    exact all f fun m => (List.mem_cons.mp m).elim own hf
end

/-! ### The hypotheses of O31 -/

section
variable {s : State} {j : Job} {k : SwathKind} {tag kind : Nat} {toggle : Bool} {counts : DropCounts} {lot : Chan → Lot}

theorem State.drawsFit.fits (h : s.drawsFit counts lot) : s.fits (fun c => (s.chan c).drawOf (counts.get c)) lot :=
  ⟨fun c hc => (h.1 c hc).1, fun c hc => (h.1 c hc).2, h.2⟩

theorem State.draws_get (c : Chan) : (s.draws counts).get c = (s.chan c).drawOf (counts.get c) := Vector.get_ofFn ..

theorem State.candidates_get (c : Chan) : (s.candidates counts).get c = (s.chan c).residueOf (counts.get c) :=
  Vector.get_ofFn ..

theorem State.activeLot_remaining {c : Chan} {x : Lot} (h : s.activeLot c = some x) : x.remaining ≤ s.remainingTotal c := by
  obtain ⟨q, n, -, at_, found⟩ := State.activeLot_found h
  have here : s.slotVolume c q = x.remaining := by
    unfold State.slotVolume State.lotIn
    rw [at_, Option.bind_some, found]
    rfl
  unfold State.remainingTotal
  cases q <;> omega

theorem State.drawsFit.covered (h : s.drawsFit counts lot) : s.uncovered (s.draws counts) = [] := by
  refine List.filter_eq_nil_iff.mpr fun c _ => ?_
  rw [State.draws_get, decide_eq_true_iff]
  by_cases zero : (s.chan c).drawOf (counts.get c) = 0
  · omega
  · obtain ⟨active, lt⟩ := h.1 c zero
    have := State.activeLot_remaining active
    omega

theorem exec_swath : exec (.swath tag kind toggle counts) s = .next (s.headFrame fun s => s.takeSwath tag kind toggle counts) := rfl

/-- An accepted swath of a printing job runs. -/
theorem State.swath_runs (free : s.takesFrame) (sound : s.sound) (run : s.phase = .run) (cutter : s.media.cutter ≠ .jammed)
    (hk : swathKindOf kind = some k) (go : s.swathVerdict j.tag k toggle = .go j) (printing : j.state = .printing)
    (fit : s.drawsFit counts lot) : ∃ t e w z i x y a p, exec (.swath j.tag kind toggle counts) s = .next t ∧
      s.swathRun t e w z j i x y k (fun c => (s.chan c).drawOf (counts.get c)) (fun c => (s.chan c).residueOf (counts.get c)) lot
        (e.stripWanted i) a p ∧ z.phase = .run ∧ z.head = s.head := by
  obtain ⟨hj, image, strip⟩ := State.swathVerdict_go go
  obtain ⟨i, tapped⟩ := State.applyFrame_tapped (k := k) (V := s.draws counts) (R := s.candidates counts)
    ((State.sound_iff s).mp sound).1 hj printing fit.fits State.draws_get State.candidates_get
  have took : s.opened.takeSwath j.tag kind toggle counts = s.opened.takeGo j.tag k counts := by
    unfold State.takeSwath
    rw [hk]
    dsimp only
    rw [if_neg (show ¬ s.opened.phase = .restore by rw [show s.opened.phase = _ from run]; decide),
      show s.opened.swathVerdict j.tag k toggle = .go j from go]
  rw [State.takeGo_run (s := s.opened) run cutter fit.covered, show s.opened.draws counts = s.draws counts from rfl,
    show s.opened.candidates counts = s.candidates counts from rfl] at took
  generalize s.opened.gather.applyFrame (some (j.tag, k)) (s.draws counts) (s.candidates counts) = e at *
  have tag : i.tag = j.tag := State.job_key tapped.job
  have here := tapped.job
  rw [← tag] at here took
  obtain ⟨p, handling⟩ := tapped.handling
  obtain ⟨i₀, ink, risk, drawn, record⟩ := tapped.drawn
  have left : i.swathsLeft = j.swathsLeft ∧ i.stripLeft = j.stripLeft := by rw [record, drawn.record]; exact ⟨rfl, rfl⟩
  obtain ⟨w, x, a, advances⟩ := State.advanceSwath_advances tapped.tables here k (by rw [left.1]; exact image)
    (by rw [left.2]; exact strip)
  obtain ⟨z, y, eq, concluded⟩ := advances.concludes tapped.tables (congrArg Handling.gathered handling)
  rw [eq, tag] at took
  have phase : z.phase = .run := (concluded.frame .phase (by decide)).trans ((tapped.frame .phase (by decide)).trans run)
  have head : z.head = s.head := (concluded.frame .head (by decide)).trans (tapped.frame .head (by decide))
  refine ⟨_, e, w, z, i, x, y, a, p, ?_, ⟨tapped, advances, concluded, handling, rfl, sound⟩, phase, head⟩
  rw [exec_swath]
  exact congrArg _ (State.headFrame_headed free took ((z.handGathered_within .phase (by decide)).trans phase))
end

end Sys2Proof.Machine
end

-- ==== Sys2Proof/Proofs/swath ====
section
/-!
O31: the clauses of an accepted swath, one by one, and the whole.
-/

namespace Sys2Proof.Machine

/-! ### The lot and the draw list (R58, R61, R62) -/

section
variable {k : SwathKind} {c : Chan} {n v : Nat} {l own : List DrawEntry} {e : DrawEntry}

theorem Lot.take_swath {x : Lot} : x.take (some k) v = { x with
    remaining := x.remaining - v, state := lotStateOf (x.remaining - v) x.location
    imageDrawn := x.imageDrawn + if k = .image then v else 0, stripDrawn := x.stripDrawn + if k = .strip then v else 0 } := by
  cases k <;> rfl

theorem entriesOn_lot_iff : (∃ d ∈ entriesOn l c, d.lot = n) ↔ ∃ d ∈ l, d.channel = c ∧ d.lot = n :=
  exists_congr fun d => by rw [mem_entriesOn, and_assoc]

theorem entered_own (h : ∃ d ∈ own, d.lot = n) :
    Machine.entered k c (n, v) own = own.map fun d => if d.lot = n then d.plus k v else d := if_pos h

theorem entered_new (h : ¬ ∃ d ∈ own, d.lot = n) (room : own.length < 3) :
    Machine.entered k c (n, v) own = own ++ [(⟨c, n, 0, 0⟩ : DrawEntry).plus k v] := (if_neg h).trans (if_pos room)

theorem entered_full (h : ¬ ∃ d ∈ own, d.lot = n) (full : 3 ≤ own.length) (last : own.getLast? = some e) :
    Machine.entered k c (n, v) own = own.map fun d => if d.lot = e.lot then d.plus k v else d := by
  unfold Machine.entered
  rw [if_neg h, if_neg (by omega), last]
end

/-! ### The clauses -/

section
variable {s t e w z : State} {j i x y : Job} {k : SwathKind} {v r : Chan → Nat} {lot : Chan → Lot} {yes : Bool} {a : StripInd}
  {p : List (List RecKey)}

theorem State.swathRun.job (h : s.swathRun t e w z j i x y k v r lot yes a p) : t.job? j.tag = some y := by
  rw [h.within_end.job (by decide), ← h.tag]
  exact h.concluded.job

theorem State.swathRun.lastSwath_iff (h : s.swathRun t e w z j i x y k v r lot yes a p) :
    i.lastSwath k ↔ k = .image ∧ j.swathsLeft = 1 := by
  rw [h.record]; rfl

theorem State.swathRun.endsWith_iff (h : s.swathRun t e w z j i x y k v r lot yes a p) :
    i.endsWith k yes ↔ ((k = .image ∧ j.swathsLeft = 1) ∧ ¬ yes = true) ∨ (k = .strip ∧ j.stripLeft = 1) := by
  rw [h.record, Bool.not_eq_true]; rfl

/-- The strip decision of R135 reads nothing that the draws change. -/
theorem State.swathRun.stripWanted_iff (h : s.swathRun t e w z j i x y k v r lot yes a p) : e.stripWanted i = true ↔
    s.check.plan.effective ≤ s.check.counter + 1 ∨ s.check.forced = true ∨ j.flags.lotChanged = true ∨
      j.flags.rowFaultDuring = true ∨ ∃ id ed, j.spec.edition = some id ∧ s.edition? id = some ed ∧ ed.state = .proving := by
  have editions : ∀ id, e.edition? id = s.edition? id := fun id =>
    congrArg (List.find? _) (h.tapped.frame .editions (by decide) : e.editions = s.editions)
  have same : e.stripWanted i = e.stripWanted j := by rw [h.record]; rfl
  rw [same]
  unfold State.stripWanted
  rw [h.check_before]
  simp only [Bool.or_eq_true, decide_eq_true_iff, or_assoc]
  refine or_congr_right (or_congr_right (or_congr_right (or_congr_right ?_)))
  cases spec : j.spec.edition with
  | none => simp
  | some id =>
    rw [Option.bind_some, editions id]
    cases found : s.edition? id <;> simp [found]

/-- The draw list and its flag (R61, R62). -/
theorem State.swathRun.entries (h : s.swathRun t e w z j i x y k v r lot yes a p) :
    let own : Chan → Prop := fun c => ∃ d ∈ j.draws, d.channel = c ∧ d.lot = (lot c).code
    let full : Chan → Prop := fun c => ¬ own c ∧ 3 ≤ (entriesOn j.draws c).length
    (∀ c, v c = 0 → entriesOn y.draws c = entriesOn j.draws c) ∧
    (∀ c, v c ≠ 0 → own c → entriesOn y.draws c =
      (entriesOn j.draws c).map fun d => if d.lot = (lot c).code then d.plus k (v c) else d) ∧
    (∀ c, v c ≠ 0 → ¬ own c → (entriesOn j.draws c).length < 3 →
      entriesOn y.draws c = entriesOn j.draws c ++ [(⟨c, (lot c).code, 0, 0⟩ : DrawEntry).plus k (v c)]) ∧
    (∀ c e, v c ≠ 0 → full c → (entriesOn j.draws c).getLast? = some e →
      (j.tag, (lot c).code) ∈ t.merged ∧
      entriesOn y.draws c = (entriesOn j.draws c).map fun d => if d.lot = e.lot then d.plus k (v c) else d) ∧
    (y.flags.priceMerged = true ↔ j.flags.priceMerged = true ∨ ∃ c, v c ≠ 0 ∧ full c) := by
  intro own full
  obtain ⟨entries, merged, -⟩ := h.drawn
  have drawn : ∀ c, v c ≠ 0 →
      entriesOn y.draws c = Machine.entered k c ((lot c).code, v c) (entriesOn j.draws c) := fun c hc => by
    rw [h.printed.1.draws, entries, if_pos hc]
  have owns : ∀ c, (∃ d ∈ entriesOn j.draws c, d.lot = (lot c).code) ↔ own c := fun c => entriesOn_lot_iff
  refine ⟨fun c zero => ?_, fun c hc has => ?_, fun c hc new room => ?_, fun c e hc both last => ⟨?_, ?_⟩, ?_⟩
  · rw [h.printed.1.draws, entries, if_neg (not_not_intro zero)]
  · rw [drawn c hc, entered_own ((owns c).mpr has)]
  · rw [drawn c hc, entered_new (mt (owns c).mp new) room]
  · rw [(h.within_end .merged (by decide)).trans (h.concluded.frame .merged (by decide))]
    exact h.tapped.merged c hc (mt (owns c).mp both.1) both.2
  · rw [drawn c hc, entered_full (mt (owns c).mp both.1) both.2 last]
  · rw [h.printed.1.flags, merged]
    exact or_congr_right (exists_congr fun c => and_congr_right fun _ => and_congr_left fun _ => not_congr (owns c))

/-- The strip decision and its answer, the check state and the record's strip and cut (R77, R80, R81, R115). -/
theorem State.swathRun.decision (h : s.swathRun t e w z j i x y k v r lot yes a p) :
    (i.lastSwath k → yes = true → a = .yes ∧ y.lastStrip = some true ∧ y.strip = .planned ∧
      y.stripLeft = s.check.plan.stripSwaths ∧ t.check = s.check) ∧
    (i.lastSwath k → ¬ yes = true → a = .no ∧ y.lastStrip = some false ∧ y.strip = j.strip ∧
      t.check = { s.check with counter := min (s.check.counter + 1) 255 }) ∧
    (¬ i.lastSwath k → a = .none ∧ y.lastStrip = j.lastStrip ∧ t.check = s.check ∧ t.media = s.media) ∧
    (i.lastSwath k → y.cut = .pending) ∧ (¬ i.lastSwath k → y.cut = j.cut) ∧
    (¬ i.lastSwath k → k = .image → y.strip = j.strip ∧ y.stripLeft = j.stripLeft) ∧
    (k = .strip → y.stripLeft = j.stripLeft - 1 ∧ y.strip = if j.stripLeft = 1 then .printed else j.strip) := by
  obtain ⟨-, lastStrip, strip, stripLeft, cut⟩ := h.printed
  have before : i.lastStrip = j.lastStrip ∧ i.strip = j.strip ∧ i.stripLeft = j.stripLeft ∧ i.cut = j.cut := by
    rw [h.record]; exact ⟨rfl, rfl, rfl, rfl⟩
  obtain ⟨lastStrip', strip', stripLeft', cut'⟩ := before
  rw [lastStrip, strip, stripLeft, cut, ← lastStrip', ← strip', ← stripLeft', ← cut', h.check, h.media, ← h.check_before,
    ← h.media_before]
  refine ⟨h.advances.lastYes, fun last no => h.advances.lastNo last (Bool.not_eq_true _ ▸ no), fun notLast => ?_, h.advances.cut,
    fun notLast => ?_, h.advances.image, h.advances.strip⟩
  · obtain ⟨answer, same, check, media, -⟩ := h.advances.other notLast
    exact ⟨answer, same, check, media⟩
  · obtain ⟨-, -, -, -, same, -⟩ := h.advances.other notLast
    exact same

/-- The end of the printing, or its going on (R15, R80). -/
theorem State.swathRun.ending (h : s.swathRun t e w z j i x y k v r lot yes a p) (printing : j.state = .printing) :
    (i.endsWith k yes → y.state = .finishing ∧ y.rollRes = 0 ∧ (∀ c, y.ink.get c = 0) ∧ ∃ before, s.noticed t
      (before ++ [(t.store.called - s.store.called, .num j.tag, .jobState .finishing y.cause y.flags)])) ∧
    (¬ i.endsWith k yes → y.state = .printing) := by
  refine ⟨fun ends => ?_, fun stays => ?_⟩
  · obtain ⟨record, -, -⟩ := h.concluded.ends ends
    refine ⟨by rw [record]; rfl, by rw [record]; rfl, fun c => ?_, h.noticed ends⟩
    rw [record]
    exact Vector.get_replicate ..
  · rw [(h.concluded.stays stays).1, h.advances.state, h.record]
    exact printing

/-- The cuts in the words of R114, R115 and R117. -/
theorem State.cutsLaid.claim {q : Roll} {c : CutEntry} {es : List CutEntry} {point : Nat} (h : s.cutsLaid t q c es point) :
    t.media = { s.media with queue := t.media.queue, cutter := t.media.cutter, timer := t.media.timer } ∧
    (s.media.queue ≠ [] → t.media.cutter = s.media.cutter ∧ t.media.timer = s.media.timer ∧ t.out.length ≤ 1) ∧
    (s.media.queue = [] → t.out.head? = some (.stopAt (some c.target)) ∧
      (s.media.cutter = .idle → c.target ≤ q.fed →
        t.media.cutter = .cutting ∧ t.media.timer = some s.media.geometry.cutTimeout ∧ .cut c.kind c.target ∈ t.out) ∧
      (s.media.cutter ≠ .idle ∨ q.fed < c.target →
        t.media.cutter = s.media.cutter ∧ t.media.timer = s.media.timer)) :=
  ⟨h.media, h.behind, fun none => ⟨h.first none, h.cuts none, h.waits none⟩⟩
end

/-- Settles O31: the draws are metered channel by channel, the ink law is evaluated behind them, the job's step follows by the
kind of the swath and the strip decision, and the commit points gathered on the way are made at the end. -/
theorem acceptedSwathMetersAndAdvances : Obligations.AcceptedSwathMetersAndAdvances := by
  intro s tag kind k j toggle counts lot free sound run cutter hk go printing fit v last proving yes ends own full less geo sep
    stop sepCut stripCut
  obtain rfl : j.tag = tag := State.job_key (State.swathVerdict_go go).1
  obtain ⟨t, e, w, z, i, x, y, a, p, step, h, -, head⟩ := State.swath_runs free sound run cutter hk go printing fit
  have wanted : yes ↔ e.stripWanted i = true := h.stripWanted_iff.symm
  have ending : ends ↔ i.endsWith k (e.stripWanted i) :=
    (or_congr_left (and_congr_right fun _ => not_congr wanted)).trans h.endsWith_iff.symm
  have lasts : last ↔ i.lastSwath k := h.lastSwath_iff.symm
  obtain ⟨none, owned, new, third, merged⟩ := h.entries
  obtain ⟨onYes, onNo, other, cut, uncut, image, strip⟩ := h.decision
  obtain ⟨ended, stayed⟩ := h.ending printing
  have before : i.toggle = j.toggle ∧ i.spec = j.spec ∧ i.gains = j.gains ∧ i.swathsLeft = j.swathsLeft := by
    rw [h.record]; exact ⟨rfl, rfl, rfl, rfl⟩
  obtain ⟨toggle', spec', gains', left'⟩ := before
  have record := h.printed.1
  rw [← wanted, ← lasts] at onYes onNo
  rw [← lasts] at other cut uncut image
  rw [← ending] at ended stayed
  refine ⟨t, y, a, step, ?_, h.job, fun c => ?_, fun c hc => ?_, fun n hn => ?_, h.dirty, h.marker, record.toggle.trans
    (by rw [toggle']), record.kind, record.spec.trans spec', record.gains.trans gains', record.left.trans (by rw [left']), ?_, none,
    owned, new, third, ?_, fun law => ?_, ended, stayed, onYes, onNo, other, cut, uncut, fun q hlast active => ?_, image, strip, ?_⟩
  · rw [h.answered]
    exact State.headed_answered ((congrArg HeadLink.forming ((z.handGathered_within .head (by decide)).trans head)).trans free.2)
  · rw [h.chan c]
  · rw [h.lotFound, h.tapped.taken c hc, Lot.take_swath]
  · rw [h.lotFound, h.tapped.spared n hn]
  · rw [Bool.eq_iff_iff, Bool.or_eq_true, decide_eq_true_iff, record.flags]
    exact h.drawn.2.2
  · rw [Bool.eq_iff_iff, Bool.or_eq_true, decide_eq_true_iff]
    exact merged
  · obtain ⟨others, risk, stays, gone⟩ := h.reserved law
    rw [← ending] at stays gone
    exact ⟨others, by rw [record.flags, risk], stays, gone⟩
  · obtain ⟨c, es, cuts, laid⟩ := h.laid active (lasts.mp hlast)
    obtain ⟨n, roll⟩ := laid.roll
    by_cases strips : yes
    · rw [wanted.mp strips] at cuts laid roll
      obtain ⟨rfl, rfl⟩ : sepCut = c ∧ [stripCut] = es := List.cons.inj cuts
      exact ⟨fun _ => laid.queue, fun no => absurd strips no, ⟨_, roll, rfl, fun _ => rfl, fun no => absurd strips no⟩, laid.claim⟩
    · rw [Bool.eq_false_iff.mpr (mt wanted.mpr strips)] at cuts laid roll
      obtain ⟨rfl, rfl⟩ : sepCut = c ∧ [] = es := List.cons.inj cuts
      exact ⟨fun yes => absurd yes strips, fun _ => laid.queue, ⟨_, roll, rfl, fun yes => absurd yes strips, fun _ => rfl⟩,
        laid.claim⟩
  · exact State.frame h.frame

end Sys2Proof.Machine
end
